-- ==== Sys2Proof/Word.lean ====
section
/-! DEFINITION. The word types of the TG-32 and their plainest arithmetic (15: R262, R274). -/
namespace Sys2Proof

/-- A 64-bit register or doubleword. -/
abbrev W64 := BitVec 64
/-- An instruction word (R261). -/
abbrev W32 := BitVec 32
/-- A byte of memory. -/
abbrev Byte := BitVec 8
/-- A vector register (R271). -/
abbrev V512 := BitVec 512
/-- A scalar or vector register number. -/
abbrev Reg := BitVec 5
/-- A mask register number. -/
abbrev MaskReg := BitVec 3

end Sys2Proof
end

