-- ==== Sys2Proof/Syntax.lean ====
section
/-! DEFINITION. The instructions and events of the TG-32, one constructor per row of the opcode table. -/
namespace Sys2Proof

/-- Initiator classes of the firewall and of protected registers (13: R225, R226). -/
inductive Initiator where
  | rootMonitor | userCore | serviceColumn | host | wounoLink
  deriving DecidableEq, Repr

/-- A control register by the place it is reached at (R6, R7; 12: R218; 14: R242). -/
inductive RegAddr where
  /-- A register in the MMIO range, by local physical address. -/
  | mmio (pa : Nat)
  /-- A BAR0 register of a host port, by offset. -/
  | bar0 (port off : Nat)
  /-- The supervisor CSR PTROOT of a core (R88). -/
  | ptroot (core : Nat)
  /-- The supervisor CSR SEGTAB of a core (R85). -/
  | segtab (core : Nat)
  /-- The partition register (R212): ZLO, ZHI, WLO, WHI from bit 0 up. -/
  | partition
  /-- The module identifier, written by the root monitor at boot (R24, R224). -/
  | moduleId
  /-- The Resizable BAR control register of a host port (12: R218, R220; assumption 61). -/
  | resizeBar (port : Nat)
  deriving DecidableEq, Repr

/-- What backs an allocated address range (05: R92). -/
inductive Backing where
  | demandZero | fromHost (port : Nat) | fromModule (home : BitVec 16)
  deriving DecidableEq, Repr

/-- An address range allocated to an address space (R92): the rights it grants, as the X, W, R bits of
a leaf, its backing, the local physical address of the frames firmware sets aside for it, and the degree codes of the
firmware limits of their regions (R79, R80). -/
structure AddrRange where
  asid : BitVec 16
  base : Nat
  len : Nat
  rights : BitVec 3
  backing : Backing
  frames : Nat
  fwmin : BitVec 3
  fwmax : BitVec 3
  deriving DecidableEq, Repr

/-- A page move by firmware (R48, R93): the leaf entry's place, its new word, and the page's bytes. -/
structure Migration where
  leafPa : Nat
  newLeaf : W64
  bytes : Nat
  deriving DecidableEq, Repr

/-- Where a command comes from: the snapshot buffer of a command ring, or MCTP with its doubleword (R159, R233). -/
inductive CmdSource where
  | ring (port ring : Nat) | mctp (dw : W64)
  deriving DecidableEq, Repr

/-- A destination's answer to PREPARE (10: R185). -/
inductive CvAnswer where
  | ok | overflow | fault
  deriving DecidableEq, Repr

/-- A participant's answer to QUERY, or the fabric's report that it is dead (R190). -/
inductive CvQueryReply where
  | holdsCommit (t : W64) | aborted | undecided | dead
  deriving DecidableEq, Repr

/-- A PTP message as the discipline sees it: its origin's timestamp with the corrections it carries, in 1/16 ns on the PTP
timescale, its domain, the port on which it came, and whether it is well-formed (11: R206, R207). -/
structure PtpTime where
  port : Nat
  ptp : Nat
  domain : Nat
  valid : Bool
  deriving DecidableEq, Repr

/-- What an Announce says: its master's rank and its domain (11: R207). -/
structure PtpAnnounce where
  prio : Nat
  domain : Nat
  deriving DecidableEq, Repr

/-- Roles of service-column cells (13: R228). -/
inductive Role where
  | front | sched | fault | mgmt | ckpt
  deriving DecidableEq, Repr

/-- A boot image with the results of its two signature checks (13: R224), and its configuration table (R227): the roles from
cell y = 0 up, TBEPOCH in seconds of the PTP timescale, the PTP domain and the module's own rank there, and by host port in
CXL mode the HDM range as base and length. -/
structure BootImage where
  imageValid : Bool
  tableValid : Bool
  moduleId : BitVec 16
  columnWidth : Nat
  ibndGiB : Nat
  cthr : Nat
  /-- Moon degree limits of the module, as codes (04: R80). -/
  degMin : Nat
  degMax : Nat
  pinTimeMs : Nat
  indoubtS : Nat
  zlen : Nat
  wlen : Nat
  pps : Bool
  gatherMs : Nat
  roles : List Role
  tbepoch : Nat
  ptpDomain : Nat
  ptpRank : Nat
  cxl : List (Nat × Nat × Nat)
  /-- Firewall rules that the root monitor programs: index, low and high doubleword (13: R224 step 4, R226). -/
  firewall : List (Nat × BitVec 64 × BitVec 64)
  deriving DecidableEq, Repr

/-- A detected soft error (14: R257, R258). -/
inductive SoftErr where
  /-- An error that can affect the uncommitted chunk of a thread. -/
  | chunk (tid : Nat)
  /-- A single-bit error in a SECDED array of a core. -/
  | single (core : Nat)
  /-- A double-bit error in a committed clean line of a core's cache. -/
  | cleanLine (core line : Nat)
  /-- A double-bit error in a committed dirty line of a core's data cache. -/
  | dirtyLine (core line : Nat)
  /-- An uncorrectable error in a line of HBM, L2 or a stash. -/
  | line (line : Nat)
  /-- An error on a line that a core's front end fetches ahead (05: R102). -/
  | fetchAhead (core line : Nat)
  deriving DecidableEq, Repr


/-- One constructor per row of spec/opcode_table.json: the 210 encoded instructions with the fields of
their words, then the 135 events (95: each one whole step) with what the event is about. -/
inductive Instr where
  /-- ADD (R283): Writes the 64-bit wrapped sum of two registers. -/
  | add (d : BitVec 5) (a : BitVec 5) (b : BitVec 5)
  /-- SUB (R364): Writes the 64-bit wrapped difference of two registers. -/
  | sub (d : BitVec 5) (a : BitVec 5) (b : BitVec 5)
  /-- AND (R289): Writes the bitwise AND of two registers. -/
  | and (d : BitVec 5) (a : BitVec 5) (b : BitVec 5)
  /-- OR (R339): Writes the bitwise OR of two registers. -/
  | or (d : BitVec 5) (a : BitVec 5) (b : BitVec 5)
  /-- XOR (R390): Writes the bitwise XOR of two registers. -/
  | xor (d : BitVec 5) (a : BitVec 5) (b : BitVec 5)
  /-- SLL (R362): Shifts a register left by the low six bits of another. -/
  | sll (d : BitVec 5) (a : BitVec 5) (b : BitVec 5)
  /-- SRL (R362): Shifts a register right logically by the low six bits of another. -/
  | srl (d : BitVec 5) (a : BitVec 5) (b : BitVec 5)
  /-- SRA (R362): Shifts a register right arithmetically by the low six bits of another. -/
  | sra (d : BitVec 5) (a : BitVec 5) (b : BitVec 5)
  /-- ROR (R352): Rotates a register right by the low six bits of another. -/
  | ror (d : BitVec 5) (a : BitVec 5) (b : BitVec 5)
  /-- SLT (R363): Writes 1 when rs1 is less than rs2 as signed values. -/
  | slt (d : BitVec 5) (a : BitVec 5) (b : BitVec 5)
  /-- SLTU (R363): Writes 1 when rs1 is less than rs2 as unsigned values. -/
  | sltu (d : BitVec 5) (a : BitVec 5) (b : BitVec 5)
  /-- MIN (R331): Writes the signed minimum of two registers. -/
  | min (d : BitVec 5) (a : BitVec 5) (b : BitVec 5)
  /-- MAX (R331): Writes the signed maximum of two registers. -/
  | max (d : BitVec 5) (a : BitVec 5) (b : BitVec 5)
  /-- MINU (R331): Writes the unsigned minimum of two registers. -/
  | minu (d : BitVec 5) (a : BitVec 5) (b : BitVec 5)
  /-- MAXU (R331): Writes the unsigned maximum of two registers. -/
  | maxu (d : BitVec 5) (a : BitVec 5) (b : BitVec 5)
  /-- MUL (R337): Writes the low 64 bits of the product of two registers. -/
  | mul (d : BitVec 5) (a : BitVec 5) (b : BitVec 5)
  /-- MULH (R337): Writes the high 64 bits of the signed product. -/
  | mulh (d : BitVec 5) (a : BitVec 5) (b : BitVec 5)
  /-- MULHU (R337): Writes the high 64 bits of the unsigned product. -/
  | mulhu (d : BitVec 5) (a : BitVec 5) (b : BitVec 5)
  /-- DIV (R310): Writes the signed quotient truncated toward zero. -/
  | div (d : BitVec 5) (a : BitVec 5) (b : BitVec 5)
  /-- DIVU (R310): Writes the unsigned quotient. -/
  | divu (d : BitVec 5) (a : BitVec 5) (b : BitVec 5)
  /-- REM (R349): Writes the signed remainder with the dividend's sign. -/
  | rem (d : BitVec 5) (a : BitVec 5) (b : BitVec 5)
  /-- REMU (R349): Writes the unsigned remainder. -/
  | remu (d : BitVec 5) (a : BitVec 5) (b : BitVec 5)
  /-- CLZ (R296): Counts the zero bits above the highest set bit. -/
  | clz (d : BitVec 5) (a : BitVec 5)
  /-- CTZ (R296): Counts the zero bits below the lowest set bit. -/
  | ctz (d : BitVec 5) (a : BitVec 5)
  /-- POPC (R340): Counts the set bits of a register. -/
  | popc (d : BitVec 5) (a : BitVec 5)
  /-- ADDW (R283): Writes the sign-extended 32-bit sum. -/
  | addw (d : BitVec 5) (a : BitVec 5) (b : BitVec 5)
  /-- SUBW (R364): Writes the sign-extended 32-bit difference. -/
  | subw (d : BitVec 5) (a : BitVec 5) (b : BitVec 5)
  /-- SLLW (R362): Shifts left in 32 bits and sign-extends. -/
  | sllw (d : BitVec 5) (a : BitVec 5) (b : BitVec 5)
  /-- SRLW (R362): Shifts the low word right logically and sign-extends. -/
  | srlw (d : BitVec 5) (a : BitVec 5) (b : BitVec 5)
  /-- SRAW (R362): Shifts the low word right arithmetically and sign-extends. -/
  | sraw (d : BitVec 5) (a : BitVec 5) (b : BitVec 5)
  /-- MULW (R337): Writes the sign-extended low 32 bits of the product. -/
  | mulw (d : BitVec 5) (a : BitVec 5) (b : BitVec 5)
  /-- ADDI (R283): Adds a sign-extended 15-bit immediate. -/
  | addi (d : BitVec 5) (a : BitVec 5) (i : BitVec 15)
  /-- ANDI (R289): ANDs a sign-extended immediate. -/
  | andi (d : BitVec 5) (a : BitVec 5) (i : BitVec 15)
  /-- ORI (R339): ORs a sign-extended immediate. -/
  | ori (d : BitVec 5) (a : BitVec 5) (i : BitVec 15)
  /-- XORI (R390): XORs a sign-extended immediate. -/
  | xori (d : BitVec 5) (a : BitVec 5) (i : BitVec 15)
  /-- SLTI (R363): Writes 1 when rs1 is below the immediate, signed. -/
  | slti (d : BitVec 5) (a : BitVec 5) (i : BitVec 15)
  /-- SLTIU (R363): Writes 1 when rs1 is below the sign-extended immediate, unsigned. -/
  | sltiu (d : BitVec 5) (a : BitVec 5) (i : BitVec 15)
  /-- SLLI (R362): Shifts left by an immediate amount. -/
  | slli (d : BitVec 5) (a : BitVec 5) (s : BitVec 6)
  /-- SRLI (R362): Shifts right logically by an immediate amount. -/
  | srli (d : BitVec 5) (a : BitVec 5) (s : BitVec 6)
  /-- SRAI (R362): Shifts right arithmetically by an immediate amount. -/
  | srai (d : BitVec 5) (a : BitVec 5) (s : BitVec 6)
  /-- ADDIW (R283): Adds an immediate and sign-extends the low word. -/
  | addiw (d : BitVec 5) (a : BitVec 5) (i : BitVec 15)
  /-- LUI (R329): Writes the sign-extended 20-bit immediate times 4,096. -/
  | lui (d : BitVec 5) (i : BitVec 20)
  /-- AUIPC (R290): Writes pc plus the immediate times 4,096. -/
  | auipc (d : BitVec 5) (i : BitVec 20)
  /-- JAL (R324): Jumps pc-relative and writes the return address. -/
  | jal (d : BitVec 5) (o : BitVec 20)
  /-- JALR (R325): Jumps to register plus immediate and writes the return address. -/
  | jalr (d : BitVec 5) (a : BitVec 5) (i : BitVec 15)
  /-- CALLW (R294): Obtains a window frame, writes the return address, rotates the window down and jumps. -/
  | callw (d : BitVec 5) (o : BitVec 20)
  /-- BEQ (R293): Branches when the registers are equal. -/
  | beq (a : BitVec 5) (b : BitVec 5) (o : BitVec 15)
  /-- BNE (R293): Branches when the registers differ. -/
  | bne (a : BitVec 5) (b : BitVec 5) (o : BitVec 15)
  /-- BLT (R293): Branches when rs1 is below rs2, signed. -/
  | blt (a : BitVec 5) (b : BitVec 5) (o : BitVec 15)
  /-- BGE (R293): Branches when rs1 is at least rs2, signed. -/
  | bge (a : BitVec 5) (b : BitVec 5) (o : BitVec 15)
  /-- BLTU (R293): Branches when rs1 is below rs2, unsigned. -/
  | bltu (a : BitVec 5) (b : BitVec 5) (o : BitVec 15)
  /-- BGEU (R293): Branches when rs1 is at least rs2, unsigned. -/
  | bgeu (a : BitVec 5) (b : BitVec 5) (o : BitVec 15)
  /-- RETW (R351): Fills the caller frame if needed, rotates the window up and jumps to rs1. -/
  | retw (a : BitVec 5)
  /-- REPEAT (R36): Starts a zero-overhead loop over the next n instructions, rs1 times. -/
  | repeatI (a : BitVec 5) (n : BitVec 6)
  /-- LB (R327): Loads a sign-extended byte. -/
  | lb (d : BitVec 5) (a : BitVec 5) (i : BitVec 15)
  /-- LBU (R327): Loads a zero-extended byte. -/
  | lbu (d : BitVec 5) (a : BitVec 5) (i : BitVec 15)
  /-- LH (R327): Loads a sign-extended halfword. -/
  | lh (d : BitVec 5) (a : BitVec 5) (i : BitVec 15)
  /-- LHU (R327): Loads a zero-extended halfword. -/
  | lhu (d : BitVec 5) (a : BitVec 5) (i : BitVec 15)
  /-- LW (R327): Loads a sign-extended word. -/
  | lw (d : BitVec 5) (a : BitVec 5) (i : BitVec 15)
  /-- LWU (R327): Loads a zero-extended word. -/
  | lwu (d : BitVec 5) (a : BitVec 5) (i : BitVec 15)
  /-- LD (R327): Loads a doubleword. -/
  | ld (d : BitVec 5) (a : BitVec 5) (i : BitVec 15)
  /-- PREF (R341): Hints a fill of a line without faulting or tracking. -/
  | pref (a : BitVec 5) (i : BitVec 15)
  /-- SB (R354): Stores a byte. -/
  | sb (b : BitVec 5) (a : BitVec 5) (i : BitVec 15)
  /-- SH (R354): Stores a halfword. -/
  | sh (b : BitVec 5) (a : BitVec 5) (i : BitVec 15)
  /-- SW (R354): Stores a word. -/
  | sw (b : BitVec 5) (a : BitVec 5) (i : BitVec 15)
  /-- SD (R354): Stores a doubleword. -/
  | sd (b : BitVec 5) (a : BitVec 5) (i : BitVec 15)
  /-- FADD (R313): Floating add rounded once. -/
  | fadd (d : BitVec 5) (a : BitVec 5) (b : BitVec 5) (p : BitVec 1) (r : BitVec 3)
  /-- FSUB (R313): Floating subtract rounded once. -/
  | fsub (d : BitVec 5) (a : BitVec 5) (b : BitVec 5) (p : BitVec 1) (r : BitVec 3)
  /-- FMUL (R313): Floating multiply rounded once. -/
  | fmul (d : BitVec 5) (a : BitVec 5) (b : BitVec 5) (p : BitVec 1) (r : BitVec 3)
  /-- FDIV (R313): Floating divide rounded once. -/
  | fdiv (d : BitVec 5) (a : BitVec 5) (b : BitVec 5) (p : BitVec 1) (r : BitVec 3)
  /-- FSQRT (R313): Floating square root rounded once. -/
  | fsqrt (d : BitVec 5) (a : BitVec 5) (p : BitVec 1) (r : BitVec 3)
  /-- FMIN (R320): Floating minimumNumber. -/
  | fmin (d : BitVec 5) (a : BitVec 5) (b : BitVec 5) (p : BitVec 1)
  /-- FMAX (R320): Floating maximumNumber. -/
  | fmax (d : BitVec 5) (a : BitVec 5) (b : BitVec 5) (p : BitVec 1)
  /-- FEQ (R318): Quiet floating equality compare. -/
  | feq (d : BitVec 5) (a : BitVec 5) (b : BitVec 5) (p : BitVec 1)
  /-- FLT (R318): Signalling floating less-than compare. -/
  | flt (d : BitVec 5) (a : BitVec 5) (b : BitVec 5) (p : BitVec 1)
  /-- FLE (R318): Signalling floating less-or-equal compare. -/
  | fle (d : BitVec 5) (a : BitVec 5) (b : BitVec 5) (p : BitVec 1)
  /-- FCLASS (R314): Writes the class word of a floating operand. -/
  | fclass (d : BitVec 5) (a : BitVec 5) (p : BitVec 1)
  /-- FSGNJ (R321): Injects the sign of rs2. -/
  | fsgnj (d : BitVec 5) (a : BitVec 5) (b : BitVec 5) (p : BitVec 1)
  /-- FSGNJN (R321): Injects the inverted sign of rs2. -/
  | fsgnjn (d : BitVec 5) (a : BitVec 5) (b : BitVec 5) (p : BitVec 1)
  /-- FSGNJX (R321): Injects the XOR of both signs. -/
  | fsgnjx (d : BitVec 5) (a : BitVec 5) (b : BitVec 5) (p : BitVec 1)
  /-- FCVT (R316): Converts between floating and integer types under the rounding field. -/
  | fcvt (d : BitVec 5) (a : BitVec 5) (t : BitVec 5) (c : BitVec 2) (r : BitVec 3)
  /-- FMA (R319): Fused a times b plus c. -/
  | fma (d : BitVec 5) (a : BitVec 5) (b : BitVec 5) (c : BitVec 5) (p : BitVec 1) (r : BitVec 3)
  /-- FMS (R319): Fused a times b minus c. -/
  | fms (d : BitVec 5) (a : BitVec 5) (b : BitVec 5) (c : BitVec 5) (p : BitVec 1) (r : BitVec 3)
  /-- FNMA (R319): Fused minus a times b plus c. -/
  | fnma (d : BitVec 5) (a : BitVec 5) (b : BitVec 5) (c : BitVec 5) (p : BitVec 1) (r : BitVec 3)
  /-- VLD (R381): Loads 64 bytes into a vector register under a byte mask. -/
  | vld (v : BitVec 5) (a : BitVec 5) (k : BitVec 3) (o : BitVec 12)
  /-- VST (R381): Stores the masked bytes of a vector register. -/
  | vst (v : BitVec 5) (a : BitVec 5) (k : BitVec 3) (o : BitVec 12)
  /-- VLDS (R383): Strided vector load. -/
  | vlds (v : BitVec 5) (a : BitVec 5) (b : BitVec 5) (k : BitVec 3) (e : BitVec 2)
  /-- VSTS (R383): Strided vector store. -/
  | vsts (v : BitVec 5) (a : BitVec 5) (b : BitVec 5) (k : BitVec 3) (e : BitVec 2)
  /-- VLDX (R383): Indexed vector load. -/
  | vldx (v : BitVec 5) (a : BitVec 5) (w : BitVec 5) (k : BitVec 3) (e : BitVec 2)
  /-- VSTX (R383): Indexed vector store. -/
  | vstx (v : BitVec 5) (a : BitVec 5) (w : BitVec 5) (k : BitVec 3) (e : BitVec 2)
  /-- VLDC (R382): Typed vector load with scaling and conversion. -/
  | vldc (v : BitVec 5) (a : BitVec 5) (b : BitVec 5) (k : BitVec 3) (f : BitVec 5) (t : BitVec 2)
  /-- VSTC (R382): Typed vector store with scaling and conversion. -/
  | vstc (v : BitVec 5) (a : BitVec 5) (b : BitVec 5) (k : BitVec 3) (f : BitVec 5) (t : BitVec 2)
  /-- VADD (R373): Wrapping integer vector add. -/
  | vadd (d : BitVec 5) (a : BitVec 5) (b : BitVec 5) (k : BitVec 3) (t : BitVec 2)
  /-- VSUB (R373): Wrapping integer vector subtract. -/
  | vsub (d : BitVec 5) (a : BitVec 5) (b : BitVec 5) (k : BitVec 3) (t : BitVec 2)
  /-- VMUL (R373): Low bits of integer vector product. -/
  | vmul (d : BitVec 5) (a : BitVec 5) (b : BitVec 5) (k : BitVec 3) (t : BitVec 2)
  /-- VAND (R373): Vector bitwise AND. -/
  | vand (d : BitVec 5) (a : BitVec 5) (b : BitVec 5) (k : BitVec 3) (t : BitVec 2)
  /-- VOR (R373): Vector bitwise OR. -/
  | vor (d : BitVec 5) (a : BitVec 5) (b : BitVec 5) (k : BitVec 3) (t : BitVec 2)
  /-- VXOR (R373): Vector bitwise XOR. -/
  | vxor (d : BitVec 5) (a : BitVec 5) (b : BitVec 5) (k : BitVec 3) (t : BitVec 2)
  /-- VSLL (R373): Vector shift left. -/
  | vsll (d : BitVec 5) (a : BitVec 5) (b : BitVec 5) (k : BitVec 3) (t : BitVec 2)
  /-- VSRL (R373): Vector logical shift right. -/
  | vsrl (d : BitVec 5) (a : BitVec 5) (b : BitVec 5) (k : BitVec 3) (t : BitVec 2)
  /-- VSRA (R373): Vector arithmetic shift right. -/
  | vsra (d : BitVec 5) (a : BitVec 5) (b : BitVec 5) (k : BitVec 3) (t : BitVec 2)
  /-- VMIN (R373): Vector signed minimum. -/
  | vmin (d : BitVec 5) (a : BitVec 5) (b : BitVec 5) (k : BitVec 3) (t : BitVec 2)
  /-- VMAX (R373): Vector signed maximum. -/
  | vmax (d : BitVec 5) (a : BitVec 5) (b : BitVec 5) (k : BitVec 3) (t : BitVec 2)
  /-- VMINU (R373): Vector unsigned minimum. -/
  | vminu (d : BitVec 5) (a : BitVec 5) (b : BitVec 5) (k : BitVec 3) (t : BitVec 2)
  /-- VMAXU (R373): Vector unsigned maximum. -/
  | vmaxu (d : BitVec 5) (a : BitVec 5) (b : BitVec 5) (k : BitVec 3) (t : BitVec 2)
  /-- VFADD (R378): Floating vector add. -/
  | vfadd (d : BitVec 5) (a : BitVec 5) (b : BitVec 5) (k : BitVec 3) (t : BitVec 2)
  /-- VFSUB (R378): Floating vector subtract. -/
  | vfsub (d : BitVec 5) (a : BitVec 5) (b : BitVec 5) (k : BitVec 3) (t : BitVec 2)
  /-- VFMUL (R378): Floating vector multiply. -/
  | vfmul (d : BitVec 5) (a : BitVec 5) (b : BitVec 5) (k : BitVec 3) (t : BitVec 2)
  /-- VFDIV (R378): Floating vector divide. -/
  | vfdiv (d : BitVec 5) (a : BitVec 5) (b : BitVec 5) (k : BitVec 3) (t : BitVec 2)
  /-- VFMIN (R378): Floating vector minimumNumber. -/
  | vfmin (d : BitVec 5) (a : BitVec 5) (b : BitVec 5) (k : BitVec 3) (t : BitVec 2)
  /-- VFMAX (R378): Floating vector maximumNumber. -/
  | vfmax (d : BitVec 5) (a : BitVec 5) (b : BitVec 5) (k : BitVec 3) (t : BitVec 2)
  /-- VFEXP2 (R117): Correctly rounded vector 2^x. -/
  | vfexp2 (d : BitVec 5) (a : BitVec 5) (k : BitVec 3) (t : BitVec 2)
  /-- VFRCP (R117): Correctly rounded vector reciprocal. -/
  | vfrcp (d : BitVec 5) (a : BitVec 5) (k : BitVec 3) (t : BitVec 2)
  /-- VFRSQ (R117): Correctly rounded vector reciprocal square root. -/
  | vfrsq (d : BitVec 5) (a : BitVec 5) (k : BitVec 3) (t : BitVec 2)
  /-- VSEL (R374): Selects each element from vs1 or vs2 by the mask. -/
  | vsel (d : BitVec 5) (a : BitVec 5) (b : BitVec 5) (k : BitVec 3) (t : BitVec 2)
  /-- VBCAST (R374): Broadcasts a scalar to the active elements. -/
  | vbcast (d : BitVec 5) (a : BitVec 5) (k : BitVec 3) (t : BitVec 2)
  /-- VMVX (R374): Moves one vector element to a scalar register. -/
  | vmvx (d : BitVec 5) (a : BitVec 5) (b : BitVec 5) (t : BitVec 2)
  /-- VMVV (R374): Copies the active elements of a vector. -/
  | vmvv (d : BitVec 5) (a : BitVec 5) (k : BitVec 3) (t : BitVec 2)
  /-- VPERM (R374): Permutes elements by index lanes. -/
  | vperm (d : BitVec 5) (a : BitVec 5) (b : BitVec 5) (k : BitVec 3) (t : BitVec 2)
  /-- VSLIDE (R374): Slides elements by a signed scalar amount. -/
  | vslide (d : BitVec 5) (a : BitVec 5) (b : BitVec 5) (k : BitVec 3) (t : BitVec 2)
  /-- VREDSUM (R384): Sums the elements in the fixed tree. -/
  | vredsum (d : BitVec 5) (a : BitVec 5) (k : BitVec 3) (t : BitVec 3)
  /-- VREDMAX (R384): Maximum of the elements in the fixed tree. -/
  | vredmax (d : BitVec 5) (a : BitVec 5) (k : BitVec 3) (t : BitVec 3)
  /-- VREDMIN (R384): Minimum of the elements in the fixed tree. -/
  | vredmin (d : BitVec 5) (a : BitVec 5) (k : BitVec 3) (t : BitVec 3)
  /-- VFMA (R380): Fused vector multiply-add. -/
  | vfma (d : BitVec 5) (a : BitVec 5) (b : BitVec 5) (c : BitVec 5) (k : BitVec 3) (t : BitVec 2)
  /-- VFMS (R380): Fused vector multiply-subtract. -/
  | vfms (d : BitVec 5) (a : BitVec 5) (b : BitVec 5) (c : BitVec 5) (k : BitVec 3) (t : BitVec 2)
  /-- VCMP (R375): Integer vector compare into a mask register. -/
  | vcmp (d : BitVec 3) (a : BitVec 5) (b : BitVec 5) (k : BitVec 3) (t : BitVec 2) (c : BitVec 5)
  /-- MAND (R330): ANDs two mask registers. -/
  | mand (d : BitVec 3) (a : BitVec 3) (b : BitVec 3)
  /-- MOR (R330): ORs two mask registers. -/
  | mor (d : BitVec 3) (a : BitVec 3) (b : BitVec 3)
  /-- MXOR (R330): XORs two mask registers. -/
  | mxor (d : BitVec 3) (a : BitVec 3) (b : BitVec 3)
  /-- MNOT (R330): Inverts a mask register. -/
  | mnot (d : BitVec 3) (a : BitVec 3)
  /-- MPOPC (R330): Counts the set bits of a mask into a scalar. -/
  | mpopc (d : BitVec 5) (a : BitVec 3)
  /-- MSET (R330): Sets a mask register from a scalar. -/
  | mset (d : BitVec 3) (a : BitVec 5)
  /-- MGET (R330): Copies a mask register to a scalar. -/
  | mget (d : BitVec 5) (a : BitVec 3)
  /-- VDOT (R377): Packed dot product into 32-bit lanes, rounded once. -/
  | vdot (d : BitVec 5) (a : BitVec 5) (b : BitVec 5) (k : BitVec 3) (t : BitVec 2)
  /-- VFCMP (R379): Floating vector compare into a mask register. -/
  | vfcmp (d : BitVec 3) (a : BitVec 5) (b : BitVec 5) (k : BitVec 3) (t : BitVec 2) (c : BitVec 2)
  /-- VCVT (R376): Converts every vector element between format codes. -/
  | vcvt (d : BitVec 5) (a : BitVec 5) (s : BitVec 5) (t : BitVec 5) (r : BitVec 3) (x : BitVec 1)
  /-- MMA (R135): Claims operand ring entries and queues a matrix multiply-accumulate. -/
  | mma (c : BitVec 3) (a : BitVec 4) (b : BitVec 4) (f : BitVec 2) (s : BitVec 2) (p : BitVec 1) (q : BitVec 1) (z : BitVec 1)
  /-- MMAS (R135): Claims operand ring entries and queues a matrix multiply-subtract. -/
  | mmas (c : BitVec 3) (a : BitVec 4) (b : BitVec 4) (f : BitVec 2) (s : BitVec 2) (p : BitVec 1) (q : BitVec 1) (z : BitVec 1)
  /-- MZERO (R338): Queues zeroing of an accumulator. -/
  | mzero (c : BitVec 3)
  /-- MDRAIN (R137): Queues a drain of an accumulator to memory, a ring or a scatter or add target. -/
  | mdrain (c : BitVec 3) (m : BitVec 3) (a : BitVec 5) (b : BitVec 5) (f : BitVec 5) (r : BitVec 3) (s : BitVec 1)
  /-- MFMT (R132): Writes a format-context slot. -/
  | mfmt (n : BitVec 2) (a : BitVec 5)
  /-- RCFG (R344): Checks a ring configuration word and queues its installation. -/
  | rcfg (d : BitVec 5) (a : BitVec 5) (q : BitVec 4)
  /-- RADV (R343): Queues the publication of the next ring entry. -/
  | radv (q : BitVec 4)
  /-- RPOP (R345): Claims the next ring entry, or parks on an empty ring. -/
  | rpop (q : BitVec 4)
  /-- RSTAT (R346): Returns the ring status word. -/
  | rstat (d : BitVec 5) (q : BitVec 4)
  /-- SMAP (R73): Adds a stash mapping at commit. -/
  | smap (d : BitVec 5) (a : BitVec 5) (b : BitVec 5)
  /-- SUNMAP (R73): Removes a stash mapping at commit. -/
  | sunmap (d : BitVec 5) (a : BitVec 5) (b : BitVec 5)
  /-- SFLUSH (R73): Writes back dirty stash lines of a range. -/
  | sflush (d : BitVec 5) (a : BitVec 5) (b : BitVec 5)
  /-- CPY (R299): Queues a copy-engine command between two layout records. -/
  | cpy (c : BitVec 5) (a : BitVec 5) (b : BitVec 5) (k : BitVec 2) (n : BitVec 4) (w : BitVec 2)
  /-- CPYG (R299): Queues a gathered copy through an index list. -/
  | cpyg (c : BitVec 5) (a : BitVec 5) (b : BitVec 5) (k : BitVec 2) (n : BitVec 4)
  /-- CPYST (R300): Returns an item of the thread's copy-fault record. -/
  | cpyst (d : BitVec 5) (a : BitVec 5)
  /-- CUT (R303): Ends the chunk. -/
  | cut
  /-- FENCE (R317): Waits until released effects of the scope are performed or acknowledged. -/
  | fence (s : BitVec 5)
  /-- WAITW (R388): Parks until a memory word satisfies a comparison. -/
  | waitw (d : BitVec 5) (a : BitVec 5) (b : BitVec 5) (c : BitVec 2)
  /-- WAITT (R209): Parks until the timebase reaches a value. -/
  | waitt (a : BitVec 5)
  /-- BARRIVE (R170): Returns the arrival phase and counts an arrival at a barrier. -/
  | barrive (d : BitVec 5) (n : BitVec 3)
  /-- BARWAIT (R170): Parks until a barrier phase completes. -/
  | barwait (d : BitVec 5) (a : BitVec 5) (n : BitVec 3)
  /-- SEMSIG (R358): Queues an addition to a cell semaphore. -/
  | semsig (a : BitVec 5) (n : BitVec 4)
  /-- SEMWAIT (R359): Parks until a cell semaphore covers the count, then subtracts it. -/
  | semwait (a : BitVec 5) (n : BitVec 4)
  /-- TSEMSIG (R369): Queues a timeline signal. -/
  | tsemsig (a : BitVec 5) (b : BitVec 5)
  /-- TSEMWAIT (R370): Parks until a timeline word reaches the operand. -/
  | tsemwait (a : BitVec 5) (b : BitVec 5)
  /-- TRIGGER (R368): Queues release of dependent launches. -/
  | trigger
  /-- WAITDEP (R386): Parks until every producer has triggered or completed. -/
  | waitdep (d : BitVec 5)
  /-- TASKGET (R366): Takes a work packet, parks, or exits the thread. -/
  | taskget
  /-- TASKEND (R365): Retires the held work packet. -/
  | taskend
  /-- SAFEPT (R353): Marks a safe point, parking when a request applies. -/
  | safept (d : BitVec 5) (i : BitVec 8)
  /-- CKPTSTEP (R235): Sets STEP to a larger value. -/
  | ckptstep (a : BitVec 5)
  /-- YIELD (R391): Gives up borrowed idle cycles until the next own issue. -/
  | yieldI
  /-- AMOADD (R284): Atomic add with return. -/
  | amoadd (d : BitVec 5) (a : BitVec 5) (b : BitVec 5) (w : BitVec 1)
  /-- AMOAND (R284): Atomic AND with return. -/
  | amoand (d : BitVec 5) (a : BitVec 5) (b : BitVec 5) (w : BitVec 1)
  /-- AMOOR (R284): Atomic OR with return. -/
  | amoor (d : BitVec 5) (a : BitVec 5) (b : BitVec 5) (w : BitVec 1)
  /-- AMOXOR (R284): Atomic XOR with return. -/
  | amoxor (d : BitVec 5) (a : BitVec 5) (b : BitVec 5) (w : BitVec 1)
  /-- AMOMIN (R284): Atomic signed minimum with return. -/
  | amomin (d : BitVec 5) (a : BitVec 5) (b : BitVec 5) (w : BitVec 1)
  /-- AMOMAX (R284): Atomic signed maximum with return. -/
  | amomax (d : BitVec 5) (a : BitVec 5) (b : BitVec 5) (w : BitVec 1)
  /-- AMOMINU (R284): Atomic unsigned minimum with return. -/
  | amominu (d : BitVec 5) (a : BitVec 5) (b : BitVec 5) (w : BitVec 1)
  /-- AMOMAXU (R284): Atomic unsigned maximum with return. -/
  | amomaxu (d : BitVec 5) (a : BitVec 5) (b : BitVec 5) (w : BitVec 1)
  /-- AMOSWAP (R284): Atomic swap with return. -/
  | amoswap (d : BitVec 5) (a : BitVec 5) (b : BitVec 5) (w : BitVec 1)
  /-- AMOFADD_O (R285): Ordered atomic floating add keyed by rank. -/
  | amofaddO (d : BitVec 5) (a : BitVec 5) (b : BitVec 5) (w : BitVec 1)
  /-- AMOFADD_U (R285): Unordered atomic floating add. -/
  | amofaddU (d : BitVec 5) (a : BitVec 5) (b : BitVec 5) (w : BitVec 1)
  /-- AMOKEY (R201): Installs, reads or frees a key register at a line's home. -/
  | amokey (d : BitVec 5) (a : BitVec 5) (b : BitVec 5)
  /-- AMOCAS (R287): Atomic compare and swap. -/
  | amocas (d : BitVec 5) (a : BitVec 5) (b : BitVec 5) (c : BitVec 5) (w : BitVec 1)
  /-- CMADD (R297): Deferred integer add comet at the home. -/
  | cmadd (a : BitVec 5) (b : BitVec 5) (w : BitVec 1)
  /-- CMFADD_O (R297): Deferred ordered floating-add comet. -/
  | cmfaddO (a : BitVec 5) (b : BitVec 5) (w : BitVec 1)
  /-- CMFADD_U (R297): Deferred unordered floating-add comet. -/
  | cmfaddU (a : BitVec 5) (b : BitVec 5) (w : BitVec 1)
  /-- CMMIN (R297): Deferred signed-minimum comet. -/
  | cmmin (a : BitVec 5) (b : BitVec 5) (w : BitVec 1)
  /-- CMMAX (R297): Deferred signed-maximum comet. -/
  | cmmax (a : BitVec 5) (b : BitVec 5) (w : BitVec 1)
  /-- CMOR (R297): Deferred OR comet. -/
  | cmor (a : BitVec 5) (b : BitVec 5) (w : BitVec 1)
  /-- CVOPEN (R181): Allocates and opens a caravan record. -/
  | cvopen (d : BitVec 5) (a : BitVec 5) (b : BitVec 5)
  /-- CVCOMMIT (R185): Runs the caravan commit protocol and returns its outcome. -/
  | cvcommit (d : BitVec 5)
  /-- CVABORT (R186): Abandons the open caravan. -/
  | cvabort
  /-- CVSTAT (R189): Returns an item of a caravan record. -/
  | cvstat (d : BitVec 5) (a : BitVec 5) (b : BitVec 5)
  /-- GCHK (R195): Checks a guarded item's residual and publishes or discards its outputs. -/
  | gchk (d : BitVec 5) (a : BitVec 5)
  /-- CVST (R307): Stages a doubleword in the current caravan. -/
  | cvst (b : BitVec 5) (a : BitVec 5) (i : BitVec 15)
  /-- CVSTV (R309): Stages masked vector bytes in the current caravan. -/
  | cvstv (v : BitVec 5) (a : BitVec 5) (k : BitVec 3) (o : BitVec 12)
  /-- MOONHINT (R335): Applies a replication or subscription hint to a region at commit. -/
  | moonhint (d : BitVec 5) (a : BitVec 5) (b : BitVec 5)
  /-- MOONQRY (R336): Returns a region or page query item. -/
  | moonqry (d : BitVec 5) (a : BitVec 5) (b : BitVec 5)
  /-- RDTIME (R348): Returns the timebase. -/
  | rdtime (d : BitVec 5)
  /-- RDCYCLE (R348): Returns the island cycle count. -/
  | rdcycle (d : BitVec 5)
  /-- RDID (R348): Returns a placement value named by a selector. -/
  | rdid (d : BitVec 5) (s : BitVec 5)
  /-- ECALL (R311): Raises the ECALL trap precisely. -/
  | ecall
  /-- EBREAK (R311): Raises the BREAK trap precisely. -/
  | ebreak
  /-- TRAPRET (R367): Returns from a trap handler to TRAPPC and clears INH. -/
  | trapret
  /-- SEGLD (R357): Loads a segment register from the segment table. -/
  | segld (n : BitVec 3) (a : BitVec 5)
  /-- HALT (R323): Parks a service-column thread until a firmware wake. -/
  | halt
  /-- CSRRW (R301): Reads and writes a CSR from a register. -/
  | csrrw (d : BitVec 5) (a : BitVec 5) (n : BitVec 1) (c : BitVec 12)
  /-- CSRRS (R301): Reads a CSR and sets bits from a register, or reads only. -/
  | csrrs (d : BitVec 5) (a : BitVec 5) (n : BitVec 1) (o : BitVec 1) (c : BitVec 12)
  /-- CSRRC (R301): Reads a CSR and clears bits from a register. -/
  | csrrc (d : BitVec 5) (a : BitVec 5) (n : BitVec 1) (c : BitVec 12)
  /-- CSRRWI (R301): Reads and writes a CSR from an immediate. -/
  | csrrwi (d : BitVec 5) (u : BitVec 5) (n : BitVec 1) (c : BitVec 12)
  /-- CSRRSI (R301): Reads a CSR and sets immediate bits. -/
  | csrrsi (d : BitVec 5) (u : BitVec 5) (n : BitVec 1) (c : BitVec 12)
  /-- CSRRCI (R301): Reads a CSR and clears immediate bits. -/
  | csrrci (d : BitVec 5) (u : BitVec 5) (n : BitVec 1) (c : BitVec 12)
  /-- COMMIT_GRANT (R42): The arbiter grants a chunk, sends its write signature, locks lines and invalidates moons. -/
  | commitGrant (tid : Nat)
  /-- COMMIT_COMPLETE (R41): All holders acknowledge; lines become visible, locks release and deferred effects are released. -/
  | commitComplete (tid : Nat)
  /-- DIRTY_LOG_MERGE (R91): The cluster agent merges a core's log into D bits when 256 entries wait. -/
  | dirtyLogMerge (core : Nat)
  /-- DATA_REPLY (R26): A reply to a missed, remote or far access arrives and ends DATA-WAIT. -/
  | dataReply (tid : Nat)
  /-- SPILL_FILL_COMPLETE (R33): A window spill or fill finishes and ends SPILL-WAIT. -/
  | spillFillComplete (tid : Nat)
  /-- CONTEXT_SWAP (R31): The context engine swaps a parked or faulted resident thread for a runnable queued one. -/
  | contextSwap (core : Nat) (slot : Nat)
  /-- FAULT_SERVICE (R92): The FAULT role resolves or judges unresolvable a fault record. -/
  | faultService (n : Nat)
  /-- FAULT_WAKE (R92): A wake message reissues the faulting instruction or delivers PAGE. -/
  | faultWake (tid : Nat)
  /-- RANGE_ALLOCATE (R92): The host driver asks the service column to allocate an address range. -/
  | rangeAllocate (r : AddrRange)
  /-- RANGE_RELEASE (R92): The host driver asks the service column to release an address range. -/
  | rangeRelease (asid : BitVec 16) (base : Nat)
  /-- DIRTY_HARVEST (R91): Firmware clears logged flags, merges logs and swaps out D bits. -/
  | dirtyHarvest
  /-- PAGE_MIGRATION (R48): Firmware moves a page, invalidating its lines as an engine commit. -/
  | pageMigration (m : Migration)
  /-- PIN_TIME_EXPIRY (R93): PIN clears after the pin time and the window count empties. -/
  | pinTimeExpiry (page : Nat)
  /-- ENGINE_COMMAND_ACCEPT (R142): A released engine command enters its engine queue when there is room. -/
  | engineCommandAccept (n : Nat)
  /-- MMA_EXECUTE (R135): The matrix engine applies the K-block updates to the accumulator and frees popped entries. -/
  | mmaExecute (cell : Nat)
  /-- MZERO_EXECUTE (R338): The matrix engine zeroes an accumulator and tags it FP32. -/
  | mzeroExecute (cell : Nat)
  /-- MDRAIN_EXECUTE (R138): The matrix engine converts and places accumulator rows and signals. -/
  | mdrainExecute (cell : Nat)
  /-- CPY_EXECUTE (R145): The copy engine reads and checks records and moves elements as engine commits. -/
  | cpyExecute (cell : Nat)
  /-- ENGINE_FAULT_RESOLVED (R153): An engine resumes a command after a resolvable page fault is resolved. -/
  | engineFaultResolved (cell : Nat) (matrix : Bool)
  /-- COMPLETION_TARGET (R152): A finished command performs its semaphore, barrier or counter target. -/
  | completionTarget (n : Nat)
  /-- SEMSIG_PERFORM (R171): A released signal adds to a semaphore and releases waiters in order. -/
  | semsigPerform (n : Nat)
  /-- RADV_PERFORM (R343): A released RADV waits for a free entry and advances the tail. -/
  | radvPerform (n : Nat)
  /-- RCFG_PERFORM (R344): A queued ring configuration is installed once earlier commands finish. -/
  | rcfgPerform (n : Nat)
  /-- RPOP_FREE (R345): A claimed entry is freed once earlier claims and readers finish. -/
  | rpopFree (n : Nat)
  /-- RING_AREA_STORE (R52): A released ring-area store writes its bytes. -/
  | ringAreaStore (n : Nat)
  /-- TSEMSIG_PERFORM (R174): A timeline signal raises its word at the home and releases waiters. -/
  | tsemsigPerform (n : Nat)
  /-- COMET_PERFORM (R297): A comet is applied at its line's home as one engine commit. -/
  | cometPerform (n : Nat)
  /-- TRIGGER_RECORD (R168): The scheduler records a TRIGGER and releases dependants' WAITDEP. -/
  | triggerRecord (n : Nat)
  /-- FAR_LOAD_SERVICE (R55): A far home answers a load from committed state. -/
  | farLoadService (n : Nat)
  /-- FAR_STORE_ARRIVAL (R56): A far store or comet piece is performed at its home module. -/
  | farStoreArrival (n : Nat)
  /-- FAR_AMO_SERVICE (R58): A far AMO or AMOCAS is performed at its home as one engine commit. -/
  | farAmoService (n : Nat)
  /-- FAR_STORE_ACK (R56): An acknowledgement of a far store reaches its source. -/
  | farStoreAck (n : Nat)
  /-- HOST_STORE_ACK (R56): Completion of a flushing read acknowledges host stores. -/
  | hostStoreAck (port : Nat)
  /-- ASYNC_ERROR (R99): A failed deferred effect is recorded in ASYNCERR. -/
  | asyncError (tid : Nat) (src : BitVec 8) (code : BitVec 8) (addr : W64)
  /-- ORDERED_CONTRIBUTION (R200): An ordered contribution reaches its home and is applied, buffered or refused by key. -/
  | orderedContribution (n : Nat)
  /-- CONTRIBUTION_RETRY (R200): A refused ordered contribution is re-sent when NEXT advances. -/
  | contributionRetry (n : Nat)
  /-- MOON_WINDOW_END (R78): The sharing monitor decides a region's degree at each window end. -/
  | moonWindowEnd (region : Nat)
  /-- SUBSCRIPTION_ANSWER (R82): The home answers a subscription, setting SUB active or refused. -/
  | subscriptionAnswer (region : Nat) (accept : Bool)
  /-- SUBSCRIPTION_PUSH (R83): A pushed committed value updates a far moon in commit-position order. -/
  | subscriptionPush (line : Nat) (pos : Nat) (data : V512)
  /-- HOST_SNOOP (R222): A host snoop takes a line and squashes chunks whose signatures hold it. -/
  | hostSnoop (port : Nat) (line : Nat)
  /-- CXL_MEM_WRITE (R221): A host write through CXL.mem is an engine commit. -/
  | cxlMemWrite (port : Nat) (pa : Nat) (data : List Byte)
  /-- BAR2_WRITE (R220): A host write through BAR2 is an engine commit per piece. -/
  | bar2Write (port : Nat) (off : Nat) (data : List Byte)
  /-- BAR2_READ (R220): A host read through BAR2 returns committed state. -/
  | bar2Read (port : Nat) (off : Nat) (len : Nat)
  /-- BAR0_UNLISTED_ACCESS (R218): An access to an unlisted BAR0 offset returns all ones or is dropped and logged. -/
  | bar0UnlistedAccess (port : Nat) (off : Nat) (write : Bool)
  /-- CQ_DOORBELL (R157): A CQTAIL write snapshots whole packets or is refused. -/
  | cqDoorbell (port : Nat) (ring : Nat) (v : W64)
  /-- CQ_ENABLE (R158): Setting CQCTL.EN resets the ring's head and tail. -/
  | cqEnable (port : Nat) (ring : Nat)
  /-- CQ_DISABLE (R158): Clearing CQCTL.EN stops further snapshots. -/
  | cqDisable (port : Nat) (ring : Nat)
  /-- CR_HEAD_WRITE (R219): The host consumes completion entries, freeing room for stalled entries. -/
  | crHeadWrite (port : Nat) (ring : Nat) (v : W64)
  /-- CR_ENABLE (R219): Setting CRCTL.EN resets the completion ring's head and tail. -/
  | crEnable (port : Nat) (ring : Nat)
  /-- REGISTER_WRITE (R7): A write to a register with no behaviour of its own. -/
  | registerWrite (init : Initiator) (r : RegAddr) (v : W64)
  /-- NOP (R159): A NOP packet does nothing. -/
  | nop (q : CmdSource)
  /-- LAUNCH (R161): A LAUNCH packet is checked and accepted or refused. -/
  | launch (q : CmdSource)
  /-- GUARDED_LAUNCH (R192): A guarded-surrogate launch packet is checked and accepted for two gangs. -/
  | guardedLaunch (q : CmdSource)
  /-- TSEM_SIGNAL (R159): A packet signals a timeline word physically. -/
  | tsemSignal (q : CmdSource)
  /-- TSEM_WAIT (R159): A packet holds later packets of its ring until a word reaches a value. -/
  | tsemWait (q : CmdSource)
  /-- CKPT_ONCE (R238): Requests one checkpoint at the next step. -/
  | ckptOnce (q : CmdSource)
  /-- CKPT_EVERY_STEPS (R238): Requests a checkpoint every PERIOD steps. -/
  | ckptEverySteps (q : CmdSource)
  /-- CKPT_EVERY_MS (R238): Requests a checkpoint every PERIOD ms. -/
  | ckptEveryMs (q : CmdSource)
  /-- CKPT_CANCEL_PERIODIC (R236): Cancels periodic checkpoints. -/
  | ckptCancelPeriodic (q : CmdSource)
  /-- CKPT_RESTORE (R240): Verifies a pool and copies its shards back. -/
  | ckptRestore (q : CmdSource)
  /-- CKPT_VERIFY (R240): Verifies a pool's manifest and shards without loading. -/
  | ckptVerify (q : CmdSource)
  /-- DRAIN_QUERY (R233): Reports drain state and counts. -/
  | drainQuery (q : CmdSource)
  /-- DRAIN (R232): Moves the module to DRAINING. -/
  | drain (q : CmdSource)
  /-- RESUME (R232): Returns the module to NORMAL. -/
  | resume (q : CmdSource)
  /-- RETIRE (R232): Moves a drained module to RETIRED. -/
  | retire (q : CmdSource)
  /-- GANG_PLACEMENT (R162): The scheduler places a waiting gang on a free rectangle. -/
  | gangPlacement
  /-- GANG_RELEASE (R162): A placed gang is released when the timebase reaches START. -/
  | gangRelease (gang : Nat)
  /-- PRIORITY_AGING (R176): A waiting gang's effective priority rises every 100 ms. -/
  | priorityAging (n : Nat)
  /-- PREEMPT_REQUEST (R176): The scheduler requests pre-emption of a lower-priority gang. -/
  | preemptRequest (gang : Nat)
  /-- CELL_SAVE (R177): Once a cell's threads are parked and its queues empty, its save routine runs. -/
  | cellSave (cell : Nat)
  /-- PREEMPT_CANCEL (R177): A pre-emption request not finished in 100 ms is cancelled. -/
  | preemptCancel (gang : Nat)
  /-- GANG_RESTORE (R177): A swapped-out gang is restored and its restore routines run. -/
  | gangRestore (gang : Nat)
  /-- THREAD_EXIT (R166): An exiting thread waits for the fence.sys condition and sends its done message. -/
  | threadExit (tid : Nat)
  /-- GANG_COMPLETION (R167): The whole gang is done; TSVAL is signalled and the completion entry written. -/
  | gangCompletion (gang : Nat)
  /-- DRAIN_KILL_TIMEOUT (R232): The kill time passes and live gangs end KILLED. -/
  | drainKillTimeout
  /-- WAITT_EXPIRY (R209): The timebase reaches a WAITT value and wakes the thread. -/
  | waittExpiry (tid : Nat)
  /-- WAIT_RECHECK (R175): A waiter without a wait-list entry re-checks its word every 4,096 cycles. -/
  | waitRecheck (tid : Nat)
  /-- CV_STAGE_ARRIVAL (R183): A caravan store is placed in its home die's inn or refused. -/
  | cvStageArrival (n : Nat)
  /-- CV_PREPARE (R185): A destination receives PREPARE and answers once staged. -/
  | cvPrepare (cid : BitVec 32) (parts : List (BitVec 16)) (count : Nat) (d : W64)
  /-- CV_CONFIRM (R185): The coordinator receives a confirmation and decides when all are in. -/
  | cvConfirm (cid : BitVec 32) (dest : BitVec 16) (ans : CvAnswer)
  /-- CV_COMMIT (R187): A destination receives COMMIT with time T. -/
  | cvCommit (cid : BitVec 32) (t : W64)
  /-- CV_PRELOCK (R187): At T minus 2 µs a destination locks the caravan's lines. -/
  | cvPrelock (cid : BitVec 32)
  /-- CV_PUBLISH (R187): At T the staged lines become visible as one engine commit. -/
  | cvPublish (cid : BitVec 32)
  /-- CV_PUBLISH_ACK (R185): The coordinator receives a publish acknowledgement. -/
  | cvPublishAck (cid : BitVec 32) (dest : BitVec 16) (t : W64) (skew : Bool)
  /-- CV_ABORT (R185): A destination receives ABORT and discards its entries. -/
  | cvAbort (cid : BitVec 32)
  /-- CV_UNDELIVERABLE (R184): A control message not delivered within 100 µs is reported undeliverable. -/
  | cvUndeliverable (cid : BitVec 32) (dest : BitVec 16)
  /-- CV_DEADLINE (R190): At D an open caravan ends or a destination discards or starts termination. -/
  | cvDeadline (cid : BitVec 32)
  /-- CV_QUERY (R190): A participant answers a termination query. -/
  | cvQuery (cid : BitVec 32) (d : BitVec 64) (asker : BitVec 16)
  /-- CV_QUERY_ANSWER (R190): A destination receives a query answer and publishes, discards or waits. -/
  | cvQueryAnswer (cid : BitVec 32) (part : BitVec 16) (ans : CvQueryReply)
  /-- CV_QUERY_INTERVAL (R190): A destination queries again after each 1 ms interval. -/
  | cvQueryInterval (cid : BitVec 32)
  /-- CV_INDOUBT_LIMIT (R190): At the in-doubt limit entries are discarded and CARAVAN_INDOUBT raised. -/
  | cvIndoubtLimit (cid : BitVec 32)
  /-- LINK_DOWN (R214): A link goes down, dropping its flits and reporting them undeliverable. -/
  | linkDown (port : Nat)
  /-- ROUTE_RECONVERGED (R214): Routing reconverges and held transfers take detours or fail. -/
  | routeReconverged
  /-- ROUTE_HOLD_TIMEOUT (R214): A transfer held 100 µs during reconvergence is reported undeliverable. -/
  | routeHoldTimeout (n : Nat)
  /-- LINK_UP (R231): A link comes up and LINK_UP is raised. -/
  | linkUp (port : Nat)
  /-- SPARE_SUBSTITUTION (R214): Management gives the chassis spare the failed module's identifier. -/
  | spareSubstitution (ident : BitVec 16)
  /-- SLOT_OPEN (R210): A class-S slot opens and held transfers to its destination are sent. -/
  | slotOpen (entry : Nat)
  /-- SLOT_TABLE_UPDATE (R217): A slot-table write takes effect at the end of the open slot. -/
  | slotTableUpdate (entry : Nat)
  /-- SYNC (R207): A PTP Sync message drives offset estimation and state transitions. -/
  | sync (msg : PtpTime)
  /-- FOLLOW_UP (R207): A PTP Follow_Up message carries the Sync timestamp. -/
  | followUp (msg : PtpTime)
  /-- PDELAY_REQ (R207): A peer delay request is answered. -/
  | pdelayReq (port : Nat)
  /-- PDELAY_RESP (R207): A peer delay response is received. -/
  | pdelayResp (port : Nat) (t : Int)
  /-- PDELAY_RESP_FOLLOW_UP (R207): A peer delay response follow-up is received. -/
  | pdelayRespFollowUp (port : Nat) (t : Int)
  /-- ANNOUNCE (R207): An Announce message of a domain feeds the best-master algorithm. -/
  | announce (port : Nat) (msg : PtpAnnounce)
  /-- PPS_EDGE (R207): A rising PPS edge marks a whole second. -/
  | ppsEdge
  /-- SYNC_LOSS (R207): Four intervals without a valid message move LOCKED to HOLDOVER. -/
  | syncLoss
  /-- HOLDOVER_TIMEOUT (R207): Ten seconds in HOLDOVER move the discipline to FREERUN. -/
  | holdoverTimeout
  /-- MODULE_RESET (R224): Module reset restarts boot and resets all state. -/
  | moduleReset
  /-- SECURITY_BOOT (R224): The security core verifies the flash image and starts the root monitor. -/
  | securityBoot (img : BootImage)
  /-- HOST_IMAGE_DELIVERY (R224): A host delivers a firmware image through the management window. -/
  | hostImageDelivery (port : Nat) (img : BootImage)
  /-- BOOT_IMAGE_TIMEOUT (R224): No valid host image within 60 s retires the module. -/
  | bootImageTimeout
  /-- WATCHDOG_WRITE (R229): SCHED writes the watchdog register. -/
  | watchdogWrite
  /-- WATCHDOG_TIMEOUT (R229): 100 ms without a watchdog write restarts the service column. -/
  | watchdogTimeout
  /-- SERVICE_CRASH (R229): A service core reports a crash and the column restarts. -/
  | serviceCrash (core : Nat)
  /-- HEALTH_REFRESH (R230): MGMT refreshes the health window every 10 ms. -/
  | healthRefresh
  /-- THROTTLE (R259): MGMT lowers an island's frequency on power, temperature or operator limits. -/
  | throttle (island : Nat) (mhz : Nat)
  /-- SOFT_ERROR (R257): A detected soft error is corrected, squashes a chunk or poisons a line. -/
  | softError (e : SoftErr)
  /-- PATROL_SCRUB (R258): Patrol scrubbing corrects correctable errors in HBM and L2. -/
  | patrolScrub (line : Nat) (l2 : Bool)
  /-- CKPT_TRIGGER (R238): A checkpoint starts at its chosen time and posts a request to the job. -/
  | ckptTrigger (asid : BitVec 16)
  /-- CKPT_GATHER (R238): Parked cells are saved, streamed into the slot and published by caravan. -/
  | ckptGather (asid : BitVec 16)
  /-- CKPT_GATHER_TIMEOUT (R238): A gather not complete in its timeout is cancelled. -/
  | ckptGatherTimeout (asid : BitVec 16)
  /-- DBGCTL_HALT (R244): Writing HALT 1 requests a stop of every slot of the core. -/
  | dbgctlHalt (core : Nat)
  /-- DBGCTL_RESUME (R244): Writing HALT 0 resumes the core and applies queued messages. -/
  | dbgctlResume (core : Nat)
  /-- DBGCTL_STEP (R247): Steps one instruction of the selected slot. -/
  | dbgctlStep (core : Nat)
  /-- DACC_ACCESS (R246): Reads or writes a stopped thread's register through DDATA. -/
  | daccAccess (core : Nat)
  /-- ORBIT_END (R253): At each orbit end the current counter set rotates. -/
  | orbitEnd (core : Nat)
  /-- CLR_COUNTERS (R253): Clears the performance counters, TENA and TRUN. -/
  | clrCounters (core : Nat)
  /-- CLR_STALL (R253): Clears the stall counters. -/
  | clrStall (core : Nat)
  /-- CLR_DELAY (R253): Clears the delay accumulators. -/
  | clrDelay (core : Nat)
  /-- CLR_RAS (R253): Clears the RAS counters. -/
  | clrRas (core : Nat)
  /-- CLR_TRLOST (R253): Clears TRLOST. -/
  | clrTrlost (core : Nat)
  /-- CXL_MEM_READ (R221): A host read of device HBM through CXL.mem returns committed state, or an error response for MMIO or unpopulated space. -/
  | cxlMemRead (port : Nat) (pa : Nat) (len : Nat) (keep : Bool)
  /-- WAITT_WINDOW (R259): An island holding a resident thread parked in WAITT, or a gang awaiting START, runs at 1.7 GHz from 2 µs before the awaited time until 1 µs after it, and the governor withholds no cycles then. -/
  | waittWindow (island : Nat)
  /-- CURRENT_GOVERNOR (R259): The current governor withholds clock cycles from an island to hold core-rail current within 7,500 A over its 1 ms window, counting them in SKIP. -/
  | currentGovernor (island : Nat) (cycles : Nat)
  /-- SYNC_INTERVAL (R207): Every Sync interval of 2^-4 s a port that acts as master sends Sync and Follow_Up. -/
  | syncInterval (port : Nat)
  deriving DecidableEq, Repr

end Sys2Proof
end

