-- ==== Sys2Proof/Decode.lean ====
section
/-! DEFINITION. The decoder and the encoder of the 32-bit instruction words (15: R261 to R270). -/
namespace Sys2Proof

/-- Why a word is no instruction (R270). -/
inductive DecodeError where
  /-- The word is 0x0000_0000 or 0xFFFF_FFFF. -/
  | reservedWord
  /-- Its op is unassigned, it has an unassigned function value, or a field that must be zero is not. -/
  | unassigned
  /-- Fewer than four bytes are left. -/
  | truncated
  deriving DecidableEq, Repr

/-- Bits lo + n - 1 : lo of a word (R5). -/
def bits (w lo n : Nat) : Nat := w / 2 ^ lo % 2 ^ n

/-- The same bits as an operand field. -/
def field (w lo n : Nat) : BitVec n := BitVec.ofNat n (w / 2 ^ lo)

/-- A word from its fields, (width, value), listed from bit 31 down as the format diagrams of 15 list them. -/
def wordNat : List (Nat × Nat) → Nat → Nat
  | [], acc => acc
  | (w, v) :: fs, acc => wordNat fs (acc * 2 ^ w + v)

/-- The 32-bit word of a field list. -/
def word (fs : List (Nat × Nat)) : W32 := BitVec.ofNat 32 (wordNat fs 0)

/-- Rows of major opcode 0x01 (R264): ADD, SUB, AND, OR, XOR, SLL, SRL, SRA, ROR, SLT, SLTU, MIN, MAX, MINU, MAXU, MUL, MULH, MULHU, DIV, DIVU, REM, REMU, CLZ, CTZ, POPC. -/
def decodeOp01 (w : Nat) : Option Instr :=
  if bits w 0 10 = 0 then some (.add (field w 20 5) (field w 15 5) (field w 10 5)) else
  if bits w 0 10 = 1 then some (.sub (field w 20 5) (field w 15 5) (field w 10 5)) else
  if bits w 0 10 = 2 then some (.and (field w 20 5) (field w 15 5) (field w 10 5)) else
  if bits w 0 10 = 3 then some (.or (field w 20 5) (field w 15 5) (field w 10 5)) else
  if bits w 0 10 = 4 then some (.xor (field w 20 5) (field w 15 5) (field w 10 5)) else
  if bits w 0 10 = 5 then some (.sll (field w 20 5) (field w 15 5) (field w 10 5)) else
  if bits w 0 10 = 6 then some (.srl (field w 20 5) (field w 15 5) (field w 10 5)) else
  if bits w 0 10 = 7 then some (.sra (field w 20 5) (field w 15 5) (field w 10 5)) else
  if bits w 0 10 = 8 then some (.ror (field w 20 5) (field w 15 5) (field w 10 5)) else
  if bits w 0 10 = 9 then some (.slt (field w 20 5) (field w 15 5) (field w 10 5)) else
  if bits w 0 10 = 10 then some (.sltu (field w 20 5) (field w 15 5) (field w 10 5)) else
  if bits w 0 10 = 11 then some (.min (field w 20 5) (field w 15 5) (field w 10 5)) else
  if bits w 0 10 = 12 then some (.max (field w 20 5) (field w 15 5) (field w 10 5)) else
  if bits w 0 10 = 13 then some (.minu (field w 20 5) (field w 15 5) (field w 10 5)) else
  if bits w 0 10 = 14 then some (.maxu (field w 20 5) (field w 15 5) (field w 10 5)) else
  if bits w 0 10 = 15 then some (.mul (field w 20 5) (field w 15 5) (field w 10 5)) else
  if bits w 0 10 = 16 then some (.mulh (field w 20 5) (field w 15 5) (field w 10 5)) else
  if bits w 0 10 = 17 then some (.mulhu (field w 20 5) (field w 15 5) (field w 10 5)) else
  if bits w 0 10 = 18 then some (.div (field w 20 5) (field w 15 5) (field w 10 5)) else
  if bits w 0 10 = 19 then some (.divu (field w 20 5) (field w 15 5) (field w 10 5)) else
  if bits w 0 10 = 20 then some (.rem (field w 20 5) (field w 15 5) (field w 10 5)) else
  if bits w 0 10 = 21 then some (.remu (field w 20 5) (field w 15 5) (field w 10 5)) else
  if bits w 0 15 = 22 then some (.clz (field w 20 5) (field w 15 5)) else
  if bits w 0 15 = 23 then some (.ctz (field w 20 5) (field w 15 5)) else
  if bits w 0 15 = 24 then some (.popc (field w 20 5) (field w 15 5)) else
  none

/-- Rows of major opcode 0x02 (R264): ADDW, SUBW, SLLW, SRLW, SRAW, MULW. -/
def decodeOp02 (w : Nat) : Option Instr :=
  if bits w 0 10 = 0 then some (.addw (field w 20 5) (field w 15 5) (field w 10 5)) else
  if bits w 0 10 = 1 then some (.subw (field w 20 5) (field w 15 5) (field w 10 5)) else
  if bits w 0 10 = 5 then some (.sllw (field w 20 5) (field w 15 5) (field w 10 5)) else
  if bits w 0 10 = 6 then some (.srlw (field w 20 5) (field w 15 5) (field w 10 5)) else
  if bits w 0 10 = 7 then some (.sraw (field w 20 5) (field w 15 5) (field w 10 5)) else
  if bits w 0 10 = 15 then some (.mulw (field w 20 5) (field w 15 5) (field w 10 5)) else
  none

/-- Rows of major opcode 0x03 (R264): ADDI. -/
def decodeOp03 (w : Nat) : Option Instr :=
  some (.addi (field w 20 5) (field w 15 5) (field w 0 15))

/-- Rows of major opcode 0x04 (R264): ANDI. -/
def decodeOp04 (w : Nat) : Option Instr :=
  some (.andi (field w 20 5) (field w 15 5) (field w 0 15))

/-- Rows of major opcode 0x05 (R264): ORI. -/
def decodeOp05 (w : Nat) : Option Instr :=
  some (.ori (field w 20 5) (field w 15 5) (field w 0 15))

/-- Rows of major opcode 0x06 (R264): XORI. -/
def decodeOp06 (w : Nat) : Option Instr :=
  some (.xori (field w 20 5) (field w 15 5) (field w 0 15))

/-- Rows of major opcode 0x07 (R264): SLTI. -/
def decodeOp07 (w : Nat) : Option Instr :=
  some (.slti (field w 20 5) (field w 15 5) (field w 0 15))

/-- Rows of major opcode 0x08 (R264): SLTIU. -/
def decodeOp08 (w : Nat) : Option Instr :=
  some (.sltiu (field w 20 5) (field w 15 5) (field w 0 15))

/-- Rows of major opcode 0x09 (R264): SLLI, SRLI, SRAI. -/
def decodeOp09 (w : Nat) : Option Instr :=
  if bits w 6 9 = 0 then some (.slli (field w 20 5) (field w 15 5) (field w 0 6)) else
  if bits w 6 9 = 128 then some (.srli (field w 20 5) (field w 15 5) (field w 0 6)) else
  if bits w 6 9 = 256 then some (.srai (field w 20 5) (field w 15 5) (field w 0 6)) else
  none

/-- Rows of major opcode 0x0A (R264): ADDIW. -/
def decodeOp0A (w : Nat) : Option Instr :=
  some (.addiw (field w 20 5) (field w 15 5) (field w 0 15))

/-- Rows of major opcode 0x0B (R264): LUI. -/
def decodeOp0B (w : Nat) : Option Instr :=
  some (.lui (field w 20 5) (field w 0 20))

/-- Rows of major opcode 0x0C (R264): AUIPC. -/
def decodeOp0C (w : Nat) : Option Instr :=
  some (.auipc (field w 20 5) (field w 0 20))

/-- Rows of major opcode 0x0D (R264): JAL. -/
def decodeOp0D (w : Nat) : Option Instr :=
  some (.jal (field w 20 5) (field w 0 20))

/-- Rows of major opcode 0x0E (R264): JALR. -/
def decodeOp0E (w : Nat) : Option Instr :=
  some (.jalr (field w 20 5) (field w 15 5) (field w 0 15))

/-- Rows of major opcode 0x0F (R264): CALLW. -/
def decodeOp0F (w : Nat) : Option Instr :=
  some (.callw (field w 20 5) (field w 0 20))

/-- Rows of major opcode 0x10 (R264): BEQ. -/
def decodeOp10 (w : Nat) : Option Instr :=
  some (.beq (field w 20 5) (field w 15 5) (field w 0 15))

/-- Rows of major opcode 0x11 (R264): BNE. -/
def decodeOp11 (w : Nat) : Option Instr :=
  some (.bne (field w 20 5) (field w 15 5) (field w 0 15))

/-- Rows of major opcode 0x12 (R264): BLT. -/
def decodeOp12 (w : Nat) : Option Instr :=
  some (.blt (field w 20 5) (field w 15 5) (field w 0 15))

/-- Rows of major opcode 0x13 (R264): BGE. -/
def decodeOp13 (w : Nat) : Option Instr :=
  some (.bge (field w 20 5) (field w 15 5) (field w 0 15))

/-- Rows of major opcode 0x14 (R264): BLTU. -/
def decodeOp14 (w : Nat) : Option Instr :=
  some (.bltu (field w 20 5) (field w 15 5) (field w 0 15))

/-- Rows of major opcode 0x15 (R264): BGEU. -/
def decodeOp15 (w : Nat) : Option Instr :=
  some (.bgeu (field w 20 5) (field w 15 5) (field w 0 15))

/-- Rows of major opcode 0x16 (R264): RETW. -/
def decodeOp16 (w : Nat) : Option Instr :=
  if bits w 20 5 = 0 ∧ bits w 0 15 = 0 then some (.retw (field w 15 5)) else
  none

/-- Rows of major opcode 0x17 (R264): REPEAT. -/
def decodeOp17 (w : Nat) : Option Instr :=
  if bits w 20 5 = 0 ∧ bits w 6 9 = 0 then some (.repeatI (field w 15 5) (field w 0 6)) else
  none

/-- Rows of major opcode 0x18 (R264): LB. -/
def decodeOp18 (w : Nat) : Option Instr :=
  some (.lb (field w 20 5) (field w 15 5) (field w 0 15))

/-- Rows of major opcode 0x19 (R264): LBU. -/
def decodeOp19 (w : Nat) : Option Instr :=
  some (.lbu (field w 20 5) (field w 15 5) (field w 0 15))

/-- Rows of major opcode 0x1A (R264): LH. -/
def decodeOp1A (w : Nat) : Option Instr :=
  some (.lh (field w 20 5) (field w 15 5) (field w 0 15))

/-- Rows of major opcode 0x1B (R264): LHU. -/
def decodeOp1B (w : Nat) : Option Instr :=
  some (.lhu (field w 20 5) (field w 15 5) (field w 0 15))

/-- Rows of major opcode 0x1C (R264): LW. -/
def decodeOp1C (w : Nat) : Option Instr :=
  some (.lw (field w 20 5) (field w 15 5) (field w 0 15))

/-- Rows of major opcode 0x1D (R264): LWU. -/
def decodeOp1D (w : Nat) : Option Instr :=
  some (.lwu (field w 20 5) (field w 15 5) (field w 0 15))

/-- Rows of major opcode 0x1E (R264): LD. -/
def decodeOp1E (w : Nat) : Option Instr :=
  some (.ld (field w 20 5) (field w 15 5) (field w 0 15))

/-- Rows of major opcode 0x1F (R264): PREF. -/
def decodeOp1F (w : Nat) : Option Instr :=
  if bits w 20 5 = 0 then some (.pref (field w 15 5) (field w 0 15)) else
  none

/-- Rows of major opcode 0x20 (R264): SB. -/
def decodeOp20 (w : Nat) : Option Instr :=
  some (.sb (field w 20 5) (field w 15 5) (field w 0 15))

/-- Rows of major opcode 0x21 (R264): SH. -/
def decodeOp21 (w : Nat) : Option Instr :=
  some (.sh (field w 20 5) (field w 15 5) (field w 0 15))

/-- Rows of major opcode 0x22 (R264): SW. -/
def decodeOp22 (w : Nat) : Option Instr :=
  some (.sw (field w 20 5) (field w 15 5) (field w 0 15))

/-- Rows of major opcode 0x23 (R264): SD. -/
def decodeOp23 (w : Nat) : Option Instr :=
  some (.sd (field w 20 5) (field w 15 5) (field w 0 15))

/-- Rows of major opcode 0x24 (R264): FADD, FSUB, FMUL, FDIV, FSQRT, FMIN, FMAX, FEQ, FLT, FLE, FCLASS, FSGNJ, FSGNJN, FSGNJX, FCVT. -/
def decodeOp24 (w : Nat) : Option Instr :=
  if bits w 9 1 = 0 ∧ bits w 0 5 = 0 then some (.fadd (field w 20 5) (field w 15 5) (field w 10 5) (field w 8 1) (field w 5 3)) else
  if bits w 9 1 = 0 ∧ bits w 0 5 = 1 then some (.fsub (field w 20 5) (field w 15 5) (field w 10 5) (field w 8 1) (field w 5 3)) else
  if bits w 9 1 = 0 ∧ bits w 0 5 = 2 then some (.fmul (field w 20 5) (field w 15 5) (field w 10 5) (field w 8 1) (field w 5 3)) else
  if bits w 9 1 = 0 ∧ bits w 0 5 = 3 then some (.fdiv (field w 20 5) (field w 15 5) (field w 10 5) (field w 8 1) (field w 5 3)) else
  if bits w 9 6 = 0 ∧ bits w 0 5 = 4 then some (.fsqrt (field w 20 5) (field w 15 5) (field w 8 1) (field w 5 3)) else
  if bits w 9 1 = 0 ∧ bits w 0 8 = 5 then some (.fmin (field w 20 5) (field w 15 5) (field w 10 5) (field w 8 1)) else
  if bits w 9 1 = 0 ∧ bits w 0 8 = 6 then some (.fmax (field w 20 5) (field w 15 5) (field w 10 5) (field w 8 1)) else
  if bits w 9 1 = 0 ∧ bits w 0 8 = 7 then some (.feq (field w 20 5) (field w 15 5) (field w 10 5) (field w 8 1)) else
  if bits w 9 1 = 0 ∧ bits w 0 8 = 8 then some (.flt (field w 20 5) (field w 15 5) (field w 10 5) (field w 8 1)) else
  if bits w 9 1 = 0 ∧ bits w 0 8 = 9 then some (.fle (field w 20 5) (field w 15 5) (field w 10 5) (field w 8 1)) else
  if bits w 9 6 = 0 ∧ bits w 0 8 = 10 then some (.fclass (field w 20 5) (field w 15 5) (field w 8 1)) else
  if bits w 9 1 = 0 ∧ bits w 0 8 = 11 then some (.fsgnj (field w 20 5) (field w 15 5) (field w 10 5) (field w 8 1)) else
  if bits w 9 1 = 0 ∧ bits w 0 8 = 12 then some (.fsgnjn (field w 20 5) (field w 15 5) (field w 10 5) (field w 8 1)) else
  if bits w 9 1 = 0 ∧ bits w 0 8 = 13 then some (.fsgnjx (field w 20 5) (field w 15 5) (field w 10 5) (field w 8 1)) else
  if bits w 0 5 = 14 then some (.fcvt (field w 20 5) (field w 15 5) (field w 10 5) (field w 8 2) (field w 5 3)) else
  none

/-- Rows of major opcode 0x25 (R264): FMA. -/
def decodeOp25 (w : Nat) : Option Instr :=
  if bits w 4 1 = 0 then some (.fma (field w 20 5) (field w 15 5) (field w 10 5) (field w 5 5) (field w 3 1) (field w 0 3)) else
  none

/-- Rows of major opcode 0x26 (R264): FMS. -/
def decodeOp26 (w : Nat) : Option Instr :=
  if bits w 4 1 = 0 then some (.fms (field w 20 5) (field w 15 5) (field w 10 5) (field w 5 5) (field w 3 1) (field w 0 3)) else
  none

/-- Rows of major opcode 0x27 (R264): FNMA. -/
def decodeOp27 (w : Nat) : Option Instr :=
  if bits w 4 1 = 0 then some (.fnma (field w 20 5) (field w 15 5) (field w 10 5) (field w 5 5) (field w 3 1) (field w 0 3)) else
  none

/-- Rows of major opcode 0x28 (R264): VLD. -/
def decodeOp28 (w : Nat) : Option Instr :=
  some (.vld (field w 20 5) (field w 15 5) (field w 12 3) (field w 0 12))

/-- Rows of major opcode 0x29 (R264): VST. -/
def decodeOp29 (w : Nat) : Option Instr :=
  some (.vst (field w 20 5) (field w 15 5) (field w 12 3) (field w 0 12))

/-- Rows of major opcode 0x2A (R264): VLDS. -/
def decodeOp2A (w : Nat) : Option Instr :=
  if bits w 0 5 = 0 then some (.vlds (field w 20 5) (field w 15 5) (field w 10 5) (field w 7 3) (field w 5 2)) else
  none

/-- Rows of major opcode 0x2B (R264): VSTS. -/
def decodeOp2B (w : Nat) : Option Instr :=
  if bits w 0 5 = 0 then some (.vsts (field w 20 5) (field w 15 5) (field w 10 5) (field w 7 3) (field w 5 2)) else
  none

/-- Rows of major opcode 0x2C (R264): VLDX. -/
def decodeOp2C (w : Nat) : Option Instr :=
  if bits w 0 5 = 0 then some (.vldx (field w 20 5) (field w 15 5) (field w 10 5) (field w 7 3) (field w 5 2)) else
  none

/-- Rows of major opcode 0x2D (R264): VSTX. -/
def decodeOp2D (w : Nat) : Option Instr :=
  if bits w 0 5 = 0 then some (.vstx (field w 20 5) (field w 15 5) (field w 10 5) (field w 7 3) (field w 5 2)) else
  none

/-- Rows of major opcode 0x2E (R264): VLDC. -/
def decodeOp2E (w : Nat) : Option Instr :=
  some (.vldc (field w 20 5) (field w 15 5) (field w 10 5) (field w 7 3) (field w 2 5) (field w 0 2))

/-- Rows of major opcode 0x2F (R264): VSTC. -/
def decodeOp2F (w : Nat) : Option Instr :=
  some (.vstc (field w 20 5) (field w 15 5) (field w 10 5) (field w 7 3) (field w 2 5) (field w 0 2))

/-- Rows of major opcode 0x30 (R264): VADD, VSUB, VMUL, VAND, VOR, VXOR, VSLL, VSRL, VSRA, VMIN, VMAX, VMINU, VMAXU. -/
def decodeOp30 (w : Nat) : Option Instr :=
  if bits w 0 5 = 0 then some (.vadd (field w 20 5) (field w 15 5) (field w 10 5) (field w 7 3) (field w 5 2)) else
  if bits w 0 5 = 1 then some (.vsub (field w 20 5) (field w 15 5) (field w 10 5) (field w 7 3) (field w 5 2)) else
  if bits w 0 5 = 2 then some (.vmul (field w 20 5) (field w 15 5) (field w 10 5) (field w 7 3) (field w 5 2)) else
  if bits w 0 5 = 3 then some (.vand (field w 20 5) (field w 15 5) (field w 10 5) (field w 7 3) (field w 5 2)) else
  if bits w 0 5 = 4 then some (.vor (field w 20 5) (field w 15 5) (field w 10 5) (field w 7 3) (field w 5 2)) else
  if bits w 0 5 = 5 then some (.vxor (field w 20 5) (field w 15 5) (field w 10 5) (field w 7 3) (field w 5 2)) else
  if bits w 0 5 = 6 then some (.vsll (field w 20 5) (field w 15 5) (field w 10 5) (field w 7 3) (field w 5 2)) else
  if bits w 0 5 = 7 then some (.vsrl (field w 20 5) (field w 15 5) (field w 10 5) (field w 7 3) (field w 5 2)) else
  if bits w 0 5 = 8 then some (.vsra (field w 20 5) (field w 15 5) (field w 10 5) (field w 7 3) (field w 5 2)) else
  if bits w 0 5 = 9 then some (.vmin (field w 20 5) (field w 15 5) (field w 10 5) (field w 7 3) (field w 5 2)) else
  if bits w 0 5 = 10 then some (.vmax (field w 20 5) (field w 15 5) (field w 10 5) (field w 7 3) (field w 5 2)) else
  if bits w 0 5 = 11 then some (.vminu (field w 20 5) (field w 15 5) (field w 10 5) (field w 7 3) (field w 5 2)) else
  if bits w 0 5 = 12 then some (.vmaxu (field w 20 5) (field w 15 5) (field w 10 5) (field w 7 3) (field w 5 2)) else
  none

/-- Rows of major opcode 0x31 (R264): VFADD, VFSUB, VFMUL, VFDIV, VFMIN, VFMAX, VFEXP2, VFRCP, VFRSQ. -/
def decodeOp31 (w : Nat) : Option Instr :=
  if bits w 0 5 = 0 then some (.vfadd (field w 20 5) (field w 15 5) (field w 10 5) (field w 7 3) (field w 5 2)) else
  if bits w 0 5 = 1 then some (.vfsub (field w 20 5) (field w 15 5) (field w 10 5) (field w 7 3) (field w 5 2)) else
  if bits w 0 5 = 2 then some (.vfmul (field w 20 5) (field w 15 5) (field w 10 5) (field w 7 3) (field w 5 2)) else
  if bits w 0 5 = 3 then some (.vfdiv (field w 20 5) (field w 15 5) (field w 10 5) (field w 7 3) (field w 5 2)) else
  if bits w 0 5 = 4 then some (.vfmin (field w 20 5) (field w 15 5) (field w 10 5) (field w 7 3) (field w 5 2)) else
  if bits w 0 5 = 5 then some (.vfmax (field w 20 5) (field w 15 5) (field w 10 5) (field w 7 3) (field w 5 2)) else
  if bits w 10 5 = 0 ∧ bits w 0 5 = 6 then some (.vfexp2 (field w 20 5) (field w 15 5) (field w 7 3) (field w 5 2)) else
  if bits w 10 5 = 0 ∧ bits w 0 5 = 7 then some (.vfrcp (field w 20 5) (field w 15 5) (field w 7 3) (field w 5 2)) else
  if bits w 10 5 = 0 ∧ bits w 0 5 = 8 then some (.vfrsq (field w 20 5) (field w 15 5) (field w 7 3) (field w 5 2)) else
  none

/-- Rows of major opcode 0x32 (R264): VSEL, VBCAST, VMVX, VMVV, VPERM, VSLIDE, VREDSUM, VREDMAX, VREDMIN. -/
def decodeOp32 (w : Nat) : Option Instr :=
  if bits w 6 1 = 0 ∧ bits w 0 4 = 0 then some (.vsel (field w 20 5) (field w 15 5) (field w 10 5) (field w 7 3) (field w 4 2)) else
  if bits w 10 5 = 0 ∧ bits w 6 1 = 0 ∧ bits w 0 4 = 1 then some (.vbcast (field w 20 5) (field w 15 5) (field w 7 3) (field w 4 2)) else
  if bits w 6 4 = 0 ∧ bits w 0 4 = 2 then some (.vmvx (field w 20 5) (field w 15 5) (field w 10 5) (field w 4 2)) else
  if bits w 10 5 = 0 ∧ bits w 6 1 = 0 ∧ bits w 0 4 = 3 then some (.vmvv (field w 20 5) (field w 15 5) (field w 7 3) (field w 4 2)) else
  if bits w 6 1 = 0 ∧ bits w 0 4 = 4 then some (.vperm (field w 20 5) (field w 15 5) (field w 10 5) (field w 7 3) (field w 4 2)) else
  if bits w 6 1 = 0 ∧ bits w 0 4 = 5 then some (.vslide (field w 20 5) (field w 15 5) (field w 10 5) (field w 7 3) (field w 4 2)) else
  if bits w 10 5 = 0 ∧ bits w 0 4 = 6 then some (.vredsum (field w 20 5) (field w 15 5) (field w 7 3) (field w 4 3)) else
  if bits w 10 5 = 0 ∧ bits w 0 4 = 7 then some (.vredmax (field w 20 5) (field w 15 5) (field w 7 3) (field w 4 3)) else
  if bits w 10 5 = 0 ∧ bits w 0 4 = 8 then some (.vredmin (field w 20 5) (field w 15 5) (field w 7 3) (field w 4 3)) else
  none

/-- Rows of major opcode 0x33 (R264): VFMA. -/
def decodeOp33 (w : Nat) : Option Instr :=
  some (.vfma (field w 20 5) (field w 15 5) (field w 10 5) (field w 5 5) (field w 2 3) (field w 0 2))

/-- Rows of major opcode 0x34 (R264): VCMP. -/
def decodeOp34 (w : Nat) : Option Instr :=
  if bits w 23 2 = 0 then some (.vcmp (field w 20 3) (field w 15 5) (field w 10 5) (field w 7 3) (field w 5 2) (field w 0 5)) else
  none

/-- Rows of major opcode 0x35 (R264): MAND, MOR, MXOR, MNOT, MPOPC, MSET, MGET. -/
def decodeOp35 (w : Nat) : Option Instr :=
  if bits w 23 2 = 0 ∧ bits w 18 2 = 0 ∧ bits w 13 2 = 0 ∧ bits w 0 10 = 0 then some (.mand (field w 20 3) (field w 15 3) (field w 10 3)) else
  if bits w 23 2 = 0 ∧ bits w 18 2 = 0 ∧ bits w 13 2 = 0 ∧ bits w 0 10 = 1 then some (.mor (field w 20 3) (field w 15 3) (field w 10 3)) else
  if bits w 23 2 = 0 ∧ bits w 18 2 = 0 ∧ bits w 13 2 = 0 ∧ bits w 0 10 = 2 then some (.mxor (field w 20 3) (field w 15 3) (field w 10 3)) else
  if bits w 23 2 = 0 ∧ bits w 18 2 = 0 ∧ bits w 0 15 = 3 then some (.mnot (field w 20 3) (field w 15 3)) else
  if bits w 18 2 = 0 ∧ bits w 0 15 = 4 then some (.mpopc (field w 20 5) (field w 15 3)) else
  if bits w 23 2 = 0 ∧ bits w 0 15 = 5 then some (.mset (field w 20 3) (field w 15 5)) else
  if bits w 18 2 = 0 ∧ bits w 0 15 = 6 then some (.mget (field w 20 5) (field w 15 3)) else
  none

/-- Rows of major opcode 0x36 (R264): VDOT. -/
def decodeOp36 (w : Nat) : Option Instr :=
  if bits w 2 5 = 0 then some (.vdot (field w 20 5) (field w 15 5) (field w 10 5) (field w 7 3) (field w 0 2)) else
  none

/-- Rows of major opcode 0x37 (R264): VFMS. -/
def decodeOp37 (w : Nat) : Option Instr :=
  some (.vfms (field w 20 5) (field w 15 5) (field w 10 5) (field w 5 5) (field w 2 3) (field w 0 2))

/-- Rows of major opcode 0x38 (R264): VFCMP. -/
def decodeOp38 (w : Nat) : Option Instr :=
  if bits w 23 2 = 0 ∧ bits w 2 3 = 0 then some (.vfcmp (field w 20 3) (field w 15 5) (field w 10 5) (field w 7 3) (field w 5 2) (field w 0 2)) else
  none

/-- Rows of major opcode 0x39 (R264): VCVT. -/
def decodeOp39 (w : Nat) : Option Instr :=
  if bits w 0 1 = 0 then some (.vcvt (field w 20 5) (field w 15 5) (field w 10 5) (field w 5 5) (field w 2 3) (field w 1 1)) else
  none

/-- Rows of major opcode 0x40 (R264): MMA. -/
def decodeOp40 (w : Nat) : Option Instr :=
  if bits w 0 7 = 0 then some (.mma (field w 22 3) (field w 18 4) (field w 14 4) (field w 12 2) (field w 10 2) (field w 9 1) (field w 8 1) (field w 7 1)) else
  none

/-- Rows of major opcode 0x41 (R264): MMAS. -/
def decodeOp41 (w : Nat) : Option Instr :=
  if bits w 0 7 = 0 then some (.mmas (field w 22 3) (field w 18 4) (field w 14 4) (field w 12 2) (field w 10 2) (field w 9 1) (field w 8 1) (field w 7 1)) else
  none

/-- Rows of major opcode 0x42 (R264): MZERO. -/
def decodeOp42 (w : Nat) : Option Instr :=
  if bits w 0 22 = 0 then some (.mzero (field w 22 3)) else
  none

/-- Rows of major opcode 0x43 (R264): MDRAIN. -/
def decodeOp43 (w : Nat) : Option Instr :=
  some (.mdrain (field w 22 3) (field w 19 3) (field w 14 5) (field w 9 5) (field w 4 5) (field w 1 3) (field w 0 1))

/-- Rows of major opcode 0x44 (R264): MFMT. -/
def decodeOp44 (w : Nat) : Option Instr :=
  if bits w 22 3 = 0 ∧ bits w 0 15 = 0 then some (.mfmt (field w 20 2) (field w 15 5)) else
  none

/-- Rows of major opcode 0x45 (R264): RCFG, RADV, RPOP, RSTAT. -/
def decodeOp45 (w : Nat) : Option Instr :=
  if bits w 14 1 = 0 ∧ bits w 0 10 = 0 then some (.rcfg (field w 20 5) (field w 15 5) (field w 10 4)) else
  if bits w 14 11 = 0 ∧ bits w 0 10 = 1 then some (.radv (field w 10 4)) else
  if bits w 14 11 = 0 ∧ bits w 0 10 = 2 then some (.rpop (field w 10 4)) else
  if bits w 14 6 = 0 ∧ bits w 0 10 = 3 then some (.rstat (field w 20 5) (field w 10 4)) else
  none

/-- Rows of major opcode 0x46 (R264): SMAP, SUNMAP, SFLUSH. -/
def decodeOp46 (w : Nat) : Option Instr :=
  if bits w 0 10 = 0 then some (.smap (field w 20 5) (field w 15 5) (field w 10 5)) else
  if bits w 0 10 = 1 then some (.sunmap (field w 20 5) (field w 15 5) (field w 10 5)) else
  if bits w 0 10 = 2 then some (.sflush (field w 20 5) (field w 15 5) (field w 10 5)) else
  none

/-- Rows of major opcode 0x48 (R264): CPY. -/
def decodeOp48 (w : Nat) : Option Instr :=
  if bits w 0 2 = 0 then some (.cpy (field w 20 5) (field w 15 5) (field w 10 5) (field w 8 2) (field w 4 4) (field w 2 2)) else
  none

/-- Rows of major opcode 0x49 (R264): CPYG. -/
def decodeOp49 (w : Nat) : Option Instr :=
  if bits w 0 4 = 0 then some (.cpyg (field w 20 5) (field w 15 5) (field w 10 5) (field w 8 2) (field w 4 4)) else
  none

/-- Rows of major opcode 0x4A (R264): CPYST. -/
def decodeOp4A (w : Nat) : Option Instr :=
  if bits w 0 15 = 0 then some (.cpyst (field w 20 5) (field w 15 5)) else
  none

/-- Rows of major opcode 0x50 (R264): CUT, FENCE, WAITW, WAITT, BARRIVE, BARWAIT, SEMSIG, SEMWAIT, TSEMSIG, TSEMWAIT, TRIGGER, WAITDEP, TASKGET, TASKEND, SAFEPT, CKPTSTEP, YIELD. -/
def decodeOp50 (w : Nat) : Option Instr :=
  if bits w 0 25 = 0 then some (.cut) else
  if bits w 15 10 = 0 ∧ bits w 0 10 = 1 then some (.fence (field w 10 5)) else
  if bits w 7 3 = 0 ∧ bits w 0 5 = 2 then some (.waitw (field w 20 5) (field w 15 5) (field w 10 5) (field w 5 2)) else
  if bits w 20 5 = 0 ∧ bits w 0 15 = 3 then some (.waitt (field w 15 5)) else
  if bits w 13 7 = 0 ∧ bits w 0 10 = 4 then some (.barrive (field w 20 5) (field w 10 3)) else
  if bits w 13 2 = 0 ∧ bits w 0 10 = 5 then some (.barwait (field w 20 5) (field w 15 5) (field w 10 3)) else
  if bits w 20 5 = 0 ∧ bits w 14 1 = 0 ∧ bits w 0 10 = 6 then some (.semsig (field w 15 5) (field w 10 4)) else
  if bits w 20 5 = 0 ∧ bits w 14 1 = 0 ∧ bits w 0 10 = 7 then some (.semwait (field w 15 5) (field w 10 4)) else
  if bits w 20 5 = 0 ∧ bits w 0 10 = 8 then some (.tsemsig (field w 15 5) (field w 10 5)) else
  if bits w 20 5 = 0 ∧ bits w 0 10 = 9 then some (.tsemwait (field w 15 5) (field w 10 5)) else
  if bits w 0 25 = 10 then some (.trigger) else
  if bits w 0 20 = 11 then some (.waitdep (field w 20 5)) else
  if bits w 0 25 = 12 then some (.taskget) else
  if bits w 0 25 = 13 then some (.taskend) else
  if bits w 18 2 = 0 ∧ bits w 0 10 = 14 then some (.safept (field w 20 5) (field w 10 8)) else
  if bits w 20 5 = 0 ∧ bits w 0 15 = 15 then some (.ckptstep (field w 15 5)) else
  if bits w 0 25 = 16 then some (.yieldI) else
  none

/-- Rows of major opcode 0x51 (R264): AMOADD, AMOAND, AMOOR, AMOXOR, AMOMIN, AMOMAX, AMOMINU, AMOMAXU, AMOSWAP, AMOFADD_O, AMOFADD_U, AMOKEY. -/
def decodeOp51 (w : Nat) : Option Instr :=
  if bits w 6 4 = 0 ∧ bits w 0 5 = 0 then some (.amoadd (field w 20 5) (field w 15 5) (field w 10 5) (field w 5 1)) else
  if bits w 6 4 = 0 ∧ bits w 0 5 = 1 then some (.amoand (field w 20 5) (field w 15 5) (field w 10 5) (field w 5 1)) else
  if bits w 6 4 = 0 ∧ bits w 0 5 = 2 then some (.amoor (field w 20 5) (field w 15 5) (field w 10 5) (field w 5 1)) else
  if bits w 6 4 = 0 ∧ bits w 0 5 = 3 then some (.amoxor (field w 20 5) (field w 15 5) (field w 10 5) (field w 5 1)) else
  if bits w 6 4 = 0 ∧ bits w 0 5 = 4 then some (.amomin (field w 20 5) (field w 15 5) (field w 10 5) (field w 5 1)) else
  if bits w 6 4 = 0 ∧ bits w 0 5 = 5 then some (.amomax (field w 20 5) (field w 15 5) (field w 10 5) (field w 5 1)) else
  if bits w 6 4 = 0 ∧ bits w 0 5 = 6 then some (.amominu (field w 20 5) (field w 15 5) (field w 10 5) (field w 5 1)) else
  if bits w 6 4 = 0 ∧ bits w 0 5 = 7 then some (.amomaxu (field w 20 5) (field w 15 5) (field w 10 5) (field w 5 1)) else
  if bits w 6 4 = 0 ∧ bits w 0 5 = 8 then some (.amoswap (field w 20 5) (field w 15 5) (field w 10 5) (field w 5 1)) else
  if bits w 6 4 = 0 ∧ bits w 0 5 = 9 then some (.amofaddO (field w 20 5) (field w 15 5) (field w 10 5) (field w 5 1)) else
  if bits w 6 4 = 0 ∧ bits w 0 5 = 10 then some (.amofaddU (field w 20 5) (field w 15 5) (field w 10 5) (field w 5 1)) else
  if bits w 0 10 = 11 then some (.amokey (field w 20 5) (field w 15 5) (field w 10 5)) else
  none

/-- Rows of major opcode 0x52 (R264): AMOCAS. -/
def decodeOp52 (w : Nat) : Option Instr :=
  if bits w 1 4 = 0 then some (.amocas (field w 20 5) (field w 15 5) (field w 10 5) (field w 5 5) (field w 0 1)) else
  none

/-- Rows of major opcode 0x53 (R264): CMADD, CMFADD_O, CMFADD_U, CMMIN, CMMAX, CMOR. -/
def decodeOp53 (w : Nat) : Option Instr :=
  if bits w 20 5 = 0 ∧ bits w 6 4 = 0 ∧ bits w 0 5 = 0 then some (.cmadd (field w 15 5) (field w 10 5) (field w 5 1)) else
  if bits w 20 5 = 0 ∧ bits w 6 4 = 0 ∧ bits w 0 5 = 1 then some (.cmfaddO (field w 15 5) (field w 10 5) (field w 5 1)) else
  if bits w 20 5 = 0 ∧ bits w 6 4 = 0 ∧ bits w 0 5 = 2 then some (.cmfaddU (field w 15 5) (field w 10 5) (field w 5 1)) else
  if bits w 20 5 = 0 ∧ bits w 6 4 = 0 ∧ bits w 0 5 = 3 then some (.cmmin (field w 15 5) (field w 10 5) (field w 5 1)) else
  if bits w 20 5 = 0 ∧ bits w 6 4 = 0 ∧ bits w 0 5 = 4 then some (.cmmax (field w 15 5) (field w 10 5) (field w 5 1)) else
  if bits w 20 5 = 0 ∧ bits w 6 4 = 0 ∧ bits w 0 5 = 5 then some (.cmor (field w 15 5) (field w 10 5) (field w 5 1)) else
  none

/-- Rows of major opcode 0x54 (R264): CVOPEN, CVCOMMIT, CVABORT, CVSTAT, GCHK. -/
def decodeOp54 (w : Nat) : Option Instr :=
  if bits w 0 10 = 0 then some (.cvopen (field w 20 5) (field w 15 5) (field w 10 5)) else
  if bits w 0 20 = 1 then some (.cvcommit (field w 20 5)) else
  if bits w 0 25 = 2 then some (.cvabort) else
  if bits w 0 10 = 3 then some (.cvstat (field w 20 5) (field w 15 5) (field w 10 5)) else
  if bits w 0 15 = 4 then some (.gchk (field w 20 5) (field w 15 5)) else
  none

/-- Rows of major opcode 0x55 (R264): CVST. -/
def decodeOp55 (w : Nat) : Option Instr :=
  some (.cvst (field w 20 5) (field w 15 5) (field w 0 15))

/-- Rows of major opcode 0x56 (R264): CVSTV. -/
def decodeOp56 (w : Nat) : Option Instr :=
  some (.cvstv (field w 20 5) (field w 15 5) (field w 12 3) (field w 0 12))

/-- Rows of major opcode 0x57 (R264): MOONHINT, MOONQRY. -/
def decodeOp57 (w : Nat) : Option Instr :=
  if bits w 0 10 = 0 then some (.moonhint (field w 20 5) (field w 15 5) (field w 10 5)) else
  if bits w 0 10 = 1 then some (.moonqry (field w 20 5) (field w 15 5) (field w 10 5)) else
  none

/-- Rows of major opcode 0x58 (R264): RDTIME, RDCYCLE, RDID. -/
def decodeOp58 (w : Nat) : Option Instr :=
  if bits w 0 20 = 0 then some (.rdtime (field w 20 5)) else
  if bits w 0 20 = 1 then some (.rdcycle (field w 20 5)) else
  if bits w 15 5 = 0 ∧ bits w 0 10 = 2 then some (.rdid (field w 20 5) (field w 10 5)) else
  none

/-- Rows of major opcode 0x60 (R264): ECALL, EBREAK, TRAPRET, SEGLD, HALT. -/
def decodeOp60 (w : Nat) : Option Instr :=
  if bits w 0 25 = 0 then some (.ecall) else
  if bits w 0 25 = 1 then some (.ebreak) else
  if bits w 0 25 = 2 then some (.trapret) else
  if bits w 23 2 = 0 ∧ bits w 0 15 = 3 then some (.segld (field w 20 3) (field w 15 5)) else
  if bits w 0 25 = 4 then some (.halt) else
  none

/-- Rows of major opcode 0x61 (R264): CSRRW. -/
def decodeOp61 (w : Nat) : Option Instr :=
  if bits w 14 1 = 0 ∧ bits w 12 1 = 0 then some (.csrrw (field w 20 5) (field w 15 5) (field w 13 1) (field w 0 12)) else
  none

/-- Rows of major opcode 0x62 (R264): CSRRS. -/
def decodeOp62 (w : Nat) : Option Instr :=
  if bits w 14 1 = 0 then some (.csrrs (field w 20 5) (field w 15 5) (field w 13 1) (field w 12 1) (field w 0 12)) else
  none

/-- Rows of major opcode 0x63 (R264): CSRRC. -/
def decodeOp63 (w : Nat) : Option Instr :=
  if bits w 14 1 = 0 ∧ bits w 12 1 = 0 then some (.csrrc (field w 20 5) (field w 15 5) (field w 13 1) (field w 0 12)) else
  none

/-- Rows of major opcode 0x64 (R264): CSRRWI. -/
def decodeOp64 (w : Nat) : Option Instr :=
  if bits w 14 1 = 0 ∧ bits w 12 1 = 0 then some (.csrrwi (field w 20 5) (field w 15 5) (field w 13 1) (field w 0 12)) else
  none

/-- Rows of major opcode 0x65 (R264): CSRRSI. -/
def decodeOp65 (w : Nat) : Option Instr :=
  if bits w 14 1 = 0 ∧ bits w 12 1 = 0 then some (.csrrsi (field w 20 5) (field w 15 5) (field w 13 1) (field w 0 12)) else
  none

/-- Rows of major opcode 0x66 (R264): CSRRCI. -/
def decodeOp66 (w : Nat) : Option Instr :=
  if bits w 14 1 = 0 ∧ bits w 12 1 = 0 then some (.csrrci (field w 20 5) (field w 15 5) (field w 13 1) (field w 0 12)) else
  none

/-- The row of the opcode table a word belongs to, by its major opcode in bits 31:25 (R261, R264). -/
def decodeRow (w : Nat) : Option Instr :=
  match bits w 25 7 with
  | 1 => decodeOp01 w
  | 2 => decodeOp02 w
  | 3 => decodeOp03 w
  | 4 => decodeOp04 w
  | 5 => decodeOp05 w
  | 6 => decodeOp06 w
  | 7 => decodeOp07 w
  | 8 => decodeOp08 w
  | 9 => decodeOp09 w
  | 10 => decodeOp0A w
  | 11 => decodeOp0B w
  | 12 => decodeOp0C w
  | 13 => decodeOp0D w
  | 14 => decodeOp0E w
  | 15 => decodeOp0F w
  | 16 => decodeOp10 w
  | 17 => decodeOp11 w
  | 18 => decodeOp12 w
  | 19 => decodeOp13 w
  | 20 => decodeOp14 w
  | 21 => decodeOp15 w
  | 22 => decodeOp16 w
  | 23 => decodeOp17 w
  | 24 => decodeOp18 w
  | 25 => decodeOp19 w
  | 26 => decodeOp1A w
  | 27 => decodeOp1B w
  | 28 => decodeOp1C w
  | 29 => decodeOp1D w
  | 30 => decodeOp1E w
  | 31 => decodeOp1F w
  | 32 => decodeOp20 w
  | 33 => decodeOp21 w
  | 34 => decodeOp22 w
  | 35 => decodeOp23 w
  | 36 => decodeOp24 w
  | 37 => decodeOp25 w
  | 38 => decodeOp26 w
  | 39 => decodeOp27 w
  | 40 => decodeOp28 w
  | 41 => decodeOp29 w
  | 42 => decodeOp2A w
  | 43 => decodeOp2B w
  | 44 => decodeOp2C w
  | 45 => decodeOp2D w
  | 46 => decodeOp2E w
  | 47 => decodeOp2F w
  | 48 => decodeOp30 w
  | 49 => decodeOp31 w
  | 50 => decodeOp32 w
  | 51 => decodeOp33 w
  | 52 => decodeOp34 w
  | 53 => decodeOp35 w
  | 54 => decodeOp36 w
  | 55 => decodeOp37 w
  | 56 => decodeOp38 w
  | 57 => decodeOp39 w
  | 64 => decodeOp40 w
  | 65 => decodeOp41 w
  | 66 => decodeOp42 w
  | 67 => decodeOp43 w
  | 68 => decodeOp44 w
  | 69 => decodeOp45 w
  | 70 => decodeOp46 w
  | 72 => decodeOp48 w
  | 73 => decodeOp49 w
  | 74 => decodeOp4A w
  | 80 => decodeOp50 w
  | 81 => decodeOp51 w
  | 82 => decodeOp52 w
  | 83 => decodeOp53 w
  | 84 => decodeOp54 w
  | 85 => decodeOp55 w
  | 86 => decodeOp56 w
  | 87 => decodeOp57 w
  | 88 => decodeOp58 w
  | 96 => decodeOp60 w
  | 97 => decodeOp61 w
  | 98 => decodeOp62 w
  | 99 => decodeOp63 w
  | 100 => decodeOp64 w
  | 101 => decodeOp65 w
  | 102 => decodeOp66 w
  | _ => none

/-- The decoder (R261, R270). A word of a row whose operand fields hold a reserved code decodes to its
row; the instruction's own meaning then raises ILLEGAL, as `Instr.wf` says which. -/
def decode (w : W32) : Except DecodeError Instr :=
  if w = 0#32 ∨ w = 0xFFFFFFFF#32 then .error .reservedWord
  else match decodeRow w.toNat with
    | some i => .ok i
    | none => .error .unassigned

/-- Four bytes in memory order make one little-endian word (R5, R261). -/
def wordOfBytes (b0 b1 b2 b3 : Byte) : W32 := b3 ++ b2 ++ b1 ++ b0

/-- The bytes of a word in memory order. -/
def bytesOfWord (w : W32) : List Byte :=
  [w.extractLsb' 0 8, w.extractLsb' 8 8, w.extractLsb' 16 8, w.extractLsb' 24 8]

/-- Decoding a byte list: the instruction and the rest of the list. -/
def decodeBytes : List Byte → Except DecodeError (Instr × List Byte)
  | b0 :: b1 :: b2 :: b3 :: rest =>
    match decode (wordOfBytes b0 b1 b2 b3) with
    | .ok i => .ok (i, rest)
    | .error e => .error e
  | _ => .error .truncated

/-- The bytes of an instruction whose bits are numbered as the opcode table numbers them: the bits above
`nbits` are zero. -/
def tableBytes (nbits w : Nat) : List Byte := bytesOfWord (BitVec.ofNat 32 (w % 2 ^ nbits))

/-- What the decoder reads from an instruction given as the opcode table numbers its bits. -/
def decodeTableWord (nbits w : Nat) : Option Instr :=
  match decodeBytes (tableBytes nbits w) with
  | .ok (i, _) => some i
  | .error _ => none


/-- The word of an instruction, from the field diagrams of 15 and of its own entry; events have no word. -/
def encode (i : Instr) : Option W32 :=
  match i with
  | .add d a b => some (word [(7, 1), (5, d.toNat), (5, a.toNat), (5, b.toNat), (10, 0)])
  | .sub d a b => some (word [(7, 1), (5, d.toNat), (5, a.toNat), (5, b.toNat), (10, 1)])
  | .and d a b => some (word [(7, 1), (5, d.toNat), (5, a.toNat), (5, b.toNat), (10, 2)])
  | .or d a b => some (word [(7, 1), (5, d.toNat), (5, a.toNat), (5, b.toNat), (10, 3)])
  | .xor d a b => some (word [(7, 1), (5, d.toNat), (5, a.toNat), (5, b.toNat), (10, 4)])
  | .sll d a b => some (word [(7, 1), (5, d.toNat), (5, a.toNat), (5, b.toNat), (10, 5)])
  | .srl d a b => some (word [(7, 1), (5, d.toNat), (5, a.toNat), (5, b.toNat), (10, 6)])
  | .sra d a b => some (word [(7, 1), (5, d.toNat), (5, a.toNat), (5, b.toNat), (10, 7)])
  | .ror d a b => some (word [(7, 1), (5, d.toNat), (5, a.toNat), (5, b.toNat), (10, 8)])
  | .slt d a b => some (word [(7, 1), (5, d.toNat), (5, a.toNat), (5, b.toNat), (10, 9)])
  | .sltu d a b => some (word [(7, 1), (5, d.toNat), (5, a.toNat), (5, b.toNat), (10, 10)])
  | .min d a b => some (word [(7, 1), (5, d.toNat), (5, a.toNat), (5, b.toNat), (10, 11)])
  | .max d a b => some (word [(7, 1), (5, d.toNat), (5, a.toNat), (5, b.toNat), (10, 12)])
  | .minu d a b => some (word [(7, 1), (5, d.toNat), (5, a.toNat), (5, b.toNat), (10, 13)])
  | .maxu d a b => some (word [(7, 1), (5, d.toNat), (5, a.toNat), (5, b.toNat), (10, 14)])
  | .mul d a b => some (word [(7, 1), (5, d.toNat), (5, a.toNat), (5, b.toNat), (10, 15)])
  | .mulh d a b => some (word [(7, 1), (5, d.toNat), (5, a.toNat), (5, b.toNat), (10, 16)])
  | .mulhu d a b => some (word [(7, 1), (5, d.toNat), (5, a.toNat), (5, b.toNat), (10, 17)])
  | .div d a b => some (word [(7, 1), (5, d.toNat), (5, a.toNat), (5, b.toNat), (10, 18)])
  | .divu d a b => some (word [(7, 1), (5, d.toNat), (5, a.toNat), (5, b.toNat), (10, 19)])
  | .rem d a b => some (word [(7, 1), (5, d.toNat), (5, a.toNat), (5, b.toNat), (10, 20)])
  | .remu d a b => some (word [(7, 1), (5, d.toNat), (5, a.toNat), (5, b.toNat), (10, 21)])
  | .clz d a => some (word [(7, 1), (5, d.toNat), (5, a.toNat), (15, 22)])
  | .ctz d a => some (word [(7, 1), (5, d.toNat), (5, a.toNat), (15, 23)])
  | .popc d a => some (word [(7, 1), (5, d.toNat), (5, a.toNat), (15, 24)])
  | .addw d a b => some (word [(7, 2), (5, d.toNat), (5, a.toNat), (5, b.toNat), (10, 0)])
  | .subw d a b => some (word [(7, 2), (5, d.toNat), (5, a.toNat), (5, b.toNat), (10, 1)])
  | .sllw d a b => some (word [(7, 2), (5, d.toNat), (5, a.toNat), (5, b.toNat), (10, 5)])
  | .srlw d a b => some (word [(7, 2), (5, d.toNat), (5, a.toNat), (5, b.toNat), (10, 6)])
  | .sraw d a b => some (word [(7, 2), (5, d.toNat), (5, a.toNat), (5, b.toNat), (10, 7)])
  | .mulw d a b => some (word [(7, 2), (5, d.toNat), (5, a.toNat), (5, b.toNat), (10, 15)])
  | .addi d a i => some (word [(7, 3), (5, d.toNat), (5, a.toNat), (15, i.toNat)])
  | .andi d a i => some (word [(7, 4), (5, d.toNat), (5, a.toNat), (15, i.toNat)])
  | .ori d a i => some (word [(7, 5), (5, d.toNat), (5, a.toNat), (15, i.toNat)])
  | .xori d a i => some (word [(7, 6), (5, d.toNat), (5, a.toNat), (15, i.toNat)])
  | .slti d a i => some (word [(7, 7), (5, d.toNat), (5, a.toNat), (15, i.toNat)])
  | .sltiu d a i => some (word [(7, 8), (5, d.toNat), (5, a.toNat), (15, i.toNat)])
  | .slli d a s => some (word [(7, 9), (5, d.toNat), (5, a.toNat), (9, 0), (6, s.toNat)])
  | .srli d a s => some (word [(7, 9), (5, d.toNat), (5, a.toNat), (9, 128), (6, s.toNat)])
  | .srai d a s => some (word [(7, 9), (5, d.toNat), (5, a.toNat), (9, 256), (6, s.toNat)])
  | .addiw d a i => some (word [(7, 10), (5, d.toNat), (5, a.toNat), (15, i.toNat)])
  | .lui d i => some (word [(7, 11), (5, d.toNat), (20, i.toNat)])
  | .auipc d i => some (word [(7, 12), (5, d.toNat), (20, i.toNat)])
  | .jal d o => some (word [(7, 13), (5, d.toNat), (20, o.toNat)])
  | .jalr d a i => some (word [(7, 14), (5, d.toNat), (5, a.toNat), (15, i.toNat)])
  | .callw d o => some (word [(7, 15), (5, d.toNat), (20, o.toNat)])
  | .beq a b o => some (word [(7, 16), (5, a.toNat), (5, b.toNat), (15, o.toNat)])
  | .bne a b o => some (word [(7, 17), (5, a.toNat), (5, b.toNat), (15, o.toNat)])
  | .blt a b o => some (word [(7, 18), (5, a.toNat), (5, b.toNat), (15, o.toNat)])
  | .bge a b o => some (word [(7, 19), (5, a.toNat), (5, b.toNat), (15, o.toNat)])
  | .bltu a b o => some (word [(7, 20), (5, a.toNat), (5, b.toNat), (15, o.toNat)])
  | .bgeu a b o => some (word [(7, 21), (5, a.toNat), (5, b.toNat), (15, o.toNat)])
  | .retw a => some (word [(7, 22), (5, 0), (5, a.toNat), (15, 0)])
  | .repeatI a n => some (word [(7, 23), (5, 0), (5, a.toNat), (9, 0), (6, n.toNat)])
  | .lb d a i => some (word [(7, 24), (5, d.toNat), (5, a.toNat), (15, i.toNat)])
  | .lbu d a i => some (word [(7, 25), (5, d.toNat), (5, a.toNat), (15, i.toNat)])
  | .lh d a i => some (word [(7, 26), (5, d.toNat), (5, a.toNat), (15, i.toNat)])
  | .lhu d a i => some (word [(7, 27), (5, d.toNat), (5, a.toNat), (15, i.toNat)])
  | .lw d a i => some (word [(7, 28), (5, d.toNat), (5, a.toNat), (15, i.toNat)])
  | .lwu d a i => some (word [(7, 29), (5, d.toNat), (5, a.toNat), (15, i.toNat)])
  | .ld d a i => some (word [(7, 30), (5, d.toNat), (5, a.toNat), (15, i.toNat)])
  | .pref a i => some (word [(7, 31), (5, 0), (5, a.toNat), (15, i.toNat)])
  | .sb b a i => some (word [(7, 32), (5, b.toNat), (5, a.toNat), (15, i.toNat)])
  | .sh b a i => some (word [(7, 33), (5, b.toNat), (5, a.toNat), (15, i.toNat)])
  | .sw b a i => some (word [(7, 34), (5, b.toNat), (5, a.toNat), (15, i.toNat)])
  | .sd b a i => some (word [(7, 35), (5, b.toNat), (5, a.toNat), (15, i.toNat)])
  | .fadd d a b p r => some (word [(7, 36), (5, d.toNat), (5, a.toNat), (5, b.toNat), (1, 0), (1, p.toNat), (3, r.toNat), (5, 0)])
  | .fsub d a b p r => some (word [(7, 36), (5, d.toNat), (5, a.toNat), (5, b.toNat), (1, 0), (1, p.toNat), (3, r.toNat), (5, 1)])
  | .fmul d a b p r => some (word [(7, 36), (5, d.toNat), (5, a.toNat), (5, b.toNat), (1, 0), (1, p.toNat), (3, r.toNat), (5, 2)])
  | .fdiv d a b p r => some (word [(7, 36), (5, d.toNat), (5, a.toNat), (5, b.toNat), (1, 0), (1, p.toNat), (3, r.toNat), (5, 3)])
  | .fsqrt d a p r => some (word [(7, 36), (5, d.toNat), (5, a.toNat), (6, 0), (1, p.toNat), (3, r.toNat), (5, 4)])
  | .fmin d a b p => some (word [(7, 36), (5, d.toNat), (5, a.toNat), (5, b.toNat), (1, 0), (1, p.toNat), (8, 5)])
  | .fmax d a b p => some (word [(7, 36), (5, d.toNat), (5, a.toNat), (5, b.toNat), (1, 0), (1, p.toNat), (8, 6)])
  | .feq d a b p => some (word [(7, 36), (5, d.toNat), (5, a.toNat), (5, b.toNat), (1, 0), (1, p.toNat), (8, 7)])
  | .flt d a b p => some (word [(7, 36), (5, d.toNat), (5, a.toNat), (5, b.toNat), (1, 0), (1, p.toNat), (8, 8)])
  | .fle d a b p => some (word [(7, 36), (5, d.toNat), (5, a.toNat), (5, b.toNat), (1, 0), (1, p.toNat), (8, 9)])
  | .fclass d a p => some (word [(7, 36), (5, d.toNat), (5, a.toNat), (6, 0), (1, p.toNat), (8, 10)])
  | .fsgnj d a b p => some (word [(7, 36), (5, d.toNat), (5, a.toNat), (5, b.toNat), (1, 0), (1, p.toNat), (8, 11)])
  | .fsgnjn d a b p => some (word [(7, 36), (5, d.toNat), (5, a.toNat), (5, b.toNat), (1, 0), (1, p.toNat), (8, 12)])
  | .fsgnjx d a b p => some (word [(7, 36), (5, d.toNat), (5, a.toNat), (5, b.toNat), (1, 0), (1, p.toNat), (8, 13)])
  | .fcvt d a t c r => some (word [(7, 36), (5, d.toNat), (5, a.toNat), (5, t.toNat), (2, c.toNat), (3, r.toNat), (5, 14)])
  | .fma d a b c p r => some (word [(7, 37), (5, d.toNat), (5, a.toNat), (5, b.toNat), (5, c.toNat), (1, 0), (1, p.toNat), (3, r.toNat)])
  | .fms d a b c p r => some (word [(7, 38), (5, d.toNat), (5, a.toNat), (5, b.toNat), (5, c.toNat), (1, 0), (1, p.toNat), (3, r.toNat)])
  | .fnma d a b c p r => some (word [(7, 39), (5, d.toNat), (5, a.toNat), (5, b.toNat), (5, c.toNat), (1, 0), (1, p.toNat), (3, r.toNat)])
  | .vld v a k o => some (word [(7, 40), (5, v.toNat), (5, a.toNat), (3, k.toNat), (12, o.toNat)])
  | .vst v a k o => some (word [(7, 41), (5, v.toNat), (5, a.toNat), (3, k.toNat), (12, o.toNat)])
  | .vlds v a b k e => some (word [(7, 42), (5, v.toNat), (5, a.toNat), (5, b.toNat), (3, k.toNat), (2, e.toNat), (5, 0)])
  | .vsts v a b k e => some (word [(7, 43), (5, v.toNat), (5, a.toNat), (5, b.toNat), (3, k.toNat), (2, e.toNat), (5, 0)])
  | .vldx v a w k e => some (word [(7, 44), (5, v.toNat), (5, a.toNat), (5, w.toNat), (3, k.toNat), (2, e.toNat), (5, 0)])
  | .vstx v a w k e => some (word [(7, 45), (5, v.toNat), (5, a.toNat), (5, w.toNat), (3, k.toNat), (2, e.toNat), (5, 0)])
  | .vldc v a b k f t => some (word [(7, 46), (5, v.toNat), (5, a.toNat), (5, b.toNat), (3, k.toNat), (5, f.toNat), (2, t.toNat)])
  | .vstc v a b k f t => some (word [(7, 47), (5, v.toNat), (5, a.toNat), (5, b.toNat), (3, k.toNat), (5, f.toNat), (2, t.toNat)])
  | .vadd d a b k t => some (word [(7, 48), (5, d.toNat), (5, a.toNat), (5, b.toNat), (3, k.toNat), (2, t.toNat), (5, 0)])
  | .vsub d a b k t => some (word [(7, 48), (5, d.toNat), (5, a.toNat), (5, b.toNat), (3, k.toNat), (2, t.toNat), (5, 1)])
  | .vmul d a b k t => some (word [(7, 48), (5, d.toNat), (5, a.toNat), (5, b.toNat), (3, k.toNat), (2, t.toNat), (5, 2)])
  | .vand d a b k t => some (word [(7, 48), (5, d.toNat), (5, a.toNat), (5, b.toNat), (3, k.toNat), (2, t.toNat), (5, 3)])
  | .vor d a b k t => some (word [(7, 48), (5, d.toNat), (5, a.toNat), (5, b.toNat), (3, k.toNat), (2, t.toNat), (5, 4)])
  | .vxor d a b k t => some (word [(7, 48), (5, d.toNat), (5, a.toNat), (5, b.toNat), (3, k.toNat), (2, t.toNat), (5, 5)])
  | .vsll d a b k t => some (word [(7, 48), (5, d.toNat), (5, a.toNat), (5, b.toNat), (3, k.toNat), (2, t.toNat), (5, 6)])
  | .vsrl d a b k t => some (word [(7, 48), (5, d.toNat), (5, a.toNat), (5, b.toNat), (3, k.toNat), (2, t.toNat), (5, 7)])
  | .vsra d a b k t => some (word [(7, 48), (5, d.toNat), (5, a.toNat), (5, b.toNat), (3, k.toNat), (2, t.toNat), (5, 8)])
  | .vmin d a b k t => some (word [(7, 48), (5, d.toNat), (5, a.toNat), (5, b.toNat), (3, k.toNat), (2, t.toNat), (5, 9)])
  | .vmax d a b k t => some (word [(7, 48), (5, d.toNat), (5, a.toNat), (5, b.toNat), (3, k.toNat), (2, t.toNat), (5, 10)])
  | .vminu d a b k t => some (word [(7, 48), (5, d.toNat), (5, a.toNat), (5, b.toNat), (3, k.toNat), (2, t.toNat), (5, 11)])
  | .vmaxu d a b k t => some (word [(7, 48), (5, d.toNat), (5, a.toNat), (5, b.toNat), (3, k.toNat), (2, t.toNat), (5, 12)])
  | .vfadd d a b k t => some (word [(7, 49), (5, d.toNat), (5, a.toNat), (5, b.toNat), (3, k.toNat), (2, t.toNat), (5, 0)])
  | .vfsub d a b k t => some (word [(7, 49), (5, d.toNat), (5, a.toNat), (5, b.toNat), (3, k.toNat), (2, t.toNat), (5, 1)])
  | .vfmul d a b k t => some (word [(7, 49), (5, d.toNat), (5, a.toNat), (5, b.toNat), (3, k.toNat), (2, t.toNat), (5, 2)])
  | .vfdiv d a b k t => some (word [(7, 49), (5, d.toNat), (5, a.toNat), (5, b.toNat), (3, k.toNat), (2, t.toNat), (5, 3)])
  | .vfmin d a b k t => some (word [(7, 49), (5, d.toNat), (5, a.toNat), (5, b.toNat), (3, k.toNat), (2, t.toNat), (5, 4)])
  | .vfmax d a b k t => some (word [(7, 49), (5, d.toNat), (5, a.toNat), (5, b.toNat), (3, k.toNat), (2, t.toNat), (5, 5)])
  | .vfexp2 d a k t => some (word [(7, 49), (5, d.toNat), (5, a.toNat), (5, 0), (3, k.toNat), (2, t.toNat), (5, 6)])
  | .vfrcp d a k t => some (word [(7, 49), (5, d.toNat), (5, a.toNat), (5, 0), (3, k.toNat), (2, t.toNat), (5, 7)])
  | .vfrsq d a k t => some (word [(7, 49), (5, d.toNat), (5, a.toNat), (5, 0), (3, k.toNat), (2, t.toNat), (5, 8)])
  | .vsel d a b k t => some (word [(7, 50), (5, d.toNat), (5, a.toNat), (5, b.toNat), (3, k.toNat), (1, 0), (2, t.toNat), (4, 0)])
  | .vbcast d a k t => some (word [(7, 50), (5, d.toNat), (5, a.toNat), (5, 0), (3, k.toNat), (1, 0), (2, t.toNat), (4, 1)])
  | .vmvx d a b t => some (word [(7, 50), (5, d.toNat), (5, a.toNat), (5, b.toNat), (4, 0), (2, t.toNat), (4, 2)])
  | .vmvv d a k t => some (word [(7, 50), (5, d.toNat), (5, a.toNat), (5, 0), (3, k.toNat), (1, 0), (2, t.toNat), (4, 3)])
  | .vperm d a b k t => some (word [(7, 50), (5, d.toNat), (5, a.toNat), (5, b.toNat), (3, k.toNat), (1, 0), (2, t.toNat), (4, 4)])
  | .vslide d a b k t => some (word [(7, 50), (5, d.toNat), (5, a.toNat), (5, b.toNat), (3, k.toNat), (1, 0), (2, t.toNat), (4, 5)])
  | .vredsum d a k t => some (word [(7, 50), (5, d.toNat), (5, a.toNat), (5, 0), (3, k.toNat), (3, t.toNat), (4, 6)])
  | .vredmax d a k t => some (word [(7, 50), (5, d.toNat), (5, a.toNat), (5, 0), (3, k.toNat), (3, t.toNat), (4, 7)])
  | .vredmin d a k t => some (word [(7, 50), (5, d.toNat), (5, a.toNat), (5, 0), (3, k.toNat), (3, t.toNat), (4, 8)])
  | .vfma d a b c k t => some (word [(7, 51), (5, d.toNat), (5, a.toNat), (5, b.toNat), (5, c.toNat), (3, k.toNat), (2, t.toNat)])
  | .vfms d a b c k t => some (word [(7, 55), (5, d.toNat), (5, a.toNat), (5, b.toNat), (5, c.toNat), (3, k.toNat), (2, t.toNat)])
  | .vcmp d a b k t c => some (word [(7, 52), (2, 0), (3, d.toNat), (5, a.toNat), (5, b.toNat), (3, k.toNat), (2, t.toNat), (5, c.toNat)])
  | .mand d a b => some (word [(7, 53), (2, 0), (3, d.toNat), (2, 0), (3, a.toNat), (2, 0), (3, b.toNat), (10, 0)])
  | .mor d a b => some (word [(7, 53), (2, 0), (3, d.toNat), (2, 0), (3, a.toNat), (2, 0), (3, b.toNat), (10, 1)])
  | .mxor d a b => some (word [(7, 53), (2, 0), (3, d.toNat), (2, 0), (3, a.toNat), (2, 0), (3, b.toNat), (10, 2)])
  | .mnot d a => some (word [(7, 53), (2, 0), (3, d.toNat), (2, 0), (3, a.toNat), (15, 3)])
  | .mpopc d a => some (word [(7, 53), (5, d.toNat), (2, 0), (3, a.toNat), (15, 4)])
  | .mset d a => some (word [(7, 53), (2, 0), (3, d.toNat), (5, a.toNat), (15, 5)])
  | .mget d a => some (word [(7, 53), (5, d.toNat), (2, 0), (3, a.toNat), (15, 6)])
  | .vdot d a b k t => some (word [(7, 54), (5, d.toNat), (5, a.toNat), (5, b.toNat), (3, k.toNat), (5, 0), (2, t.toNat)])
  | .vfcmp d a b k t c => some (word [(7, 56), (2, 0), (3, d.toNat), (5, a.toNat), (5, b.toNat), (3, k.toNat), (2, t.toNat), (3, 0), (2, c.toNat)])
  | .vcvt d a s t r x => some (word [(7, 57), (5, d.toNat), (5, a.toNat), (5, s.toNat), (5, t.toNat), (3, r.toNat), (1, x.toNat), (1, 0)])
  | .mma c a b f s p q z => some (word [(7, 64), (3, c.toNat), (4, a.toNat), (4, b.toNat), (2, f.toNat), (2, s.toNat), (1, p.toNat), (1, q.toNat), (1, z.toNat), (7, 0)])
  | .mmas c a b f s p q z => some (word [(7, 65), (3, c.toNat), (4, a.toNat), (4, b.toNat), (2, f.toNat), (2, s.toNat), (1, p.toNat), (1, q.toNat), (1, z.toNat), (7, 0)])
  | .mzero c => some (word [(7, 66), (3, c.toNat), (22, 0)])
  | .mdrain c m a b f r s => some (word [(7, 67), (3, c.toNat), (3, m.toNat), (5, a.toNat), (5, b.toNat), (5, f.toNat), (3, r.toNat), (1, s.toNat)])
  | .mfmt n a => some (word [(7, 68), (3, 0), (2, n.toNat), (5, a.toNat), (15, 0)])
  | .rcfg d a q => some (word [(7, 69), (5, d.toNat), (5, a.toNat), (1, 0), (4, q.toNat), (10, 0)])
  | .radv q => some (word [(7, 69), (11, 0), (4, q.toNat), (10, 1)])
  | .rpop q => some (word [(7, 69), (11, 0), (4, q.toNat), (10, 2)])
  | .rstat d q => some (word [(7, 69), (5, d.toNat), (6, 0), (4, q.toNat), (10, 3)])
  | .smap d a b => some (word [(7, 70), (5, d.toNat), (5, a.toNat), (5, b.toNat), (10, 0)])
  | .sunmap d a b => some (word [(7, 70), (5, d.toNat), (5, a.toNat), (5, b.toNat), (10, 1)])
  | .sflush d a b => some (word [(7, 70), (5, d.toNat), (5, a.toNat), (5, b.toNat), (10, 2)])
  | .cpy c a b k n w => some (word [(7, 72), (5, c.toNat), (5, a.toNat), (5, b.toNat), (2, k.toNat), (4, n.toNat), (2, w.toNat), (2, 0)])
  | .cpyg c a b k n => some (word [(7, 73), (5, c.toNat), (5, a.toNat), (5, b.toNat), (2, k.toNat), (4, n.toNat), (4, 0)])
  | .cpyst d a => some (word [(7, 74), (5, d.toNat), (5, a.toNat), (15, 0)])
  | .cut => some (word [(7, 80), (25, 0)])
  | .fence s => some (word [(7, 80), (10, 0), (5, s.toNat), (10, 1)])
  | .waitw d a b c => some (word [(7, 80), (5, d.toNat), (5, a.toNat), (5, b.toNat), (3, 0), (2, c.toNat), (5, 2)])
  | .waitt a => some (word [(7, 80), (5, 0), (5, a.toNat), (15, 3)])
  | .barrive d n => some (word [(7, 80), (5, d.toNat), (7, 0), (3, n.toNat), (10, 4)])
  | .barwait d a n => some (word [(7, 80), (5, d.toNat), (5, a.toNat), (2, 0), (3, n.toNat), (10, 5)])
  | .semsig a n => some (word [(7, 80), (5, 0), (5, a.toNat), (1, 0), (4, n.toNat), (10, 6)])
  | .semwait a n => some (word [(7, 80), (5, 0), (5, a.toNat), (1, 0), (4, n.toNat), (10, 7)])
  | .tsemsig a b => some (word [(7, 80), (5, 0), (5, a.toNat), (5, b.toNat), (10, 8)])
  | .tsemwait a b => some (word [(7, 80), (5, 0), (5, a.toNat), (5, b.toNat), (10, 9)])
  | .trigger => some (word [(7, 80), (25, 10)])
  | .waitdep d => some (word [(7, 80), (5, d.toNat), (20, 11)])
  | .taskget => some (word [(7, 80), (25, 12)])
  | .taskend => some (word [(7, 80), (25, 13)])
  | .safept d i => some (word [(7, 80), (5, d.toNat), (2, 0), (8, i.toNat), (10, 14)])
  | .ckptstep a => some (word [(7, 80), (5, 0), (5, a.toNat), (15, 15)])
  | .yieldI => some (word [(7, 80), (25, 16)])
  | .amoadd d a b w => some (word [(7, 81), (5, d.toNat), (5, a.toNat), (5, b.toNat), (4, 0), (1, w.toNat), (5, 0)])
  | .amoand d a b w => some (word [(7, 81), (5, d.toNat), (5, a.toNat), (5, b.toNat), (4, 0), (1, w.toNat), (5, 1)])
  | .amoor d a b w => some (word [(7, 81), (5, d.toNat), (5, a.toNat), (5, b.toNat), (4, 0), (1, w.toNat), (5, 2)])
  | .amoxor d a b w => some (word [(7, 81), (5, d.toNat), (5, a.toNat), (5, b.toNat), (4, 0), (1, w.toNat), (5, 3)])
  | .amomin d a b w => some (word [(7, 81), (5, d.toNat), (5, a.toNat), (5, b.toNat), (4, 0), (1, w.toNat), (5, 4)])
  | .amomax d a b w => some (word [(7, 81), (5, d.toNat), (5, a.toNat), (5, b.toNat), (4, 0), (1, w.toNat), (5, 5)])
  | .amominu d a b w => some (word [(7, 81), (5, d.toNat), (5, a.toNat), (5, b.toNat), (4, 0), (1, w.toNat), (5, 6)])
  | .amomaxu d a b w => some (word [(7, 81), (5, d.toNat), (5, a.toNat), (5, b.toNat), (4, 0), (1, w.toNat), (5, 7)])
  | .amoswap d a b w => some (word [(7, 81), (5, d.toNat), (5, a.toNat), (5, b.toNat), (4, 0), (1, w.toNat), (5, 8)])
  | .amofaddO d a b w => some (word [(7, 81), (5, d.toNat), (5, a.toNat), (5, b.toNat), (4, 0), (1, w.toNat), (5, 9)])
  | .amofaddU d a b w => some (word [(7, 81), (5, d.toNat), (5, a.toNat), (5, b.toNat), (4, 0), (1, w.toNat), (5, 10)])
  | .amokey d a b => some (word [(7, 81), (5, d.toNat), (5, a.toNat), (5, b.toNat), (10, 11)])
  | .amocas d a b c w => some (word [(7, 82), (5, d.toNat), (5, a.toNat), (5, b.toNat), (5, c.toNat), (4, 0), (1, w.toNat)])
  | .cmadd a b w => some (word [(7, 83), (5, 0), (5, a.toNat), (5, b.toNat), (4, 0), (1, w.toNat), (5, 0)])
  | .cmfaddO a b w => some (word [(7, 83), (5, 0), (5, a.toNat), (5, b.toNat), (4, 0), (1, w.toNat), (5, 1)])
  | .cmfaddU a b w => some (word [(7, 83), (5, 0), (5, a.toNat), (5, b.toNat), (4, 0), (1, w.toNat), (5, 2)])
  | .cmmin a b w => some (word [(7, 83), (5, 0), (5, a.toNat), (5, b.toNat), (4, 0), (1, w.toNat), (5, 3)])
  | .cmmax a b w => some (word [(7, 83), (5, 0), (5, a.toNat), (5, b.toNat), (4, 0), (1, w.toNat), (5, 4)])
  | .cmor a b w => some (word [(7, 83), (5, 0), (5, a.toNat), (5, b.toNat), (4, 0), (1, w.toNat), (5, 5)])
  | .cvopen d a b => some (word [(7, 84), (5, d.toNat), (5, a.toNat), (5, b.toNat), (10, 0)])
  | .cvcommit d => some (word [(7, 84), (5, d.toNat), (20, 1)])
  | .cvabort => some (word [(7, 84), (25, 2)])
  | .cvstat d a b => some (word [(7, 84), (5, d.toNat), (5, a.toNat), (5, b.toNat), (10, 3)])
  | .gchk d a => some (word [(7, 84), (5, d.toNat), (5, a.toNat), (15, 4)])
  | .cvst b a i => some (word [(7, 85), (5, b.toNat), (5, a.toNat), (15, i.toNat)])
  | .cvstv v a k o => some (word [(7, 86), (5, v.toNat), (5, a.toNat), (3, k.toNat), (12, o.toNat)])
  | .moonhint d a b => some (word [(7, 87), (5, d.toNat), (5, a.toNat), (5, b.toNat), (10, 0)])
  | .moonqry d a b => some (word [(7, 87), (5, d.toNat), (5, a.toNat), (5, b.toNat), (10, 1)])
  | .rdtime d => some (word [(7, 88), (5, d.toNat), (20, 0)])
  | .rdcycle d => some (word [(7, 88), (5, d.toNat), (20, 1)])
  | .rdid d s => some (word [(7, 88), (5, d.toNat), (5, 0), (5, s.toNat), (10, 2)])
  | .ecall => some (word [(7, 96), (25, 0)])
  | .ebreak => some (word [(7, 96), (25, 1)])
  | .trapret => some (word [(7, 96), (25, 2)])
  | .segld n a => some (word [(7, 96), (2, 0), (3, n.toNat), (5, a.toNat), (15, 3)])
  | .halt => some (word [(7, 96), (25, 4)])
  | .csrrw d a n c => some (word [(7, 97), (5, d.toNat), (5, a.toNat), (1, 0), (1, n.toNat), (1, 0), (12, c.toNat)])
  | .csrrs d a n o c => some (word [(7, 98), (5, d.toNat), (5, a.toNat), (1, 0), (1, n.toNat), (1, o.toNat), (12, c.toNat)])
  | .csrrc d a n c => some (word [(7, 99), (5, d.toNat), (5, a.toNat), (1, 0), (1, n.toNat), (1, 0), (12, c.toNat)])
  | .csrrwi d u n c => some (word [(7, 100), (5, d.toNat), (5, u.toNat), (1, 0), (1, n.toNat), (1, 0), (12, c.toNat)])
  | .csrrsi d u n c => some (word [(7, 101), (5, d.toNat), (5, u.toNat), (1, 0), (1, n.toNat), (1, 0), (12, c.toNat)])
  | .csrrci d u n c => some (word [(7, 102), (5, d.toNat), (5, u.toNat), (1, 0), (1, n.toNat), (1, 0), (12, c.toNat)])
  | .commitGrant _ => none
  | .commitComplete _ => none
  | .dirtyLogMerge _ => none
  | .dataReply _ => none
  | .spillFillComplete _ => none
  | .contextSwap _ _ => none
  | .faultService _ => none
  | .faultWake _ => none
  | .rangeAllocate _ => none
  | .rangeRelease _ _ => none
  | .dirtyHarvest => none
  | .pageMigration _ => none
  | .pinTimeExpiry _ => none
  | .engineCommandAccept _ => none
  | .mmaExecute _ => none
  | .mzeroExecute _ => none
  | .mdrainExecute _ => none
  | .cpyExecute _ => none
  | .engineFaultResolved _ _ => none
  | .completionTarget _ => none
  | .semsigPerform _ => none
  | .radvPerform _ => none
  | .rcfgPerform _ => none
  | .rpopFree _ => none
  | .ringAreaStore _ => none
  | .tsemsigPerform _ => none
  | .cometPerform _ => none
  | .triggerRecord _ => none
  | .farLoadService _ => none
  | .farStoreArrival _ => none
  | .farAmoService _ => none
  | .farStoreAck _ => none
  | .hostStoreAck _ => none
  | .asyncError _ _ _ _ => none
  | .orderedContribution _ => none
  | .contributionRetry _ => none
  | .moonWindowEnd _ => none
  | .subscriptionAnswer _ _ => none
  | .subscriptionPush _ _ _ => none
  | .hostSnoop _ _ => none
  | .cxlMemWrite _ _ _ => none
  | .bar2Write _ _ _ => none
  | .bar2Read _ _ _ => none
  | .bar0UnlistedAccess _ _ _ => none
  | .cqDoorbell _ _ _ => none
  | .cqEnable _ _ => none
  | .cqDisable _ _ => none
  | .crHeadWrite _ _ _ => none
  | .crEnable _ _ => none
  | .registerWrite _ _ _ => none
  | .nop _ => none
  | .launch _ => none
  | .guardedLaunch _ => none
  | .tsemSignal _ => none
  | .tsemWait _ => none
  | .ckptOnce _ => none
  | .ckptEverySteps _ => none
  | .ckptEveryMs _ => none
  | .ckptCancelPeriodic _ => none
  | .ckptRestore _ => none
  | .ckptVerify _ => none
  | .drainQuery _ => none
  | .drain _ => none
  | .resume _ => none
  | .retire _ => none
  | .gangPlacement => none
  | .gangRelease _ => none
  | .priorityAging _ => none
  | .preemptRequest _ => none
  | .cellSave _ => none
  | .preemptCancel _ => none
  | .gangRestore _ => none
  | .threadExit _ => none
  | .gangCompletion _ => none
  | .drainKillTimeout => none
  | .waittExpiry _ => none
  | .waitRecheck _ => none
  | .cvStageArrival _ => none
  | .cvPrepare _ _ _ _ => none
  | .cvConfirm _ _ _ => none
  | .cvCommit _ _ => none
  | .cvPrelock _ => none
  | .cvPublish _ => none
  | .cvPublishAck _ _ _ _ => none
  | .cvAbort _ => none
  | .cvUndeliverable _ _ => none
  | .cvDeadline _ => none
  | .cvQuery _ _ _ => none
  | .cvQueryAnswer _ _ _ => none
  | .cvQueryInterval _ => none
  | .cvIndoubtLimit _ => none
  | .linkDown _ => none
  | .routeReconverged => none
  | .routeHoldTimeout _ => none
  | .linkUp _ => none
  | .spareSubstitution _ => none
  | .slotOpen _ => none
  | .slotTableUpdate _ => none
  | .sync _ => none
  | .followUp _ => none
  | .pdelayReq _ => none
  | .pdelayResp _ _ => none
  | .pdelayRespFollowUp _ _ => none
  | .announce _ _ => none
  | .ppsEdge => none
  | .syncLoss => none
  | .holdoverTimeout => none
  | .moduleReset => none
  | .securityBoot _ => none
  | .hostImageDelivery _ _ => none
  | .bootImageTimeout => none
  | .watchdogWrite => none
  | .watchdogTimeout => none
  | .serviceCrash _ => none
  | .healthRefresh => none
  | .throttle _ _ => none
  | .softError _ => none
  | .patrolScrub _ _ => none
  | .ckptTrigger _ => none
  | .ckptGather _ => none
  | .ckptGatherTimeout _ => none
  | .dbgctlHalt _ => none
  | .dbgctlResume _ => none
  | .dbgctlStep _ => none
  | .daccAccess _ => none
  | .orbitEnd _ => none
  | .clrCounters _ => none
  | .clrStall _ => none
  | .clrDelay _ => none
  | .clrRas _ => none
  | .clrTrlost _ => none
  | .cxlMemRead _ _ _ _ => none
  | .waittWindow _ => none
  | .currentGovernor _ _ => none
  | .syncInterval _ => none

end Sys2Proof
end

