-- ==== Sys2Proof/Config.lean ====
section
/-! DEFINITION. What is fixed for the machine, and the free values: what the spec leaves open. -/
namespace Sys2Proof

/-- A free value (assumption 5): what the spec leaves undefined or unstated after an instruction that goes on.
No proof can see what it is. -/
opaque Config.freeWord : Nat → BitVec 64

/-- The doubleword at an offset of the health window's view of the scheduler log and the configuration table: a function of what
these hold, in a layout that the spec leaves open (13: R230; assumption 5). -/
opaque Config.windowView : List (BitVec 64) → List Nat → Nat → BitVec 64

/-- Lines of an L2 slice that may hold copies: its 8 MiB without the inns (01: R17, R18). -/
def Config.sliceLines : Nat := 126976

/-- Bytes of a die window (04: R75). -/
def Config.dieWindow : Nat := 0x0C00000000
/-- First byte above HBM (01: R24). -/
def Config.hbmEnd : Nat := 0x018000000000
/-- First byte of the MMIO range (R24). -/
def Config.mmioBase : Nat := 0x080000000000
/-- First byte above the MMIO range (R24). -/
def Config.mmioEnd : Nat := 0x100000000000
/-- TBSTAT (11: R207). -/
def Config.tbstatPa : Nat := 0x080000001000
/-- The class-S slot table (12: R217). -/
def Config.slotTablePa : Nat := 0x080001000000
/-- The firewall rules (13: R226). -/
def Config.firewallPa : Nat := 0x080002000000
/-- The per-core debug windows (14: R242). -/
def Config.corePa : Nat := 0x080004000000
/-- Capacity of the deferred-effect queue (02: R37). -/
def Config.deferLimit : Nat := 32
/-- Distinct written lines of one chunk (R37). -/
def Config.lineLimit : Nat := 256
/-- Sets of a data cache (04: R66). -/
def Config.cacheSets : Nat := 128
/-- Ways of a data cache (04: R66). -/
def Config.cacheWays : Nat := 8
/-- Lines of an instruction cache: 32 KiB (04: R66). -/
def Config.codeLines : Nat := 512
/-- Subscriber modules of one home region (04: R82). -/
def Config.subscriberLimit : Nat := 256
/-- Cycles of a window of the sharing monitor (04: R78). -/
def Config.moonWindow : Nat := 65536
/-- Uncommitted lines of one data-cache set (04: R68). -/
def Config.setLimit : Nat := 6
/-- Bits set at which a signature is saturated (R39). -/
def Config.sigLimit : Nat := 1280
/-- Window frames a thread's local store holds (R33). -/
def Config.frameLimit : Nat := 28
/-- Commands in an engine's queue (07: R126, 08: R142). -/
def Config.engineQueue : Nat := 16
/-- Entries of a cluster port's look-aside buffer (05: R88). -/
def Config.tlbLimit : Nat := 4096
/-- Key registers of a home slice (11: R199). -/
def Config.keyLimit : Nat := 64
/-- Caravan records of a module (10: R179). -/
def Config.poolLimit : Nat := 4096
/-- Destination modules of one caravan (R182). -/
def Config.destLimit : Nat := 256
/-- Bytes of inns per die (01: R17). -/
def Config.innBytes : Nat := 4194304
/-- Subscribed regions of a module (04: R82). -/
def Config.subLimit : Nat := 1024
/-- Timebase units of one microsecond (11: R206). -/
def Config.usUnits : Nat := 16000

/-- Where firmware grants memory for spill areas: virtual and physical base (assumption 21). -/
def Config.spillVa : Nat := 0x0180000000000000
/-- The physical base of the granted spill areas. -/
def Config.spillPa : Nat := 0x017000000000
/-- Where the scheduler places segment tables, 128 bytes a core (15: R279; assumption 21). -/
def Config.segTablePa : Nat := 0x017FFFF80000
/-- Timebase units of one millisecond (R206). -/
def Config.msUnits : Nat := 16000000

end Sys2Proof
end

