-- ==== Sys2Proof/Machine/State.lean ====
section
/-! DEFINITION. The state of one TG-32 module: its threads, cores, cells, memory, gangs, caravans, host and
fabric sides, and the state right after module reset. -/
namespace Sys2Proof.Machine

/-- A sparse table: (key, value) pairs with rising keys, none equal to the default an unlisted key reads as. -/
abbrev Map (β : Type) := List (Nat × β)

/-- Bits written to a byte: its address, the mask of the bits written, their values (R61). -/
abbrev MCell := Nat × Byte × Byte

/-- A chunk signature (02: R39). -/
abbrev Sig := BitVec 2048

/-- Fabric classes (12: R213). -/
inductive FabClass where
  | a | o | s
  deriving DecidableEq, Repr

/-- A physical place: of this module (`home = none`) or of another (R24). -/
structure Loc where
  home : Option (BitVec 16)
  pa : Nat
  deriving DecidableEq, Repr

/-- Read-modify-write functions of AMOs and comets (16: R284, R297). -/
inductive RmwOp where
  | add | and | or | xor | min | max | minu | maxu | swap | faddO | faddU
  deriving DecidableEq, Repr

/-- An exact number: NaN (signalling or quiet), an infinity, or ± m × 2^e. -/
inductive FVal where
  | nan (sig : Bool)
  | inf (neg : Bool)
  | fin (neg : Bool) (m : Nat) (e : Int)
  deriving DecidableEq, Repr

/-- Rounding modes (R109). -/
inductive Rm where
  | rne | rtz | rdn | rup | rmm | sr
  deriving DecidableEq, Repr

/-- One exact addition of an engine contribution: the places of the element's bytes, what is added, and the random bits of
stochastic rounding (07: R138; 08: R151). -/
structure AddEl where
  at_ : List Loc
  y : FVal
  rnd : Nat
  deriving DecidableEq, Repr

/-- Trap causes with their codes of 05: R96. -/
inductive Cause where
  | illegal | combo | align | seglimit | segrights | role | breakpoint | ecall | token | ring | caravan
  | timeline | repeatCount | page | farerr | poison | deferred
  deriving DecidableEq, Repr

/-- Reasons of a fault record (R92). -/
inductive FaultReason where
  | notPresent | rights | malformed | placement
  deriving DecidableEq, Repr

/-- Kinds of access, by the right they need (R87). -/
inductive Access where
  | load | store | rmw | fetch
  deriving DecidableEq, Repr

/-- Completion targets of a copy command or an MDRAIN (08: R152, 07: R138). -/
inductive Target where
  | none
  | sem (n : Nat)
  | barrier (n phase : Nat)
  | counter (addr : W64)
  deriving DecidableEq, Repr

/-- A command of the matrix queue with what it captured at issue (07: R135, R137). -/
inductive MatOp where
  | mma (acc : Nat) (qa qb : Nat) (ea eb : Nat) (popA popB : Bool) (ctx : W64) (rows : Nat) (zero neg : Bool)
  | mzero (acc : Nat)
  | mdrain (acc mode : Nat) (addr word : W64) (fmt : BitVec 5) (rm : BitVec 3) (sat : Bool) (seed count : W64)
  deriving DecidableEq, Repr

/-- What every engine command carries of its issuer (R115, R137, R143): thread, gang, rank, address space,
captured segment registers, whether it was issued inside a guarded item. -/
structure Issuer where
  tid : Nat
  gang : Nat
  rank : Nat
  gangSize : Nat
  asid : BitVec 16
  core : Nat
  segs : Map (BitVec 128)
  guarded : Bool
  /-- Since when an access of its command has been held at the port while routing reconverges (12: R214). -/
  heldAt : Option Nat
  deriving DecidableEq, Repr

/-- How a drain has ended, while its ordered contributions are still on their way: its flags, its cycles, and a failure's ASYNCERR code and
address (R138). -/
structure DrainEnd where
  flags : Nat
  cycles : Nat
  fail : Option (Nat × W64)
  deriving DecidableEq, Repr

/-- A matrix command with its issuer. -/
structure MatCmd where
  op : MatOp
  who : Issuer
  /-- Held by a resolvable page fault (R138). -/
  faulted : Option W64
  ended : Option DrainEnd
  deriving DecidableEq, Repr

/-- How a copy has ended, while its ordered contributions are still on their way: N, its flags, and a failure's side, status, ASYNCERR
code, first undelivered offset and address (08: R153). -/
structure CopyEnd where
  count : Nat
  flags : Nat
  fail : Option (Bool × Nat × Nat × Nat × W64)
  deriving DecidableEq, Repr

/-- A copy command (08: R143). -/
structure CopyCmd where
  gather : Bool
  src : W64
  dst : W64
  list : W64
  target : Target
  rw : Nat
  who : Issuer
  /-- Held by a resolvable page fault (R153). -/
  faulted : Option W64
  /-- The records read when its execution began, the source's first (R145). -/
  recs : List (List Byte)
  ended : Option CopyEnd
  deriving DecidableEq, Repr

/-- A line that a data cache or a stash holds: the physical line, its virtual tag (`vtag`), and whether an access by that tag may read
it without a translation: it was filled for a read, or written through a page that grants reads (04: R66, R74; 05: R88; assumption 62). -/
structure Held where
  line : Nat
  tag : Nat
  read : Bool
  deriving DecidableEq, Repr

/-- Where the contributions of an engine command to one line come from: its cell, whether it is the matrix engine, the fabric class of the
segment they go through (12: R213), the place of the first of them in the command's order (08: R153), and the lines they take the stash path
to (04: R74). -/
structure AddsFrom where
  cell : Nat
  matrix : Bool
  cls : FabClass
  first : Nat
  held : List Held
  deriving DecidableEq, Repr

/-- One deferred effect, or one piece of it (03: R52, R62). -/
inductive Item where
  | ringStore (cell : Nat) (cells : List MCell)
  | farStore (home : BitVec 16) (cells : List MCell) (cls : FabClass) (ea : W64)
  | hostStore (port : Nat) (cells : List MCell) (ea : W64)
  | comet (loc : Loc) (op : RmwOp) (n : Nat) (src : W64) (cls : FabClass) (ea : W64)
  | tsemSig (loc : Loc) (v : W64) (cls : FabClass) (ea : W64)
  | semSig (cell n count : Nat)
  | radv (cell q : Nat)
  | rpop (cell q entry epoch : Nat)
  /-- `upto` counts the cell's matrix and copy commands that had been accepted when the RCFG came to it: it waits for them alone (07: R128,
  R344). -/
  | rcfg (cell q : Nat) (w : W64) (upto : Option (Nat × Nat))
  | matrix (cell : Nat) (cmd : MatCmd)
  | copy (cell : Nat) (cmd : CopyCmd)
  /-- A caravan store, with its caravan's deadline; `seq` is set at its release (R183). -/
  | stage (cid : BitVec 32) (gen : BitVec 16) (seq : Nat) (loc : Loc) (cells : List MCell) (d : W64)
  | gstage (cells : List MCell)
  /-- A gang's trigger, bound to its very launch (`Launch.inst`), since the identifier may be used again (09: R163, R168). -/
  | trigger (gang inst : Nat)
  /-- An ordered atomic that awaits its turn and its reply (11: R200). -/
  | amo (loc : Loc) (n : Nat) (src : W64) (cls : FabClass) (ea : W64)
  /-- What an engine command adds into one line: where it comes from, format code, rounding, saturation (R198, R200). -/
  | adds (eng : AddsFrom) (loc : Loc) (fmt : Nat) (rm : Rm) (sat : Bool) (els : List AddEl) (ea : W64)
  deriving DecidableEq, Repr

/-- How far a released effect has come (R52, R56): waiting, refused by a key register (R200), handed to the fabric or
host port and awaiting its acknowledgement, or performed at its home with the acknowledgement under way. -/
inductive Stage where
  | waiting | refused | handed | performed
  deriving DecidableEq, Repr

/-- A released effect (R42 step 6, R52). -/
structure Released where
  item : Item
  tid : Nat
  gang : Nat
  rank : Nat
  gangSize : Nat
  stage : Stage
  /-- When it was released. -/
  sentAt : Nat
  deriving DecidableEq, Repr

/-- A completion target to perform once its command has finished (R152). -/
structure Finished where
  cell : Nat
  /-- It is a command of the matrix queue. -/
  matrix : Bool
  target : Target
  poison : Bool
  who : Issuer
  deriving DecidableEq, Repr

/-- MOONHINT's recorded hint (04: R80). -/
structure Hint where
  region : Nat
  far : Bool
  word : W64
  deriving DecidableEq, Repr

/-- Stash map changes a chunk has recorded (R72, R73): the cell's table as this chunk leaves it. -/
structure MapEntry where
  base : Nat
  len : Nat
  run : Nat
  asid : BitVec 16
  deriving DecidableEq, Repr

/-- Everything of a thread that a squash restores (02: R43, R40; 10: R182). -/
structure Arch where
  pc : W64
  /-- x1 to x15; x0 is hard-wired (15: R271). -/
  x : Map W64
  /-- Doubleword i of window frame k at key 8 k + i (R33). -/
  win : Map W64
  depth : Nat
  /-- Window frames resident in the local store (R33). -/
  frames : List Nat
  v : Map V512
  m : Map W64
  repcnt : W64
  fcsr : W64
  srseed : W64
  srcount : W64
  mstat : W64
  fmtctx : Map W64
  step : W64
  stepped : Bool
  arrivals : Map Nat
  /-- What the open chunk adds to the current caravan: charge, overflow mark, destinations (10: R182). -/
  cvCharge : Nat
  cvOvf : Bool
  cvDests : List (BitVec 16)
  gCharge : Nat
  /-- A CPYST with selector 3 stands in the open chunk (08: R154). -/
  cpyClear : Bool
  deriving DecidableEq, Repr

/-- A line of an instruction cache, as it was when it was filled (04: R66; 03: R65). -/
structure CodeLine where
  line : Nat
  tag : Nat
  data : V512
  deriving DecidableEq, Repr

/-- The open chunk of a thread (R37 to R40). -/
structure Chunk where
  isOpen : Bool
  start : Arch
  icount : Nat
  rsig : Sig
  wsig : Sig
  /-- Buffered bytes by local physical address, or, with bit 60 set, by host address (R40). -/
  wbuf : List MCell
  /-- Distinct written lines. -/
  lines : List Nat
  /-- The written lines as a cache holds them after the commit: with their virtual tags (04: R66, R74). -/
  held : List Held
  /-- Written lines that take the stash path (04: R74). -/
  slines : List Nat
  /-- Scope of the commit, found at the grant (R42). -/
  scope : Nat
  /-- Ranges to write back and keep (SFLUSH), as (base, length) (R73). -/
  sflush : List (Nat × Nat)
  /-- Leaf entries of the pages written (05: R91): (cluster, leaf entry address). -/
  leaves : List Nat
  /-- Places outside this module's inner world that the chunk's loads have read: a page that moves squashes it (03: R48). -/
  outer : List Loc
  defq : List Item
  defCount : Nat
  /-- Own publications and claims of the open chunk by ring (07: R127). -/
  radvs : Map Nat
  claims : Map Nat
  hints : List Hint
  /-- The cell's stash map as the chunk leaves it, when it changed it. -/
  smap : Option (List MapEntry)
  /-- Ranges that the chunk has unmapped (SUNMAP) (R73). -/
  unmapped : List MapEntry
  /-- Barrier arrivals that take effect at commit (09: R169): (barrier, phase). -/
  arrived : List (Nat × Nat)
  /-- Trace records held until the chunk ends (14: R252). -/
  trace : List W64
  /-- Window frames the chunk has written or obtained (R34). -/
  framesW : List Nat
  /-- Recorded or replayed values of the chunk, as record entries (11: R204), and how many replayed ones it took. -/
  values : List W64
  taken : Nat
  deriving DecidableEq, Repr

/-- What follows the commit of a cut chunk (R37, R35): the instruction at pc issues again, a trap is taken, the thread
faults, or it stops for the debug module. -/
inductive After where
  | reissue
  | trap (c : Cause) (v : W64)
  | fault (va : W64) (reason : FaultReason) (acc : Access)
  | stop
  /-- A breakpoint (cause 2) or watchpoint (cause 3) hit: stop the core, or raise BREAK (14: R250). -/
  | hit (cause unit : Nat) (brk : Bool)
  /-- A guarded item has exceeded its budget: the thread exits (10: R194). -/
  | overflow
  deriving DecidableEq, Repr

/-- What a parked thread waits for (R46). -/
inductive Wait where
  | none
  | word (loc : Loc) (cmp : BitVec 2) (c : W64)
  | timeline (loc : Loc) (v : W64)
  | time (t : W64)
  | barrier (n : Nat) (phase : Nat)
  | sem (n : Nat) (count : Nat)
  | producers
  | task
  | caravan
  | guard
  | safept (id : Nat)
  | ring (q : Nat)
  | message
  deriving DecidableEq, Repr

/-- States of a context (R26); `vacant` is a slot without a context, `exiting` a thread that waits for the
fence.sys condition (R166), `exited` one that has gone. -/
inductive TState where
  | vacant | runnable | dataWait | requesting | committing | parked | faultWait | spillWait | stopped | exiting | exited
  deriving DecidableEq, Repr

/-- The outstanding data access of a thread in DATA-WAIT (R28, R55, R58, R60). -/
inductive Pending where
  | none
  /-- A miss: the lines to fill, their virtual tags, and whether they go to the stash (04: R66, R74). -/
  | lines (ls tags : List Nat) (stash : Bool)
  /-- An access that fills no cache, MMIO or an atomic at the home of its line, or a store that waits for its lines: these lines (R28,
  R284). -/
  | direct (ls : List Nat)
  /-- An outer load: the piece it waits for (R55, R57, R62). -/
  | outer (loc : Loc) (n : Nat) (cls : FabClass)
  /-- An atomic that its home performs, with its destination register; no operation stands for AMOCAS (R58, R200). -/
  | rmw (loc : Loc) (op : Option RmwOp) (n : Nat) (src cmp : W64) (cls : FabClass) (d : Reg)
  /-- An AMOKEY at a far home (R201). -/
  | key (loc : Loc) (w : W64) (cls : FabClass) (d : Reg)
  /-- A fence of a scope (R60). -/
  | fence (scope : Nat)
  /-- A full data-cache set (04: R68). -/
  | set
  /-- In replay, the turn of a boundary instruction (11: R205). -/
  | turn
  /-- A frame to spill for a CALLW, or to fill for a RETW (R33). -/
  | spill (frame : Nat)
  | fill (frame : Nat)
  /-- A selector-5 MOONQRY to a far home (R336). -/
  | pageWord (loc : Loc) (leaf : W64) (size : Nat) (cls : FabClass) (d : Reg)
  deriving DecidableEq, Repr

/-- A guarded item of a surrogate thread (10: R194, R195). -/
structure Item0 where
  inItem : Bool
  checked : Bool
  staged : List MCell
  deriving DecidableEq, Repr

/-- The copy-fault record (08: R154). -/
structure CopyRec where
  flt : Bool
  mult : Bool
  side : Bool
  op : Bool
  code : Nat
  offset : Nat
  addr : W64
  lastN : Nat
  out : Nat
  deriving DecidableEq, Repr

/-- What an engine or a failed effect has left for the thread's next boundary (06: R115, R154, 05: R99). -/
inductive Merge where
  | flags (mstat : W64)
  | copyDone (n : Nat)
  | copyFault (op side : Bool) (code offset : Nat) (addr : W64)
  | async (src code : BitVec 8) (addr : W64)
  deriving DecidableEq, Repr

/-- A save or restore routine that a thread runs at a safe point (09: R177): which, what the SAFEPTs of its cell return
after a restore routine, the frame depth it was called at, the SAFEPT's pc and its identifier. -/
structure Routine where
  save : Bool
  ret : W64
  depth : Nat
  pc : W64
  ident : Nat
  /-- It runs before a released thread's first instruction, on a save area that a restore has loaded (13: R240). -/
  first : Bool
  deriving DecidableEq, Repr

/-- A hardware thread's context (01: R15; 02; 05; 15: R272). -/
structure Thread where
  tid : Nat
  st : TState
  arch : Arch
  chunk : Chunk
  after : After
  wait : Wait
  pend : Pending
  /-- When its outer access left the core (12: R214). -/
  waitAt : Nat
  /-- Replies that the instruction at pc has had: where each was read, and the bytes; `replyBad` marks an error
  response, `replyPoison` uncorrectable data (R55, R96). -/
  replies : List (Loc × List Byte)
  replyBad : Bool
  replyPoison : Bool
  /-- Lines that have been fetched for the instruction at pc (04: R66). -/
  got : List Nat
  /-- The instruction at pc has been counted as issued (14: R254). -/
  issued : Bool
  /-- The gang, by GANGID; none for a firmware thread of the service column. -/
  gang : Option Nat
  rank : Nat
  core : Nat
  /-- The slot, or none for a context in the run queue (R30). -/
  slot : Option Nat
  /-- Place in the run queue: the queue runs from the lowest (R30, R31). -/
  qpos : Nat
  seg : Map (BitVec 128)
  wid : W64
  packet : Option (List W64)
  trapvec : W64
  trappc : W64
  trapcause : W64
  trapval : W64
  asyncerr : W64
  asyncaddr : W64
  limlog : Nat
  curlog : Nat
  sqcnt : Nat
  prio : Bool
  chunks : W64
  squashes : W64
  cvh : W64
  copyRec : CopyRec
  merges : List Merge
  item : Item0
  /-- What SAFEPT returns at wake (18: R353), when set. -/
  safeResult : Option W64
  routine : Option Routine
  /-- A wait's event has occurred (R46): the boundary instruction completes when it issues again. -/
  woken : Bool
  /-- The parked thread holds a wait-list entry of the word's home slice (09: R175). -/
  waitEntry : Bool
  yielded : Bool
  /-- A stop is pending for a parked or faulted thread (14: R244). -/
  stopPending : Bool
  stepping : Bool
  /-- A pre-emption request cuts the chunk before the next instruction (R37). -/
  cutReq : Bool
  /-- The instructions whose next issue matches no breakpoint or watchpoint (R250). -/
  bpSkip : List W64
  /-- What the last cut of the thread's chunk was for (R37; 05: R95). -/
  met : After
  softSquashes : Nat
  /-- The context engine may not try this thread again in this state (R31). -/
  swapBarred : Bool
  /-- The page fault this thread waits on has been treated, and judged unresolvable (R92). -/
  faultDone : Bool
  faultBad : Bool
  faultVa : W64
  deriving DecidableEq, Repr

/-- A breakpoint or watchpoint unit (14: R248, R249). -/
structure DbgUnit where
  addr : W64
  ctl : W64
  deriving DecidableEq, Repr

/-- The debug, trace, counter and RAS registers of a core (14). -/
structure Debug where
  halt : Bool
  sslot : Nat
  hunit : Nat
  hslot : Nat
  hcause : Nat
  /-- Messages queued while halted (R245): thread identifiers woken. -/
  msgs : List Nat
  dacc : W64
  ddata : Map W64
  bp : Map DbgUnit
  wp : Map DbgUnit
  trctl : W64
  trbase : W64
  trptr : Nat
  trlost : W64
  trLastTime : Nat
  pmctl : W64
  orbit : W64
  /-- When the current orbit began, in units since module reset. -/
  orbitAt : Nat
  curSet : Nat
  tena : W64
  evsel : Map W64
  count : Map W64
  trun : Map W64
  stall : Map W64
  dsum : Map W64
  dcnt : Map W64
  corr : W64
  sesq : W64
  latent : W64
  poisc : W64
  skip : W64
  deriving DecidableEq, Repr

/-- A core (01: R15). -/
structure Core where
  ptroot : W64
  segtab : W64
  /-- Lines the data cache holds committed, the least recently used first (04: R66, R68). -/
  dcache : List Held
  /-- Those of them that it holds dirty: committed here and not yet written back (R66). -/
  dirty : List Nat
  /-- Lines the instruction cache holds, the oldest first (R66). -/
  icache : List CodeLine
  /-- Dirty-log entries: leaf entry addresses (05: R91). -/
  dlog : List Nat
  dbg : Debug
  deriving DecidableEq, Repr

/-- An operand ring's configuration and counters (07: R127). The counters T, H and C are the fields modulo 128, which alone names an entry
(`Ring.entryAt`) and is what software sees; the fields count on, so that T - H and C - H are plain differences. `epoch` counts configurations, so a claim of an older one frees nothing (R345). -/
structure Ring where
  word : W64
  t : Nat
  h : Nat
  c : Nat
  /-- Claimed entries that are to be freed in order, each with the number of accepted matrix commands, from the head of
  the queue, that it still waits for where they read it (R345). -/
  freed : List (Nat × Nat)
  epoch : Nat
  deriving DecidableEq, Repr

/-- An accumulator (07: R125): element 32 i + j, and its INT32 tag. -/
structure Acc where
  el : Map (BitVec 32)
  int : Bool
  deriving DecidableEq, Repr

/-- A cell (01: R16). -/
structure Cell where
  /-- The gang that owns the cell. -/
  owner : Option Nat
  faulty : Bool
  /-- Ring-area size in bytes (04: R70). -/
  area : Nat
  ringMem : List Host.Cell
  rings : Map Ring
  smap : List MapEntry
  /-- Lines the stash holds, and those of them that it owns dirty (R74). -/
  stash : List Held
  stashDirty : List Nat
  sems : Map Nat
  /-- Parked SEMWAITs in parking order: (semaphore, tid) (09: R171). -/
  semq : List (Nat × Nat)
  accs : Map Acc
  matq : List MatCmd
  copyq : List CopyCmd
  /-- Commands of the two queues that have finished since reset: with those that are queued, the accepted ones (07: R128, R344). -/
  matDone : Nat
  copyDone : Nat
  deriving DecidableEq, Repr

/-- A look-aside entry (05: R88, R91): the page it maps and the leaf it was filled from. -/
structure TlbEntry where
  asid : BitVec 16
  vpage : Nat
  size : Nat
  leafPa : Nat
  leaf : W64
  logged : Bool
  deriving DecidableEq, Repr

/-- A key register with its buffered contributions (11: R199, R200). -/
structure KeyReg where
  /-- The line's place. -/
  loc : Loc
  word : W64
  /-- (key, released effect or atomic that contributes). -/
  buffered : List (Nat × Released)
  deriving DecidableEq, Repr

/-- A 2 MiB region's replication state (04: R77 to R83). -/
structure Region where
  deg : Nat
  dmin : Nat
  dmax : Nat
  fwmin : Nat
  fwmax : Nat
  hits : Nat
  fills : Nat
  collapses : Nat
  changes : Nat
  rr : Nat
  w : Nat
  c : Nat
  /-- Windows of the sharing monitor that have ended for the region (R78). -/
  windows : Nat
  deriving DecidableEq, Repr

/-- A page's migration record, under the key of its location, host port and frame (05: R93, R94). -/
structure PageRec where
  pin : Bool
  /-- Times of the moves of the last 64 ms, oldest first. -/
  times : List Nat
  migpin : Nat
  /-- When the pin was set, and the leaf entry that carries PIN. -/
  pinnedAt : Nat
  leafPa : Nat
  deriving DecidableEq, Repr

/-- A fault record at the FAULT role (R92). -/
structure FaultRec where
  tid : Nat
  gang : Nat
  rank : Nat
  asid : BitVec 16
  va : Nat
  acc : Access
  reason : FaultReason
  /-- The cell and engine that wait, for an engine's fault (R153). -/
  engine : Option (Nat × Bool)
  deriving DecidableEq, Repr

/-- One barrier of a gang (09: R169). -/
structure Barrier where
  /-- Phases completed. -/
  done : Nat
  /-- Arrivals that have taken effect: (rank, phase). -/
  arrivals : List (Nat × Nat)
  /-- Phases with a poisoned bound arrival. -/
  poison : List Nat
  deriving DecidableEq, Repr

/-- A producer as a dependant keeps it, bound to that very launch and not to its identifier, which may be used again (09: R163, R168). -/
structure Dep where
  /-- The producer's number (`Launch.inst`). -/
  inst : Nat
  triggered : Bool
  /-- CODE with which it completed. -/
  code : Option Nat
  deriving DecidableEq, Repr

/-- The launch fields a gang keeps (09: R160; 10: R192). -/
structure Launch where
  /-- Its number in order of acceptance, and its producers as they are bound then (R161, R168). -/
  inst : Nat
  deps : List Dep
  port : Nat
  cring : Nat
  tag : BitVec 32
  lid : W64
  image : Nat
  tpc : Nat
  cores : Nat
  ord : Bool
  rrm : Nat
  det : Bool
  prio : Nat
  asid : BitVec 16
  ox : Nat
  oy : Nat
  wd : Nat
  ht : Nat
  anyOrg : Bool
  bms : BitVec 8
  bmc : BitVec 8
  ww : List Nat
  widFirst : W64
  widLast : W64
  prods : List W64
  start : W64
  tsaddr : W64
  tsval : W64
  wtab : W64
  args : List W64
  /-- GUARDED_LAUNCH: tolerance, budget, and the exact gang's shape (R192). -/
  guarded : Bool
  gtol : BitVec 32
  gbudget : Nat
  xtpc : Nat
  xcores : Nat
  xany : Bool
  xht : Nat
  xwd : Nat
  xoy : Nat
  xox : Nat
  ximage : Nat
  deriving DecidableEq, Repr

/-- A safe point of the kernel header (R279). -/
structure SafePoint where
  ident : Nat
  save : Nat
  restore : Nat
  size : Nat
  deriving DecidableEq, Repr

/-- What a kernel header gives its gang (15: R279). -/
structure Kernel where
  entry : Nat
  imgsz : Nat
  trap : Nat
  area : Nat
  fmtdef : W64
  spill : Nat
  segs : List (BitVec 128)
  rings : List W64
  safepts : List SafePoint
  deriving DecidableEq, Repr

/-- Requests that park threads at safe points (R177, R238). -/
inductive SafeReq where
  | none | preempt | checkpoint (target : W64)
  deriving DecidableEq, Repr

/-- A live gang (09). -/
structure Gang where
  ident : Nat
  launch : Launch
  kernel : Kernel
  /-- The exact gang of a guarded launch (R192). -/
  exact : Bool
  /-- The other gang of a guarded launch. -/
  mate : Option Nat
  size : Nat
  ox : Nat
  oy : Nat
  wd : Nat
  ht : Nat
  placed : Bool
  released : Bool
  swapped : Bool
  everPreempted : Bool
  /-- Items not handed out begin at this enumeration index (R164). -/
  nextItem : Nat
  items : Nat
  /-- The exact queue: packets of failed items (R195, R196). -/
  queue : List (List W64)
  barriers : Map Barrier
  /-- Ranks that have exited, with their arrival counts by barrier (R169). -/
  exited : List (Nat × List Nat)
  retired : Nat
  passed : Nat
  failed : Nat
  overflowed : Nat
  flags : BitVec 8
  grade : Nat
  code : Nat
  cause : Nat
  ended : Bool
  triggered : Bool
  req : SafeReq
  /-- Pre-emption that waits behind a checkpoint (13: R241). -/
  reqNext : Bool
  /-- Cells whose save routine has finished (R177). -/
  savedCells : List Nat
  /-- When the pending request was made. -/
  reqAt : Nat
  /-- Addresses of the save areas, by cell order (R177). -/
  saves : Map W64
  /-- Record and replay (11: R203 to R205): entries written or left to replay. -/
  record : List W64
  recBase : W64
  recSize : Nat
  recOverflow : Bool
  recMismatch : Bool
  deriving DecidableEq, Repr

/-- A launch that waits for placement (R162, R176). -/
structure Waiting where
  launch : Launch
  kernel : Kernel
  xkernel : Option Kernel
  /-- 100 ms periods waited. -/
  aged : Nat
  /-- When it was accepted, and the order of its doorbell across all rings (R176). -/
  since : Nat
  order : Nat
  deriving DecidableEq, Repr

/-- A launch that has ended: its number, LID and GANGIDs, its CODE, and whether it has triggered (R161, R163, R168). -/
structure Completed where
  inst : Nat
  lid : W64
  ids : List W64
  code : Nat
  triggered : Bool
  deriving DecidableEq, Repr

/-- States of a caravan record (10: R179). -/
inductive CvState where
  | free | opened | preparing | publishing | done
  deriving DecidableEq, Repr

/-- A caravan record at its coordinator (R179 to R190). -/
structure Caravan where
  st : CvState
  gen : BitVec 16
  owner : Nat
  d : W64
  lead : Nat
  budget : Nat
  charge : Nat
  ovf : Bool
  seq : Nat
  outcome : Nat
  t : W64
  tlast : W64
  skew : Bool
  /-- Destination modules, this one included, with the stores released to each. -/
  dests : List (BitVec 16 × Nat)
  /-- Answers that are in. -/
  answers : List (BitVec 16 × CvAnswer)
  undelivered : List (BitVec 16)
  acked : List (BitVec 16)
  /-- Stages that other modules' inns hold: module, sequence number, bytes. -/
  out : List (BitVec 16 × Nat × List MCell)
  deriving DecidableEq, Repr

/-- A destination's view of a caravan it holds stages of (R183, R187, R190). -/
structure CvDest where
  cid : BitVec 32
  /-- The generation of its stages; none before the first has come. -/
  gen : Option (BitVec 16)
  /-- The entries were published or discarded; later arrivals are discarded (R190). -/
  gone : Bool
  parts : List (BitVec 16)
  /-- The count PREPARE named. -/
  expect : Option Nat
  staged : Nat
  refused : Bool
  bad : Bool
  d : W64
  confirmed : Bool
  commit : Option W64
  locked : Bool
  /-- It holds a decided caravan's entries, which await only their publish, though the identifier has come into use again (R187). -/
  old : Bool
  /-- Inn entries: (address, (sequence number, byte)). -/
  inn : Map (Nat × Byte)
  /-- Termination (R190): it has begun, when the last queries went out, and the answers that are in. -/
  asked : Bool
  askedAt : Nat
  replies : List (BitVec 16 × CvQueryReply)
  deriving DecidableEq, Repr

/-- A caravan's decision kept after the record is freed, with its deadline, since a later caravan may bear the identifier (R190). -/
structure CvDecision where
  cid : BitVec 32
  d : W64
  commit : Option W64
  deriving DecidableEq, Repr

/-- A caravan control message handed to the fabric (R185, R190). -/
inductive CvMsg where
  | prepare (cid : BitVec 32) (dest : BitVec 16) (parts : List (BitVec 16)) (count : Nat) (d : W64)
  | confirm (cid : BitVec 32) (ans : CvAnswer)
  | commit (cid : BitVec 32) (dest : BitVec 16) (t : W64)
  | ack (cid : BitVec 32) (t : W64) (skew : Bool)
  | abort (cid : BitVec 32) (dest : BitVec 16)
  | query (cid : BitVec 32) (d : W64) (dest : BitVec 16)
  | answer (cid : BitVec 32) (dest : BitVec 16) (ans : CvQueryReply)
  deriving DecidableEq, Repr

/-- A command ring of a host port (09: R156 to R159). -/
structure CmdRing where
  base : W64
  head : Nat
  tail : Nat
  en : Bool
  err : Bool
  loc : Bool
  prio : Nat
  szlog : Nat
  /-- The private snapshot buffer: packets as doublewords, oldest first, each with the order of its doorbell. -/
  snap : List (Nat × List W64)
  deriving DecidableEq, Repr

/-- A completion ring of a host port (12: R219). -/
structure CplRing where
  base : W64
  head : Nat
  tail : Nat
  en : Bool
  stall : Bool
  err : Bool
  vec : Nat
  szlog : Nat
  /-- Entries waiting for space, with the launches that they end: these stay live until then (09: R161). -/
  waiting : List (List W64 × Option Completed)
  deriving DecidableEq, Repr

/-- A host port's side of the machine (12). -/
structure HostPort where
  cmd : Map CmdRing
  cpl : Map CplRing
  bar2base : W64
  /-- Base-2 logarithm of the BAR2 size, 30 to 41 (R220). -/
  bar2log : Nat
  /-- Host memory bytes as the device reads and writes them. -/
  mem : List Host.Cell
  /-- MSI-X vectors raised, newest first. -/
  msix : List Nat
  /-- Doublewords of the MSI-X table, the mask bit of a vector inverted (12: R218, R219; assumption 60). -/
  mtable : Map W64
  /-- Vectors raised while they were masked: the pending-bit array (R218). -/
  mpend : List Nat
  /-- The answer of the last host read: its bytes, or none for an error response. -/
  readReply : Option (List Byte)
  readPoison : Bool
  deriving DecidableEq, Repr

/-- A health event (13: R231). -/
inductive HealthKind where
  | linkDown | linkUp | caravanIndoubt | poison | watchdog | throttle | state
  deriving DecidableEq, Repr

/-- One entry of the event ring (R231). -/
structure HealthEvent where
  seq : Nat
  timebase : W64
  kind : HealthKind
  arg : Nat
  deriving DecidableEq, Repr

/-- The health window's copy (R230). -/
structure Health where
  seq : Nat
  dw1 : W64
  tbstat : W64
  links : W64
  live : Nat
  waiting : Nat
  refused : Nat
  /-- The cell map: bit n set when cell n is free (R230, offset 0x0100). -/
  freeCells : BitVec 2048
  /-- Module power and core-rail current, island frequencies in 100 MHz, HBM stack status. -/
  power : W64
  freqs : List Nat
  hbmStacks : List Nat
  events : List HealthEvent
  nextEvent : Nat
  deriving DecidableEq, Repr

/-- Drain states (R232). -/
inductive DrainState where
  | normal | draining | drained | retired
  deriving DecidableEq, Repr

/-- Discipline states (11: R207). -/
inductive TbState where
  | freerun | acquiring | locked | holdover
  deriving DecidableEq, Repr

/-- The PTP messages that a module sends (11: R207). -/
inductive PtpMsg where
  | sync | followUp | pdelayReq | pdelayResp | pdelayRespFollowUp | announce
  deriving DecidableEq, Repr

/-- The timebase and its discipline (R206, R207). -/
structure Time where
  now : W64
  /-- Units of 1/16 ns since module reset, which no discipline holds or slews. -/
  up : Nat
  st : TbState
  src : Nat
  offs : BitVec 32
  good : Nat
  /-- A Sync whose Follow_Up is awaited. -/
  syncSeen : Bool
  /-- The timebase at its receipt. -/
  syncRx : W64
  /-- Units for which the timebase is held still. -/
  hold : Nat
  /-- Correction still to be slewed out. -/
  slew : Int
  /-- By port: the turn-around of the last peer delay request, and the path delay. -/
  turn : Map Int
  pathDelay : Map Int
  /-- What the last Announce of each port said: the port, its master's rank, and when it came (`Time.up`). -/
  masters : List (Nat × Nat × Nat)
  /-- PTP messages sent, each with its port, in order. -/
  sent : List (Nat × PtpMsg)
  /-- When the last valid message came, and when HOLDOVER began. -/
  syncAt : Nat
  holdAt : Nat
  deriving DecidableEq, Repr

/-- A class-S slot-table entry (12: R217). -/
structure Slot where
  dest : BitVec 16
  valid : Bool
  start : W64
  len : W64
  period : W64
  deriving DecidableEq, Repr

/-- One multicast push of a committed line: its commit position, its value, and the subscribers it goes to, in class O (04: R83). -/
structure Push where
  line : Nat
  pos : Nat
  value : V512
  dests : List (BitVec 16)
  deriving DecidableEq, Repr

/-- The fabric side (12). -/
structure Fabric where
  partition : W64
  /-- Link state of each port: 0 down, 1 up, 2 up on a detour path. -/
  links : Map Nat
  /-- Routing reconverges, since a direction has failed (R214). -/
  reconverging : Bool
  /-- Directions that have failed and that routing does not know of yet, with the times at which they failed (R214). -/
  falling : List (Nat × Nat)
  /-- Identifiers that a chassis spare has taken over, with the hops its traffic makes more (R214). -/
  spares : List (BitVec 16 × Nat)
  slots : Map Slot
  /-- Slot-table writes that wait for the end of the slot that was open when they came, with that timebase value: (entry, contents, end)
  (R217). -/
  slotWrites : List (Nat × Slot × Nat)
  /-- Caravan control messages handed to the fabric. -/
  sent : List CvMsg
  /-- Subscription pushes sent, in commit order (04: R83). -/
  pushes : List Push
  /-- The step in progress makes an access for firmware that is held at its port: the step waits (R214). -/
  held : Bool
  /-- For whom firmware makes its accesses in the step in progress (`State.asFront`), and since when the access of each such one is held. -/
  asker : Nat
  heldAt : Map (Option Nat)
  /-- By home module: the latest commit position of it that a push or a fill has shown here (03: R59; R83). -/
  pushPos : Map Nat
  deriving DecidableEq, Repr

/-- A firewall rule (13: R226). -/
structure FwRule where
  lo : W64
  hi : W64
  deriving DecidableEq, Repr

/-- Boot, configuration and operations (13). -/
structure Service where
  boot : Nat
  /-- The flash image has failed its verification, at this time (R224). -/
  flashBad : Option Nat
  /-- The verified image whose root monitor has started and has the rest of step 4 before it (R224). -/
  monitor : Option BootImage
  columnWidth : Nat
  ibnd : Nat
  cthr : Nat
  /-- Moon degree limits of the module, as codes (04: R80; 13: R227). -/
  degMin : Nat
  degMax : Nat
  pinTimeMs : Nat
  indoubtS : Nat
  zlen : Nat
  wlen : Nat
  pps : Bool
  gatherMs : Nat
  /-- Roles of the column's cells from y = 0 up (R228). -/
  roles : List Role
  /-- TBEPOCH, in seconds of the PTP timescale (11: R206). -/
  tbepoch : Nat
  /-- The PTP domain, and this module's own rank in it (11: R207). -/
  ptpDomain : Nat
  ptpRank : Nat
  /-- Host ports in CXL mode: (port, (base, length)) of the HDM range (12: R221). -/
  cxl : List (Nat × Nat × Nat)
  firewall : Map FwRule
  drain : DrainState
  /-- The drain request's kill time in ms, 0 for never. -/
  killMs : Nat
  /-- When the drain request came. -/
  drainAt : Nat
  refusedLaunches : Nat
  /-- Launches accepted since reset. -/
  launches : Nat
  /-- Bytes of memory granted to gangs so far, for spill areas (15: R279; assumption 21). -/
  granted : Nat
  watchdogAt : Nat
  restarts : List Nat
  restartCount : Nat
  /-- Uncommitted and committed transactions of the scheduler log (R229): (committed, record). -/
  log : List (Bool × W64)
  islands : Map Nat
  /-- Islands inside a WAITT window: the timebase value at which it ends (R259). -/
  fullSpeed : Map Nat
  /-- Cycles, times 16,000, that the current governor still withholds from an island (R259). -/
  withheld : Map Nat
  ranges : List AddrRange
  faults : List FaultRec
  /-- Addresses of refused accesses (R24, R218, R225). -/
  errlog : List Nat
  roots : Map W64
  /-- Pages of 64 KiB that hold page tables, by number (R225). -/
  tables : List Nat
  /-- The answer of the last read of a control register, or of the health window over MCTP (R230). -/
  readBack : Option W64
  /-- Save areas of the last checkpoint: virtual address by address space and cell (R238, R240). -/
  saveAreas : Map (W64 × W64)
  /-- Save areas that a restore has loaded and no gang has taken yet, by the same key. -/
  restored : List Nat
  deriving DecidableEq, Repr

/-- A shard of a checkpoint: kind, source, where it lies in the job's memory, length, and a save area's effective address (13: R237). -/
structure Shard where
  kind : Nat
  source : Nat
  va : Nat
  len : Nat
  ea : W64
  deriving DecidableEq, Repr

/-- A checkpoint request (13: R236, R238). -/
structure Ckpt where
  asid : BitVec 16
  mode : Nat
  period : W64
  pool : W64
  rtab : W64
  count : Nat
  slotsz : W64
  port : Nat
  tag : BitVec 32
  /-- The target step of the checkpoint that runs. -/
  target : W64
  running : Bool
  /-- When it is due under MODE 2, and when the running one was posted. -/
  nextAt : Nat
  startAt : Nat
  /-- The record of the running one's caravan, from the opening on, and the save areas among its shards: cell, virtual address, effective
  address (R238). -/
  carav : Option Nat
  areas : List (Nat × W64 × W64)
  /-- The running one's shards and data slot; the CRC-32C of those whose copies have reached their completion targets; how many of these have
  their entries stored; whether the manifest is (R238 steps 3, 4). -/
  shards : List Shard
  slot : Nat
  crcs : List Nat
  entered : Nat
  stored : Bool
  deriving DecidableEq, Repr

/-- Which agent moves next (assumption 4): an event, an issue of a chosen thread, or time passing. -/
inductive Turn where
  | event (i : Instr)
  /-- Another module's effect on this one comes in (assumption 8). -/
  | arrive (r : Released)
  /-- A host (or, with none, another module) writes its own memory (assumption 8). -/
  | outside (port : Option Nat) (cells : List Host.Cell)
  | select (tid : Nat)
  | elapse (units : Nat)
  /-- Another module asks to subscribe to a region of this one, or gives the subscription up (04: R82; assumption 8). -/
  | subscriber (region : Nat) (module_ : BitVec 16) (on : Bool)
  /-- An L2 slice evicts a moon of a line from a die, or with no die a far moon (04: R77, R82). -/
  | evict (line : Nat) (die : Option Nat)
  /-- A host reads a BAR0 register (12: R218; 13: R230). -/
  | bar0Read (port off : Nat)
  /-- The baseboard controller reads the health window over MCTP (13: R230). -/
  | mctpRead (off : Nat)
  /-- An operator ends a gang, or a launch that waits for placement (13: R234). -/
  | kill (gang : Nat)
  /-- The root monitor or another service-column core sends a context a message (17: R323; assumption 75). -/
  | message (tid : Nat)
  /-- A control register is read back through its own address (13: R230). -/
  | registerRead (init : Initiator) (r : RegAddr)
  deriving DecidableEq, Repr

/-- Why the machine stops with a fault. The model raises none: every stop the spec describes is a trap, an ended gang
or a completion code, which are states. -/
inductive Fault where
  /-- Raised by no meaning; safe. -/
  | unreachable
  deriving DecidableEq, Repr

/-- Why an instruction has no next state. -/
inductive Refusal where
  /-- An instruction without a meaning yet, by its mnemonic; raised by a refused arm of exec alone; safe. -/
  | notModelled (mnemonic : String)
  deriving DecidableEq, Repr

/-- The state of one module. -/
structure State where
  /-- The context whose turn it is. -/
  th : Thread
  /-- Every other context, resident or queued, in queue order. -/
  threads : List Thread
  agenda : List Turn
  /-- The counter of free values (assumption 5). -/
  free : Nat
  nextTid : Nat
  /-- Doorbells taken so far (R176). -/
  doorbells : Nat
  mem : List Host.Cell
  /-- Other modules' HBM, at key 2^44 times the module identifier plus the local physical address. -/
  farMem : List Host.Cell
  /-- Poisoned lines, as physical line keys (14: R258). -/
  poisoned : List Nat
  /-- Lines locked by a commit or publish in progress: (line, owner) (02: R42, 10: R187). -/
  locks : List (Nat × Nat)
  /-- Commit position of this module (03: R49), one per event of the commit order. -/
  position : Nat
  moduleId : BitVec 16
  /-- Cycles of each core island since module reset, times 16,000 (15: R269; 14: R259). -/
  islandTicks : Map Nat
  cores : Map Core
  cells : Map Cell
  tlbs : Map (List TlbEntry)
  keyRegs : List KeyReg
  regions : Map Region
  /-- Moons: (line, die) (04: R77). -/
  moons : List (Nat × Nat)
  /-- Far moons of subscribed regions: far line key to (commit position, value) (R83). -/
  farMoons : Map (Nat × V512)
  /-- SUB of far regions (R81). -/
  subs : Map Nat
  /-- Subscribers of home regions: (region, module). -/
  subscribers : List (Nat × BitVec 16)
  pages : Map PageRec
  released : List Released
  finished : List Finished
  gangs : List Gang
  waiting : List Waiting
  completed : List Completed
  /-- FIFO of the priority token (02: R44): thread identifiers. -/
  tokenQueue : List Nat
  caravans : Map Caravan
  cvDests : List CvDest
  decisions : List CvDecision
  /-- Lines of this module's HBM that a host holds: (port, line) (12: R221). -/
  hostLines : List (Nat × Nat)
  /-- MESI states in which the L2 holds lines of HOST-COHERENT pages: 0 I, 1 S, 2 E, 3 M (12: R221). -/
  mesi : Map Nat
  hosts : Map HostPort
  fabric : Fabric
  time : Time
  service : Service
  health : Health
  ckpts : List Ckpt
  deriving DecidableEq, Repr


/-! ## The machine right after module reset

Every value is the spec's where the spec gives one; zero or empty otherwise (assumptions 1 and 2). -/

/-- The squash-restored part of an empty context (assumption 1; REPCNT, FCSR, MSTAT, STEP: R36, R114, R115, R235). -/
def Arch.reset : Arch where
  pc := 0
  x := []
  win := []
  depth := 0
  frames := [0, 1]
  v := []
  m := []
  repcnt := 0
  fcsr := 0
  srseed := 0
  srcount := 0
  mstat := 0
  fmtctx := []
  step := 0
  stepped := false
  arrivals := []
  cvCharge := 0
  cvOvf := false
  cvDests := []
  gCharge := 0
  cpyClear := false

/-- No chunk is open. -/
def Chunk.reset : Chunk where
  isOpen := false
  start := Arch.reset
  icount := 0
  rsig := 0
  wsig := 0
  wbuf := []
  lines := []
  held := []
  slines := []
  scope := 0
  sflush := []
  leaves := []
  outer := []
  defq := []
  defCount := 0
  radvs := []
  claims := []
  hints := []
  smap := none
  unmapped := []
  arrived := []
  trace := []
  framesW := []
  values := []
  taken := 0

/-- The copy-fault record "0 when no command has finished since thread creation" (08: R154). -/
def CopyRec.reset : CopyRec where
  flt := false
  mult := false
  side := false
  op := false
  code := 0
  offset := 0
  addr := 0
  lastN := 0
  out := 0

/-- A place without a context: the C-core of cell 1, slot 0 (assumption 3). -/
def Thread.reset : Thread where
  tid := 0
  st := .vacant
  arch := Arch.reset
  chunk := Chunk.reset
  after := .reissue
  wait := .none
  pend := .none
  waitAt := 0
  replies := []
  replyBad := false
  replyPoison := false
  got := []
  issued := false
  gang := none
  rank := 0
  core := 3
  slot := some 0
  qpos := 0
  seg := []
  wid := 0
  packet := none
  trapvec := 0
  trappc := 0
  trapcause := 0
  trapval := 0
  asyncerr := 0
  asyncaddr := 0
  limlog := 12
  curlog := 12
  sqcnt := 0
  prio := false
  chunks := 0
  squashes := 0
  cvh := 0
  copyRec := CopyRec.reset
  merges := []
  item := { inItem := false, checked := false, staged := [] }
  safeResult := none
  routine := none
  woken := false
  waitEntry := false
  yielded := false
  stopPending := false
  stepping := false
  cutReq := false
  bpSkip := []
  met := .reissue
  softSquashes := 0
  swapBarred := false
  faultDone := false
  faultBad := false
  faultVa := 0

/-- Breakpoint units at reset (R248). -/
def DbgUnit.bpReset : DbgUnit := { addr := 0, ctl := 0 }

/-- Watchpoint units at reset: SZLOG 3 (R249). -/
def DbgUnit.wpReset : DbgUnit := { addr := 0, ctl := 3 }

/-- A core's debug window at reset (R243 to R259); ORBIT 1,000 (R253). -/
def Debug.reset : Debug where
  halt := false
  sslot := 0
  hunit := 0
  hslot := 0
  hcause := 0
  msgs := []
  dacc := 0
  ddata := []
  bp := []
  wp := []
  trctl := 0
  trbase := 0
  trptr := 0
  trlost := 0
  trLastTime := 0
  pmctl := 0
  orbit := 1000
  orbitAt := 0
  curSet := 0
  tena := 0
  evsel := []
  count := []
  trun := []
  stall := []
  dsum := []
  dcnt := []
  corr := 0
  sesq := 0
  latent := 0
  poisc := 0
  skip := 0

/-- A core at reset. -/
def Core.reset : Core where
  ptroot := 0
  segtab := 0
  dcache := []
  dirty := []
  icache := []
  dlog := []
  dbg := Debug.reset

/-- An unconfigured ring (07: R127). -/
def Ring.reset : Ring where
  word := 0
  t := 0
  h := 0
  c := 0
  freed := []
  epoch := 0

/-- A zeroed accumulator tagged FP32 (R125). -/
def Acc.reset : Acc where
  el := []
  int := false

/-- A cell at reset: a ring area of 1 MiB (01: R16). -/
def Cell.reset : Cell where
  owner := none
  faulty := false
  area := 1048576
  ringMem := []
  rings := []
  smap := []
  stash := []
  stashDirty := []
  sems := []
  semq := []
  accs := []
  matq := []
  copyq := []
  matDone := 0
  copyDone := 0

/-- A region no one has allocated. -/
def Region.reset : Region where
  deg := 0
  dmin := 0
  dmax := 0
  fwmin := 0
  fwmax := 0
  hits := 0
  fills := 0
  collapses := 0
  changes := 0
  rr := 0
  w := 0
  c := 0
  windows := 0

/-- A page never moved (R93). -/
def PageRec.reset : PageRec where
  pin := false
  times := []
  migpin := 0
  pinnedAt := 0
  leafPa := 0

/-- A free caravan record (10: R179). -/
def Caravan.reset : Caravan where
  st := .free
  gen := 0
  owner := 0
  d := 0
  lead := 0
  budget := 0
  charge := 0
  ovf := false
  seq := 0
  outcome := 0
  t := 0
  tlast := 0
  skew := false
  dests := []
  answers := []
  undelivered := []
  acked := []
  out := []

/-- A disabled command ring (09: R156). -/
def CmdRing.reset : CmdRing where
  base := 0
  head := 0
  tail := 0
  en := false
  err := false
  loc := false
  prio := 0
  szlog := 0
  snap := []

/-- A disabled completion ring (12: R219). -/
def CplRing.reset : CplRing where
  base := 0
  head := 0
  tail := 0
  en := false
  stall := false
  err := false
  vec := 0
  szlog := 0
  waiting := []

/-- A host port at reset. -/
def HostPort.reset : HostPort where
  cmd := []
  cpl := []
  bar2base := 0
  bar2log := 30
  mem := []
  msix := []
  mtable := []
  mpend := []
  readReply := none
  readPoison := false

/-- An invalid slot-table entry (R217). -/
def Slot.reset : Slot where
  dest := 0
  valid := false
  start := 0
  len := 0
  period := 0

/-- An invalid firewall rule (13: R226). -/
def FwRule.reset : FwRule where
  lo := 0
  hi := 0

/-- The fabric at reset. -/
def Fabric.reset : Fabric where
  partition := 0
  links := []
  reconverging := false
  falling := []
  spares := []
  slots := []
  slotWrites := []
  sent := []
  pushes := []
  held := false
  asker := 0
  heldAt := []
  pushPos := []

/-- The timebase at reset: 0, in state FREERUN (11: R206). -/
def Time.reset : Time where
  now := 0
  up := 0
  st := .freerun
  src := 0
  offs := 0
  good := 0
  syncSeen := false
  syncRx := 0
  hold := 0
  slew := 0
  turn := []
  pathDelay := []
  masters := []
  sent := []
  syncAt := 0
  holdAt := 0

/-- Boot and service at reset: BOOT 0 (R224), the defaults of R227, CTHR 16 (R78). -/
def Service.reset : Service where
  boot := 0
  flashBad := none
  monitor := none
  columnWidth := 1
  ibnd := 48 * 1073741824
  cthr := 16
  degMin := 0
  degMax := 4
  pinTimeMs := 1000
  indoubtS := 10
  zlen := 32
  wlen := 32
  pps := false
  gatherMs := 1000
  roles := [.front, .front, .sched, .sched, .fault, .fault, .mgmt, .ckpt]
  tbepoch := 1577836800
  ptpDomain := 0
  ptpRank := 2 ^ 64
  cxl := []
  firewall := []
  drain := .normal
  killMs := 0
  drainAt := 0
  refusedLaunches := 0
  launches := 0
  granted := 0
  watchdogAt := 0
  restarts := []
  restartCount := 0
  log := []
  islands := []
  fullSpeed := []
  withheld := []
  ranges := []
  faults := []
  errlog := []
  roots := []
  tables := []
  readBack := none
  saveAreas := []
  restored := []

/-- The health window before its first refresh. -/
def Health.reset : Health where
  seq := 0
  dw1 := 0
  tbstat := 0
  links := 0
  live := 0
  waiting := 0
  refused := 0
  freeCells := 0
  power := 0
  freqs := []
  hbmStacks := []
  events := []
  nextEvent := 0

/-- The module right after module reset (assumptions 1 to 4): no gang is placed, so no thread exists. -/
def State.reset : State where
  th := Thread.reset
  threads := []
  agenda := []
  free := 0
  nextTid := 1
  doorbells := 0
  mem := []
  farMem := []
  poisoned := []
  locks := []
  position := 0
  moduleId := 0
  islandTicks := []
  cores := []
  cells := []
  tlbs := []
  keyRegs := []
  regions := []
  moons := []
  farMoons := []
  subs := []
  subscribers := []
  pages := []
  released := []
  finished := []
  gangs := []
  waiting := []
  completed := []
  tokenQueue := []
  caravans := []
  cvDests := []
  decisions := []
  hostLines := []
  mesi := []
  hosts := []
  fabric := Fabric.reset
  time := Time.reset
  service := Service.reset
  health := Health.reset
  ckpts := []

end Sys2Proof.Machine
end

