-- ==== Sys2Proof/Machine/Maps.lean ====
section
/-! DEFINITION. Sparse tables and byte memories: how they are read and written, and the canonical form every write keeps. -/
namespace Sys2Proof.Machine

/-- The value at key `k`; `d` where the table lists none. -/
def Map.get {β : Type} (d : β) : List (Nat × β) → Nat → β
  | [], _ => d
  | (k, v) :: rest, q => if k = q then v else Map.get d rest q

/-- Put `v` at key `q`. -/
def Map.put {β : Type} : List (Nat × β) → Nat → β → List (Nat × β)
  | [], q, v => [(q, v)]
  | (k, w) :: rest, q, v =>
    if k = q then (q, v) :: rest else if q < k then (q, v) :: (k, w) :: rest else (k, w) :: Map.put rest q v

/-- Store `v` at key `q`; storing the default removes the entry. -/
def Map.set {β : Type} [DecidableEq β] (d : β) (m : List (Nat × β)) (q : Nat) (v : β) : List (Nat × β) :=
  if v = d then m.filter (fun p => p.1 != q) else Map.put m q v

/-- Every key is at least `lo`, keys rise strictly, and no entry holds the default. -/
def Map.wfFrom {β : Type} [DecidableEq β] (d : β) : Nat → List (Nat × β) → Bool
  | _, [] => true
  | lo, (k, v) :: rest => decide (lo ≤ k) && decide (v ≠ d) && Map.wfFrom d (k + 1) rest

/-- The canonical form of a sparse table. -/
def Map.wf {β : Type} [DecidableEq β] (d : β) (m : List (Nat × β)) : Bool := Map.wfFrom d 0 m

/-- Change the value at a key. -/
def Map.upd {β : Type} [DecidableEq β] (d : β) (m : List (Nat × β)) (k : Nat) (f : β → β) : List (Nat × β) :=
  Map.set d m k (f (Map.get d m k))

/-- What an unlisted byte of memory reads as (assumption 2). -/
def Memory.blank : Byte := 0#8

/-- One byte of a memory. -/
def Memory.read (mem : List Host.Cell) (a : Nat) : Byte := Map.get Memory.blank mem a

/-- Write one byte. -/
def Memory.write (mem : List Host.Cell) (a : Nat) (b : Byte) : List Host.Cell := Map.set Memory.blank mem a b

/-- The canonical form of memory: addresses strictly rising, no entry equal to what an unlisted address reads as. -/
abbrev Memory.wf (mem : List Host.Cell) : Prop := Map.wf Memory.blank mem = true

/-- `n` bytes from address `a` up. -/
def Memory.readBytes (mem : List Host.Cell) (a : Nat) : Nat → List Byte
  | 0 => []
  | n + 1 => Memory.read mem a :: Memory.readBytes mem (a + 1) n

/-- Store bytes from address `a` up. -/
def Memory.writeBytes (mem : List Host.Cell) (a : Nat) : List Byte → List Host.Cell
  | [] => mem
  | b :: bs => Memory.writeBytes (Memory.write mem a b) (a + 1) bs

/-- Store each (address, byte) pair in order. -/
def Memory.writeCells (mem : List Host.Cell) : List Host.Cell → List Host.Cell
  | [] => mem
  | (a, b) :: cs => Memory.writeCells (Memory.write mem a b) cs

/-- The little-endian value of bytes (R5). -/
def leNat : List Byte → Nat
  | [] => 0
  | b :: bs => b.toNat + 256 * leNat bs

/-- The `n` low bytes of a value, little-endian (R5). -/
def leBytes : Nat → Nat → List Byte
  | 0, _ => []
  | n + 1, v => BitVec.ofNat 8 v :: leBytes n (v / 256)

/-- Pair bytes with addresses from `a` up. -/
def cellsAt (a : Nat) : List Byte → List Host.Cell
  | [] => []
  | b :: bs => (a, b) :: cellsAt (a + 1) bs

/-- Whole bytes to write from `a` up. -/
def mcellsAt (a : Nat) (bs : List Byte) : List MCell := (cellsAt a bs).map (fun c => (c.1, BitVec.allOnes 8, c.2))

/-- A byte with the masked bits replaced. -/
def mergeByte (old m v : Byte) : Byte := (old &&& ~~~m) ||| (v &&& m)

/-- Write masked bytes. -/
def Memory.writeMasked (mem : List Host.Cell) : List MCell → List Host.Cell
  | [] => mem
  | (a, m, v) :: cs => Memory.writeMasked (Memory.write mem a (mergeByte (Memory.read mem a) m v)) cs

/-- The doubleword at an address. -/
def Memory.read64 (mem : List Host.Cell) (a : Nat) : W64 := BitVec.ofNat 64 (leNat (Memory.readBytes mem a 8))

/-- Store a doubleword. -/
def Memory.write64 (mem : List Host.Cell) (a : Nat) (v : W64) : List Host.Cell :=
  Memory.writeBytes mem a (leBytes 8 v.toNat)

/-- `n` doublewords from an address up. -/
def Memory.readWords (mem : List Host.Cell) (a : Nat) : Nat → List W64
  | 0 => []
  | n + 1 => Memory.read64 mem a :: Memory.readWords mem (a + 8) n

/-- Bits hi:lo of a natural number. -/
def nbits (v hi lo : Nat) : Nat := (v / 2 ^ lo) % 2 ^ (hi + 1 - lo)

/-- Bit `i` of a doubleword. -/
def bit (v : W64) (i : Nat) : Bool := v.getLsbD i

/-- Bits hi:lo of a doubleword, as a number. -/
def fld (v : W64) (hi lo : Nat) : Nat := nbits v.toNat hi lo

/-- A doubleword with bits hi:lo replaced. -/
def setFld (v : W64) (hi lo x : Nat) : W64 :=
  BitVec.ofNat 64 (v.toNat - fld v hi lo * 2 ^ lo + (x % 2 ^ (hi + 1 - lo)) * 2 ^ lo)

/-- The value of `n` low bits as a signed integer (R274: sext). -/
def sextInt (v n : Nat) : Int :=
  let w := v % 2 ^ n
  if w < 2 ^ (n - 1) then (w : Int) else (w : Int) - (2 ^ n : Nat)

/-- The signed value of the `n` low bits, as a doubleword. -/
def sext64 (v n : Nat) : W64 := BitVec.ofInt 64 (sextInt v n)

/-- A doubleword of a Boolean. -/
def w64 (b : Bool) : W64 := if b then 1 else 0

/-- The numbers lo, lo + 1, … (n of them). -/
def countFrom (lo : Nat) : Nat → List Nat
  | 0 => []
  | n + 1 => lo :: countFrom (lo + 1) n

/-- Remove repeats, keeping first occurrences. -/
def dedup {α : Type} [DecidableEq α] : List α → List α
  | [] => []
  | a :: as => a :: (dedup as).filter (· ≠ a)

/-- Remove the entry at an index. -/
def dropAt {α : Type} : List α → Nat → List α
  | [], _ => []
  | _ :: as, 0 => as
  | a :: as, n + 1 => a :: dropAt as n

/-- Replace the entry at an index. -/
def setAt {α : Type} : List α → Nat → α → List α
  | [], _, _ => []
  | _ :: as, 0, b => b :: as
  | a :: as, n + 1, b => a :: setAt as n b

end Sys2Proof.Machine
end

