-- ==== Sys2Proof/Machine/Ops.lean ====
section
/-! DEFINITION. The named operations over the machine's state: registers, contexts, cells and cores, places of
memory, signatures, squash and commit, taking a trap and the boundaries between chunks. -/
namespace Sys2Proof.Machine

/-- What exec and step answer. -/
abbrev Ans := Host.Outcome State Fault Refusal

/-! ## Registers (15: R271; 02: R33) -/

/-- Scalar register `r`: x0 is zero, x16 up are the window at the frame depth. -/
def Arch.getX (a : Arch) (r : Nat) : W64 :=
  if r = 0 then 0 else if r < 16 then Map.get 0 a.x r else Map.get 0 a.win (8 * a.depth + (r - 16))

/-- Write scalar register `r`; a write to x0 is discarded. -/
def Arch.setX (a : Arch) (r : Nat) (v : W64) : Arch :=
  if r = 0 then a
  else if r < 16 then { a with x := Map.set 0 a.x r v }
  else { a with win := Map.set 0 a.win (8 * a.depth + (r - 16)) v }

/-- Vector register. -/
def Arch.getV (a : Arch) (r : Nat) : V512 := Map.get 0 a.v r
/-- Write a vector register. -/
def Arch.setV (a : Arch) (r : Nat) (v : V512) : Arch := { a with v := Map.set 0 a.v r v }
/-- Mask register; m0 reads all ones. -/
def Arch.getM (a : Arch) (r : Nat) : W64 := if r = 0 then BitVec.allOnes 64 else Map.get 0 a.m r
/-- Write a mask register; a write to m0 is discarded. -/
def Arch.setM (a : Arch) (r : Nat) (v : W64) : Arch := if r = 0 then a else { a with m := Map.set 0 a.m r v }

/-- Change the issuing context. -/
def State.updTh (s : State) (f : Thread → Thread) : State := { s with th := f s.th }
/-- Change the issuing context's restorable part. -/
def State.updArch (s : State) (f : Arch → Arch) : State := { s with th := { s.th with arch := f s.th.arch } }
/-- Change the issuing context's chunk. -/
def State.updChunk (s : State) (f : Chunk → Chunk) : State := { s with th := { s.th with chunk := f s.th.chunk } }

/-- x[r] of the issuing thread. -/
def State.x (s : State) (r : Reg) : W64 := s.th.arch.getX r.toNat
/-- v[r] of the issuing thread. -/
def State.v (s : State) (r : Reg) : V512 := s.th.arch.getV r.toNat
/-- m[r] of the issuing thread. -/
def State.m (s : State) (r : MaskReg) : W64 := s.th.arch.getM r.toNat

/-- x[r] := v, noting a written window frame (R34). -/
def State.setX (s : State) (r : Reg) (v : W64) : State :=
  { s with th := { s.th with
      arch := s.th.arch.setX r.toNat v
      chunk := if r.toNat < 16 then s.th.chunk else
        { s.th.chunk with framesW := (s.th.arch.depth + (r.toNat - 16) / 8) :: s.th.chunk.framesW } } }
/-- v[r] := v. -/
def State.setV (s : State) (r : Reg) (v : V512) : State := s.updArch (·.setV r.toNat v)
/-- m[r] := v. -/
def State.setM (s : State) (r : MaskReg) (v : W64) : State := s.updArch (·.setM r.toNat v)

/-! ## Status fields of a thread -/

/-- A handler runs: TRAPCAUSE.INH (05: R96). -/
def Thread.inh (t : Thread) : Bool := bit t.trapcause 63
/-- ASYNCERR.PEND (R99). -/
def Thread.pendErr (t : Thread) : Bool := bit t.asyncerr 63
/-- A DEFERRED trap is due (R101). -/
def Thread.deferredDue (t : Thread) : Bool := t.pendErr && !t.inh
/-- A REPEAT body is in progress (R36). -/
def Thread.act (t : Thread) : Bool := bit t.arch.repcnt 63
/-- The body rules of R36 apply: ACT = 1 outside a handler (R97). -/
def Thread.inBody (t : Thread) : Bool := t.act && !t.inh
/-- CHUNKCFG as it reads (R38). -/
def Thread.chunkcfg (t : Thread) : W64 :=
  BitVec.ofNat 64 ((if t.prio then 65536 else 0) + t.sqcnt * 4096 + t.curlog * 256 + t.limlog)
/-- The issuer is a thread of a gang (R270), not of the service column. -/
def State.user (s : State) : Bool := s.th.gang.isSome

/-! ## Contexts -/

/-- Every context. -/
def State.allThreads (s : State) : List Thread := s.th :: s.threads
/-- The context with an identifier. -/
def State.findTid (s : State) (tid : Nat) : Option Thread := s.allThreads.find? (fun t => t.tid == tid)
/-- Change every context. -/
def State.mapThreads (s : State) (f : Thread → Thread) : State := { s with th := f s.th, threads := s.threads.map f }
/-- Change the context with an identifier. -/
def State.updTid (s : State) (tid : Nat) (f : Thread → Thread) : State :=
  s.mapThreads (fun t => if t.tid = tid then f t else t)

/-- Put `u` where the first context with identifier `tid` stands. -/
def replaceTid (tid : Nat) (u : Thread) : List Thread → List Thread
  | [] => []
  | t :: ts => if t.tid = tid then u :: ts else t :: replaceTid tid u ts

/-- Make another context the issuing one. -/
def State.focus (s : State) (tid : Nat) : Option State :=
  if s.th.tid = tid then some s
  else match s.threads.find? (fun t => t.tid == tid) with
    | none => none
    | some t => some { s with th := t, threads := replaceTid tid s.th s.threads }

/-- Do something as a context, then give the turn back. -/
def State.onThread (s : State) (tid : Nat) (f : State → State) : State :=
  match s.focus tid with
  | none => s
  | some s1 =>
    let s2 := f s1
    match s2.focus s.th.tid with
    | none => s2
    | some s3 => s3

/-! ## Cores, cells, gangs -/

/-- A core by number (01: R13). -/
def State.core (s : State) (c : Nat) : Core := Map.get Core.reset s.cores c
/-- Change a core. -/
def State.updCore (s : State) (c : Nat) (f : Core → Core) : State := { s with cores := Map.upd Core.reset s.cores c f }
/-- Change a core's debug window. -/
def State.updDbg (s : State) (c : Nat) (f : Debug → Debug) : State :=
  s.updCore c (fun k => { k with dbg := f k.dbg })
/-- A cell by number (R12). -/
def State.cell (s : State) (c : Nat) : Cell := Map.get Cell.reset s.cells c
/-- Change a cell. -/
def State.updCell (s : State) (c : Nat) (f : Cell → Cell) : State := { s with cells := Map.upd Cell.reset s.cells c f }
/-- A gang by GANGID. -/
def State.findGang (s : State) (g : Nat) : Option Gang := s.gangs.find? (fun k => k.ident == g)
/-- Change a gang. -/
def State.updGang (s : State) (g : Nat) (f : Gang → Gang) : State :=
  { s with gangs := s.gangs.map (fun k => if k.ident = g then f k else k) }
/-- The issuing thread's gang. -/
def State.myGang (s : State) : Option Gang := s.th.gang.bind s.findGang
/-- Change the issuing thread's gang. -/
def State.updMyGang (s : State) (f : Gang → Gang) : State :=
  match s.th.gang with
  | none => s
  | some g => s.updGang g f
/-- The issuing thread's gang has been ended (R98). -/
def State.gangEnded (s : State) : Bool := match s.myGang with | none => false | some g => g.ended

/-- The cell of a core. -/
def cellOf (core : Nat) : Nat := core / 2
/-- Column of a cell (R12). -/
def cellX (cell : Nat) : Nat := cell % 64
/-- Row of a cell. -/
def cellY (cell : Nat) : Nat := cell / 64
/-- Die of a cell. -/
def dieOf (cell : Nat) : Nat := cellY cell / 8 * 8 + cellX cell / 8
/-- Module-wide cluster number of a cell: die × 8 + cluster index. -/
def clusterOf (cell : Nat) : Nat := dieOf cell * 8 + cellY cell % 8
/-- The cell belongs to the service column (R14). -/
def State.inColumn (s : State) (cell : Nat) : Bool :=
  decide (cellX cell < s.service.columnWidth) && decide (cellY cell < 8)
/-- The issuing thread's cell. -/
def State.myCell (s : State) : Nat := cellOf s.th.core

/-! ## Places of memory -/

/-- Chunk-buffer key of a host address on a port. -/
def hostKey (port a : Nat) : Nat := 2 ^ 60 + port * 2 ^ 61 + a
/-- The key names host memory. -/
def isHostKey (k : Nat) : Bool := decide (2 ^ 60 ≤ k)
/-- Port of a host key. -/
def keyPort (k : Nat) : Nat := (k - 2 ^ 60) / 2 ^ 61
/-- Address of a host key. -/
def keyAddr (k : Nat) : Nat := (k - 2 ^ 60) % 2 ^ 61
/-- Key of another module's byte in `farMem`. -/
def farKey (home : BitVec 16) (pa : Nat) : Nat := home.toNat * 2 ^ 44 + pa

/-- A host port. -/
def State.host (s : State) (p : Nat) : HostPort := Map.get HostPort.reset s.hosts p
/-- Change a host port. -/
def State.updHost (s : State) (p : Nat) (f : HostPort → HostPort) : State :=
  { s with hosts := Map.upd HostPort.reset s.hosts p f }

/-- The committed byte at a key: of this module's memory, or of a host's. -/
def State.byteAt (s : State) (k : Nat) : Byte :=
  if isHostKey k then Memory.read (s.host (keyPort k)).mem (keyAddr k) else Memory.read s.mem k

/-- Committed bytes at keys from `k` up. -/
def State.bytesAt (s : State) (k n : Nat) : List Byte := (countFrom k n).map s.byteAt

/-- Write the masked bits of one committed byte at a key. -/
def State.putByte (s : State) (c : MCell) : State :=
  let b := mergeByte (s.byteAt c.1) c.2.1 c.2.2
  if isHostKey c.1 then s.updHost (keyPort c.1) (fun h => { h with mem := Memory.write h.mem (keyAddr c.1) b })
  else { s with mem := Memory.write s.mem c.1 b }

/-- Write committed bytes. -/
def State.putCells (s : State) (cs : List MCell) : State := cs.foldl State.putByte s

/-- The virtual tag of a line: the address-space identifier over bits 56:6 of its virtual address (04: R66). -/
def vtag (asid : BitVec 16) (va : Nat) : Nat := asid.toNat * 2 ^ 51 + va / 64
/-- The virtual address of the line that a tag names. -/
def tagVa (tag : Nat) : Nat := 64 * (tag % 2 ^ 51)
/-- The address-space identifier of a tag. -/
def tagAsid (tag : Nat) : BitVec 16 := BitVec.ofNat 16 (tag / 2 ^ 51)

/-- h(off) of 04: R75. -/
def foldOff (off : Nat) : Nat :=
  Nat.xor (Nat.xor (nbits off 14 10) (nbits off 19 15)) (Nat.xor (nbits off 24 20) (nbits off 29 25))
/-- Home die of a local physical address (R75). -/
def State.homeDie (s : State) (pa : Nat) : Nat :=
  let d := pa / Config.dieWindow
  let off := pa % Config.dieWindow
  if off < s.service.ibnd then Nat.xor d (foldOff off) else d
/-- Home slice of a line within its die (R75). -/
def sliceOf (pa : Nat) : Nat := Nat.xor (nbits pa 9 6) (nbits pa 13 10)
/-- Home die of a chunk-buffer key: of a host line, h(off) with d = 0 (12: R221). -/
def State.keyDie (s : State) (k : Nat) : Nat := if isHostKey k then foldOff (keyAddr k) else s.homeDie k
/-- Module-wide cluster of the home slice of a key. -/
def State.keyCluster (s : State) (k : Nat) : Nat := s.keyDie k * 8 + sliceOf (if isHostKey k then keyAddr k else k) / 2
/-- 2 MiB region of a local physical address (04: R77). -/
def regionOf (pa : Nat) : Nat := pa / 2097152
/-- The tracking line of a cell's stash map table (R72). -/
def mapLine (cell : Nat) : Nat := 0x080000010000 + 64 * cell
/-- The tracking line of a cell's ring `q` (07: R127). -/
def ringLine (cell q : Nat) : Nat := 0x080000200000 + 64 * (16 * cell + q)

/-! ## Signatures (02: R39) -/

/-- The multipliers c[0] to c[3]. -/
def sigMul : List Nat := [0x9E3779B97F4A7C15, 0xC2B2AE3D27D4EB4F, 0x165667B19E3779F9, 0x27D4EB2F165667C5]

/-- The four bits a line enters, as a number. -/
def lineBits (key : Nat) : Nat :=
  let l := nbits key 43 6
  (sigMul.zipIdx).foldl (fun acc p => acc + 2 ^ (512 * p.2 + nbits (l * p.1 % 2 ^ 64) 63 55)) 0

/-- Enter the line that holds `key`. -/
def Sig.enter (g : Sig) (key : Nat) : Sig := g ||| BitVec.ofNat 2048 (lineBits key)
/-- The signature holds the line. -/
def Sig.holds (g : Sig) (key : Nat) : Bool :=
  (g &&& BitVec.ofNat 2048 (lineBits key)) == BitVec.ofNat 2048 (lineBits key)
/-- Two signatures intersect. -/
def Sig.meets (g h : Sig) : Bool := (g &&& h) != 0

/-- One round of the bit count: add neighbouring counters of width 2^k. -/
def countRound (v k : Nat) : Nat :=
  let mask := (2 ^ 2048 - 1) / (2 ^ (2 ^ k) + 1)
  Nat.land v mask + Nat.land (v / 2 ^ (2 ^ k)) mask
/-- Bits set in a signature. -/
def Sig.count (g : Sig) : Nat := [0, 1, 2, 3, 4, 5, 6, 7, 8, 9, 10].foldl countRound g.toNat
/-- A saturated signature. -/
def Sig.saturated (g : Sig) : Bool := decide (Config.sigLimit ≤ g.count)
/-- Enter several lines. -/
def Sig.enterAll (g : Sig) (keys : List Nat) : Sig := keys.foldl Sig.enter g

/-- The line number of a key. -/
def lineOf (k : Nat) : Nat := k / 64
/-- Line numbers that keys lie in, without repeats. -/
def linesOf (ks : List Nat) : List Nat := dedup (ks.map lineOf)
/-- Lines of `n` bytes from `k` up. -/
def linesAt (k n : Nat) : List Nat := linesOf (countFrom k n)

/-! ## The firewall (13: R225, R226) -/

/-- Bit of an initiator class in a rule (R226). -/
def initBit (i : Initiator) : Nat :=
  match i with | .rootMonitor => 120 | .userCore => 121 | .serviceColumn => 122 | .host => 123 | .wounoLink => 124

/-- A rule permits an access (R226). -/
def FwRule.permits (r : FwRule) (i : Initiator) (pa : Nat) (write : Bool) : Bool :=
  bit r.hi 63 && bit r.hi (initBit i - 64) && (if write then bit r.hi 62 else bit r.hi 61) &&
  decide (fld r.lo 31 0 ≤ pa / 4096) && decide (pa / 4096 ≤ fld r.hi 31 0)

/-- The firewall permits an access of the on-package network; the security core is never checked (R226), and alone writes a page that
holds page tables (R225). -/
def State.permits (s : State) (i : Initiator) (pa : Nat) (write : Bool) : Bool :=
  i == .rootMonitor || (s.service.firewall.any (fun p => p.2.permits i pa write) && !(write && s.service.tables.contains (pa / 65536)))

/-- Log a refused access's address (R24, R225, R226). -/
def State.logAddr (s : State) (pa : Nat) : State :=
  { s with service := { s.service with errlog := s.service.errlog ++ [pa] } }

/-- The initiator class of a core's threads (R226). -/
def State.coreInit (s : State) (core : Nat) : Initiator :=
  if s.inColumn (cellOf core) then .serviceColumn else .userCore

/-- Log the first address of `n` bytes that the firewall denies an initiator (R226). -/
def State.logDenied (s : State) (i : Initiator) (pa n : Nat) (write : Bool) : State :=
  if !s.permits i pa write then s.logAddr pa else if !s.permits i (pa + (n - 1)) write then s.logAddr (pa + (n - 1)) else s

/-- Written bytes that the firewall lets an initiator write, the addresses of the other lines being logged (R226; assumption 64). -/
def State.allowed (s : State) (i : Initiator) (cs : List MCell) : State × List MCell :=
  let bad := (linesOf (cs.map (·.1))).filter (fun l => !isHostKey (64 * l) && !s.permits i (64 * l) true)
  (bad.foldl (fun k l => k.logAddr (64 * l)) s, cs.filter (fun c => !bad.contains (lineOf c.1)))

/-! ## Counters and trace (14: R251 to R255) -/

/-- Saturating 64-bit addition. -/
def satAdd (a : W64) (n : Nat) : W64 := if 2 ^ 64 ≤ a.toNat + n then BitVec.allOnes 64 else BitVec.ofNat 64 (a.toNat + n)

/-- Count an event in the current set of a core's counters (R253). -/
def Debug.countEvent (d : Debug) (ev n : Nat) : Debug :=
  if bit d.pmctl 63 then
    let word := Map.get 0 d.evsel d.curSet
    let bump := fun (m : Map W64) (k : Nat) =>
      if nbits word.toNat (8 * k + 7) (8 * k) = ev then Map.upd 0 m (8 * d.curSet + k) (fun v => satAdd v n) else m
    { d with count := (countFrom 0 8).foldl bump d.count }
  else d

/-- Count `n` events of a code on a core (R254). -/
def State.perf (s : State) (core ev n : Nat) : State :=
  if bit (s.core core).dbg.pmctl 63 then s.updDbg core (·.countEvent ev n) else s

/-- Count a cell event on both cores (R254). -/
def State.perfCell (s : State) (cell ev n : Nat) : State := (s.perf (2 * cell) ev n).perf (2 * cell + 1) ev n

/-- The slot of a thread as a number, 0 for a queued one. -/
def Thread.slotNo (t : Thread) : Nat := t.slot.getD 0

/-- The issuing thread's slot is traced (R251). -/
def State.traced (s : State) : Bool :=
  let d := (s.core s.th.core).dbg
  bit d.trctl 63 && bit d.trctl s.th.slotNo && s.th.slot.isSome

/-- Bytes of the trace buffer (R251). -/
def traceSize (trctl : W64) : Nat := 2 ^ (12 + fld trctl 23 20)

/-- Write one trace doubleword to the buffer (R251): at its beginning again when its end is reached under WRAP. A write that the firewall denies, or
that would change a page table, is dropped, counted as lost, and logged (13: R225, R226; assumption 75). -/
def State.traceWord (s : State) (core : Nat) (w : W64) : State :=
  let d := (s.core core).dbg
  let size := traceSize d.trctl
  let wrap := bit d.trctl 62
  let at_ := if wrap && decide (size < d.trptr + 8) then 0 else d.trptr
  let pa := fld d.trbase 43 12 * 4096 + at_
  let lost := fun (k : State) => k.updDbg core (fun k => { k with trlost := satAdd k.trlost 1 })
  if size < at_ + 8 then lost s
  else if !s.permits (s.coreInit core) pa true then lost (s.logAddr pa)
  else State.updDbg { s with mem := Memory.write64 s.mem pa w } core (fun k => { k with trptr := if wrap then (at_ + 8) % size else at_ + 8 })

/-- The voltage-frequency island of a core (01: R21). -/
def islandOf (core : Nat) : Nat := 2 * dieOf (cellOf core) + (if cellY (cellOf core) % 8 < 4 then 0 else 1)
/-- Cycles of a core's island since module reset (15: R269). -/
def State.cyclesOf (s : State) (core : Nat) : Nat := Map.get 0 s.islandTicks (islandOf core) / 16000

/-- The cell at a place of the grid. -/
def cellNo (x y : Nat) : Nat := 64 * y + x

/-- The cell of cell order `o` in a rectangle: row-major, or column-major with `ord` (09: R162). -/
def rectCell (ox oy wd ht : Nat) (ord : Bool) (o : Nat) : Nat :=
  if ord then cellNo (ox + o / ht) (oy + o % ht) else cellNo (ox + o % wd) (oy + o / wd)

/-- A gang's cells in cell order. -/
def Gang.cells (g : Gang) : List Nat := (countFrom 0 (g.wd * g.ht)).map (rectCell g.ox g.oy g.wd g.ht g.launch.ord)

/-- The times an island's resident threads await in WAITT, and its gangs at START. -/
def State.awaited (s : State) (island : Nat) : List Nat :=
  (s.allThreads.filterMap (fun t => match t.wait with
    | .time v => if t.st = .parked ∧ t.slot.isSome = true ∧ islandOf t.core = island then some v.toNat else none
    | _ => none)) ++
  (s.gangs.filterMap (fun g =>
    if g.placed && !g.released && g.cells.any (fun c => islandOf (2 * c) == island) then some g.launch.start.toNat else none))
/-- An awaited time from 2 µs before until 1 µs after which an island is (14: R259). -/
def State.nearTime (s : State) (island : Nat) : Option Nat :=
  let now := s.time.now.toNat
  (s.awaited island).find? (fun v => decide (v ≤ now + 2 * Config.usUnits) && decide (now ≤ v + Config.usUnits))
/-- The island runs at full speed until 1 µs after the time `v`, though the wait for it ends before (14: R259). -/
def State.keepFull (s : State) (island v : Nat) : State :=
  { s with service := { s.service with fullSpeed := Map.set 0 s.service.fullSpeed island (v + Config.usUnits) } }
/-- The island is inside the window of an awaited time (14: R259). -/
def State.atFull (s : State) (island : Nat) : Bool :=
  decide (s.time.now.toNat < Map.get 0 s.service.fullSpeed island) || (s.nearTime island).isSome

/-- Frequency of an island in MHz (01: R21; 14: R259). -/
def State.mhz (s : State) (island : Nat) : Nat :=
  if s.atFull island then 1700 else Map.get 1700 s.service.islands island

/-- Write a record, a TIME record before it when one is due (R251, R252). -/
def State.traceRec (s : State) (core : Nat) (w : W64) : State :=
  let k := s.core core
  let s1 := if 2 ^ (10 + fld k.dbg.trctl 27 24) ≤ s.cyclesOf core - k.dbg.trLastTime then
      (s.traceWord core (BitVec.ofNat 64 (5 * 2 ^ 60 + fld s.time.now 63 4))).updDbg core
        (fun d => { d with trLastTime := s.cyclesOf core })
    else s
  s1.traceWord core w

/-- A record's first fields: KIND and slot (R252). -/
def recHead (kind slot : Nat) : Nat := kind * 2 ^ 60 + slot * 2 ^ 56

/-- Hold a BRANCH outcome in the chunk: a record takes up to 50 (R252). -/
def traceBranch (slot : Nat) (taken : Bool) (tr : List W64) : List W64 :=
  match tr.reverse with
  | w :: ws =>
    if fld w 63 60 = 1 ∧ fld w 55 50 < 50 then
      ((BitVec.ofNat 64 (w.toNat + 2 ^ 50 + (if taken then 2 ^ fld w 55 50 else 0))) :: ws).reverse
    else tr ++ [BitVec.ofNat 64 (recHead 1 slot + 2 ^ 50 + (if taken then 1 else 0))]
  | [] => [BitVec.ofNat 64 (recHead 1 slot + 2 ^ 50 + (if taken then 1 else 0))]

/-- Hold a conditional branch's outcome while the slot is traced. -/
def State.noteBranch (s : State) (taken : Bool) : State :=
  if s.traced then s.updChunk (fun c => { c with trace := traceBranch s.th.slotNo taken c.trace }) else s

/-- A TARGET record (R252). -/
def targetRec (slot : Nat) (trapBit : Bool) (pc : W64) : W64 :=
  BitVec.ofNat 64 (recHead 2 slot + (if trapBit then 2 ^ 55 else 0) + fld pc 56 2)

/-- Hold a TARGET record in the chunk while the slot is traced. -/
def State.noteTarget (s : State) (pc : W64) : State :=
  if s.traced then s.updChunk (fun c => { c with trace := c.trace ++ [targetRec s.th.slotNo false pc] }) else s

/-- Write a TARGET record with TRAP set at once: vectoring and TRAPRET lie at boundaries. -/
def State.noteVector (s : State) (pc : W64) : State :=
  if s.traced then s.traceRec s.th.core (targetRec s.th.slotNo true pc) else s

/-! ## Waking threads (02: R26, R32; 14: R245) -/

/-- What a wake does to a context. -/
def Thread.awake (t : Thread) : Thread :=
  { t with st := .runnable, woken := true, swapBarred := false, waitEntry := false }

/-- Wake a parked or faulted thread; a message to a context of a halted core waits in the core's queue (R245). -/
def State.wake (s : State) (tid : Nat) (message : Bool) : State :=
  match s.findTid tid with
  | none => s
  | some t =>
    if t.st ≠ .parked ∧ t.st ≠ .faultWait then s
    else if message && (s.core t.core).dbg.halt then
      -- a thread whose wake is queued already is sent no second one
      s.updDbg t.core (fun d => { d with msgs := if d.msgs.contains tid then d.msgs else d.msgs ++ [tid] })
    else s.updTid tid Thread.awake

/-- Wake every context that meets a test. -/
def State.wakeIf (s : State) (p : Thread → Bool) (message : Bool) : State :=
  (s.allThreads.filter p).foldl (fun k t => k.wake t.tid message) s

/-- The comparison of WAITW (09: R175). -/
def waitHolds (cmp : BitVec 2) (c w : W64) : Bool :=
  if cmp = 0#2 then w == c else if cmp = 1#2 then w != c else if cmp = 2#2 then decide (c.toNat ≤ w.toNat) else (w &&& c) != 0

/-- A word at a place: this module's, by its local address or its identifier, or another's. -/
def State.readWord (s : State) (l : Loc) : W64 :=
  match l.home with
  | none => BitVec.ofNat 64 (leNat (s.bytesAt l.pa 8))
  | some h => if h = s.moduleId then BitVec.ofNat 64 (leNat (s.bytesAt l.pa 8)) else Memory.read64 s.farMem (farKey h l.pa)

/-- The context's wait on a memory word is satisfied. -/
def State.wordReady (s : State) (t : Thread) : Bool :=
  match t.wait with
  | .word l cmp c => waitHolds cmp c (s.readWord l)
  | .timeline l v => decide (v.toNat ≤ (s.readWord l).toNat)
  | _ => false

/-- The line a context waits on holds a wait-list entry and is among `lines`. -/
def Thread.watches (t : Thread) (lines : List Nat) : Bool :=
  t.st == .parked && t.waitEntry &&
  match t.wait with
  | .word l _ _ => l.home.isNone && lines.contains (lineOf l.pa)
  | .timeline l _ => l.home.isNone && lines.contains (lineOf l.pa)
  | _ => false

/-! ## Squash (02: R43, R44) -/

/-- One step of escalation (R44). -/
def Thread.escalate (t : Thread) : Thread :=
  if t.sqcnt < 2 then { t with sqcnt := t.sqcnt + 1 }
  else if t.curlog ≤ 1 then { t with sqcnt := 0, curlog := 0, prio := true }
  else { t with sqcnt := 0, curlog := t.curlog - 1 }

/-- Discard the open chunk of a context and restore its registers (R43). A run of soft-error squashes ends (14: R257). SQUASHES saturates at 64 bits, and CHUNKS wraps (assumption 74: the spec
says neither). -/
def Thread.squash (t : Thread) : Thread :=
  { t.escalate with
    arch := t.chunk.start
    chunk := Chunk.reset
    after := .reissue
    pend := .none
    replies := []
    replyBad := false
    replyPoison := false
    got := []
    issued := false
    softSquashes := 0
    st := .runnable
    squashes := satAdd t.squashes 1 }

/-- A squash record (14: R252). -/
def squashRec (t : Thread) (cause : Nat) : W64 :=
  BitVec.ofNat 64 (recHead 4 t.slotNo + cause * 2 ^ 54 + (t.chunk.icount % 2 ^ 14) * 2 ^ 40 + fld t.chunks 39 0)

/-- Threads of a core that wait for an uncommitted line of a full set issue their stores again (04: R68). -/
def State.wakeSet (s : State) (core : Nat) : State :=
  s.mapThreads (fun t => if t.core = core ∧ t.st = .dataWait ∧ t.pend = .set then { t with st := .runnable, pend := .none } else t)

/-- Squash one context, counting and tracing it; cause 0 conflict, 1 host snoop, 2 soft error. -/
def State.squashTid (s : State) (tid cause : Nat) : State :=
  match s.findTid tid with
  | none => s
  | some t =>
    let d := (s.core t.core).dbg
    let s1 := (s.updTid tid Thread.squash).wakeSet t.core
    let s2 := s1.perf t.core (0x09 + cause) 1
    let u := t.squash
    let s3 := if u.curlog < t.curlog then s2.perf t.core 0x0C 1 else s2
    let s4 := if u.prio && !s3.tokenQueue.contains tid then { s3 with tokenQueue := s3.tokenQueue ++ [tid] } else s3
    if bit d.trctl 63 && bit d.trctl t.slotNo && t.slot.isSome then s4.traceRec t.core (squashRec t cause) else s4

/-- The context has an uncommitted chunk (R41: OPEN or REQUESTING). -/
def Thread.uncommitted (t : Thread) : Bool := t.chunk.isOpen && t.st != .committing

/-- A core holds a line: in its data cache, its cell's stash, or an uncommitted chunk's signature (R39, R42). -/
def State.holdsLine (s : State) (core line : Nat) : Bool :=
  (s.core core).dcache.any (fun h => h.line == line) || (s.cell (cellOf core)).stash.any (fun h => h.line == line) ||
  s.allThreads.any (fun t => t.core == core && t.uncommitted && (Sig.holds t.chunk.rsig (64 * line) || Sig.holds t.chunk.wsig (64 * line)))

/-- A write signature and its lines hit a context's uncommitted chunk (R42 step 3). -/
def State.hits (s : State) (g : Sig) (lines : List Nat) (t : Thread) : Bool :=
  t.uncommitted && (Sig.meets t.chunk.rsig g || Sig.meets t.chunk.wsig g) && lines.any (s.holdsLine t.core)

/-- Squash every hit chunk but the writer's. -/
def State.squashHits (s : State) (g : Sig) (lines : List Nat) (writer : Option Nat) : State :=
  (s.allThreads.filter (fun t => writer != some t.tid && s.hits g lines t)).foldl (fun k t => k.squashTid t.tid 0) s

/-! ## Committed writes (R42 steps 4 and 5, R51) -/

/-- Add to a 48-bit saturating counter (04: R79). -/
def sat48 (a n : Nat) : Nat := if 2 ^ 48 ≤ a + n then 2 ^ 48 - 1 else a + n

/-- Invalidate every moon of a line that is written (R42 step 4; 04: R78, R79). -/
def State.collapse (s : State) (line : Nat) : State :=
  if s.moons.any (fun p => p.1 == line) then
    { s with
      regions := Map.upd Region.reset s.regions (regionOf (64 * line)) (fun g => { g with c := g.c + 1, collapses := sat48 g.collapses 1 })
      moons := s.moons.filter (fun p => p.1 != line) }
  else s

/-- An engine commit or a chunk commit names a line of this module: its collapse, and the region's counts (R78, R79). -/
def State.countWrite (s : State) (line : Nat) : State :=
  if isHostKey (64 * line) then s
  else
    let s0 := s.collapse line
    { s0 with regions := Map.upd Region.reset s0.regions (regionOf (64 * line)) (fun g => { g with w := g.w + 1 }) }

/-- A committed write of one line: the region's counts, its collapse, its subscribers' push (R78, R79, R83). -/
def State.noteWrite (s : State) (line : Nat) : State :=
  if isHostKey (64 * line) then s
  else
    let r := regionOf (64 * line)
    let s1 := s.countWrite line
    if s1.subscribers.any (fun p => p.1 == r) then
      let push : Push := { line := line, pos := s1.position, value := BitVec.ofNat 512 (leNat (s1.bytesAt (64 * line) 64)),
                           dests := (s1.subscribers.filter (fun p => p.1 == r)).map (·.2) }
      { s1 with fabric := { s1.fabric with pushes := s1.fabric.pushes ++ [push] } }
    else s1

/-- Change every value of a table. -/
def Map.mapAll {β : Type} [DecidableEq β] (d : β) (f : β → β) : List (Nat × β) → List (Nat × β)
  | [] => []
  | (k, v) :: rest => if f v = d then Map.mapAll d f rest else (k, f v) :: Map.mapAll d f rest

/-- Change every value of a table by its key. -/
def Map.mapKeys {β : Type} [DecidableEq β] (d : β) (f : Nat → β → β) : List (Nat × β) → List (Nat × β)
  | [] => []
  | (k, v) :: rest => if f k v = d then Map.mapKeys d f rest else (k, f k v) :: Map.mapKeys d f rest

/-- Invalidate the committed copies of written lines in every data cache and stash (R42, R74); the writer's own are put back at its
commit. -/
def State.dropCopies (s : State) (lines : List Nat) : State :=
  { s with
    cores := Map.mapAll Core.reset (fun c => { c with
      dcache := c.dcache.filter (fun h => !lines.contains h.line), dirty := c.dirty.filter (fun l => !lines.contains l) }) s.cores
    cells := Map.mapAll Cell.reset (fun c => { c with
      stash := c.stash.filter (fun h => !lines.contains h.line), stashDirty := c.stashDirty.filter (fun l => !lines.contains l) }) s.cells }

/-- The line is written whole: the poison mark clears (14: R258). -/
def fullyWritten (cs : List MCell) (line : Nat) : Bool :=
  (countFrom (64 * line) 64).all (fun a => cs.any (fun c => c.1 == a && c.2.1 == BitVec.allOnes 8))

/-- A host holds the line of this module's HBM (12: R221). -/
def State.hostHolds (s : State) (line : Nat) : Bool := s.hostLines.any (fun p => p.2 == line)

/-- Back-invalidate snoops take lines from the hosts that hold them (12: R221). -/
def State.unhold (s : State) (lines : List Nat) : State := { s with hostLines := s.hostLines.filter (fun p => !lines.contains p.2) }

/-- The L2 holds the host lines among some lines in a MESI state (12: R221). -/
def State.setMesi (s : State) (lines : List Nat) (m : Nat) : State :=
  { s with mesi := (lines.filter (fun l => isHostKey (64 * l))).foldl (fun t l => Map.set 0 t l m) s.mesi }

/-- A line may be written at once as far as its host is concerned: it is no host line, or held in E or M (12: R222). -/
def State.ownsLine (s : State) (line : Nat) : Bool := !isHostKey (64 * line) || decide (2 ≤ Map.get 0 s.mesi line)

/-- Make bytes visible as one event of the commit order: holders, moons, subscribers, poison, waiters (R42, R49, R51, R175); the host lines
among them are then held in M (12: R221). -/
def State.makeVisible (s : State) (cs : List MCell) : State :=
  let lines := linesOf (cs.map (·.1))
  let s1 := (((s.putCells cs).dropCopies lines).unhold lines).setMesi lines 3
  let s2 := lines.foldl State.noteWrite { s1 with position := s1.position + 1 }
  let s3 := { s2 with poisoned := s2.poisoned.filter (fun l => !(lines.contains l && fullyWritten cs l)) }
  s3.wakeIf (fun t => t.watches lines && s3.wordReady t) true

/-- An engine commit (R51): squash, then make visible. -/
def State.engineCommit (s : State) (cs : List MCell) : State :=
  let lines := linesOf (cs.map (·.1))
  (s.squashHits (Sig.enterAll 0 (lines.map (64 * ·))) lines none).makeVisible cs

/-- Any of the lines is locked by a commit or publish in progress (R42 step 2, 10: R187). -/
def State.locked (s : State) (lines : List Nat) : Bool := s.locks.any (fun p => lines.contains p.1)

/-! ## Caravan records (10: R179, R185, R186) -/

/-- A record of this module's pool. -/
def State.caravan (s : State) (id : Nat) : Caravan := Map.get Caravan.reset s.caravans id
/-- Change a record. -/
def State.updCaravan (s : State) (id : Nat) (f : Caravan → Caravan) : State :=
  { s with caravans := Map.upd Caravan.reset s.caravans id f }
/-- The caravan identifier of a record: CVH bits 31:0 (R179). -/
def State.cidOf (s : State) (id : Nat) : BitVec 32 := BitVec.ofNat 32 (s.moduleId.toNat * 65536 + id)
/-- The number that stands for the CKPT role as the owner of a caravan (13: R238). -/
def ckptTid : Nat := 2 ^ 41

/-- A record is free: no caravan has it, or its caravan is DONE and the thread that owned it has exited (R179). -/
def State.cvFreed (s : State) (c : Caravan) : Bool :=
  c.st == .free || (c.st == .done && decide (c.owner < ckptTid) && !s.allThreads.any (fun t => t.tid == c.owner && t.st != .exited && t.st != .vacant))

/-- The handle is live: its record is allocated and GEN and MOD match (R179). -/
def State.liveCv (s : State) (h : W64) : Bool :=
  let c := s.caravan (fld h 15 0)
  fld h 31 16 == s.moduleId.toNat && decide (fld h 15 0 < Config.poolLimit) && !s.cvFreed c && c.gen.toNat == fld h 47 32

/-- The owner under which a caravan's lines are locked (R187). -/
def cvOwner (cid : BitVec 32) : Nat := 2 ^ 32 + cid.toNat

/-- Wake threads parked in TASKGET: items or inn bytes may have become free (R166, R194). -/
def State.wakeTasks (s : State) : State := s.wakeIf (fun t => t.st == .parked && t.wait == .task) true

/-- A destination's entry is the identifier's current one. -/
def CvDest.current (d : CvDest) (cid : BitVec 32) : Bool := d.cid == cid && !d.old

/-- The owner under which the lines of a destination's entry are locked (R187). -/
def CvDest.owner (d : CvDest) : Nat := cvOwner d.cid + (if d.old then 2 ^ 34 else 0)

/-- Discard a destination's current entries of a caravan and its locks (R185, R190). -/
def State.cvDiscard (s : State) (cid : BitVec 32) : State :=
  { s with
    cvDests := s.cvDests.map (fun d => if d.current cid then { d with inn := [], gone := true, locked := false } else d)
    locks := s.locks.filter (fun p => p.2 != cvOwner cid) }

/-- Note the decision on the caravan of an identifier and deadline for later queries; those whose in-doubt limit has passed are
dropped (R190), but for an ABORT of an unknown deadline. -/
def State.cvDecided (s : State) (cid : BitVec 32) (d : W64) (t : Option W64) : State :=
  { s with decisions := s.decisions.filter (fun e => !(e.cid == cid && e.d == d) &&
      (e.d == 0 || decide (s.time.now.toNat ≤ e.d.toNat + s.service.indoubtS * 1000 * Config.msUnits))) ++ [{ cid := cid, d := d, commit := t }] }

/-- Abort a caravan with an outcome: ABORT to every destination, local entries discarded, its CVCOMMIT woken (R185, R186). -/
def State.cvEnd (s : State) (id outcome : Nat) : State :=
  let c := s.caravan id
  let cid := s.cidOf id
  let msgs := (c.dests.filter (fun d => d.1 != s.moduleId)).map (fun d => CvMsg.abort cid d.1)
  let s1 := ((s.updCaravan id (fun c => { c with st := .done, outcome := outcome, out := [] })).cvDiscard cid).cvDecided cid c.d none
  let s2 : State := { s1 with fabric := { s1.fabric with sent := s1.fabric.sent ++ msgs } }
  (s2.wakeIf (fun t => t.tid == c.owner && t.st == .parked && t.wait == .caravan) false).wakeTasks

/-! ## Ends of gangs and threads (05: R98; 09: R166) -/

/-- A trap cause's code (R96). -/
def Cause.code : Cause → Nat
  | .illegal => 0x01 | .combo => 0x02 | .align => 0x03 | .seglimit => 0x04 | .segrights => 0x05 | .role => 0x06
  | .breakpoint => 0x07 | .ecall => 0x08 | .token => 0x09 | .ring => 0x0A | .caravan => 0x0B | .timeline => 0x0C
  | .repeatCount => 0x0D | .page => 0x0E | .farerr => 0x0F | .poison => 0x10 | .deferred => 0x11

/-- The grade with which a trap ends a gang: 1 A, 2 B, 3 C (R98). -/
def trapGrade (c : Cause) (asyncerr : W64) : Nat :=
  match c with
  | .farerr => 1
  | .poison => 2
  | .deferred => if fld asyncerr 7 0 = 1 then 1 else if fld asyncerr 7 0 = 4 then 2 else 3
  | _ => 3

/-- The context stands at a boundary and goes nowhere by itself: an ended gang removes it at once (R98, R166). -/
def Thread.atRest (t : Thread) : Bool :=
  !t.chunk.isOpen && t.st != .vacant && t.st != .committing && t.st != .requesting

/-- Remove a context of an ended gang. -/
def Thread.gone (t : Thread) : Thread :=
  { t with
    st := .exited
    wait := .none
    pend := .none
    woken := false
    waitEntry := false
    chunk := Chunk.reset
    item := { inItem := false, checked := false, staged := [] } }

/-- End a gang: the first end decides code, grade and cause; threads at rest are removed, others at their next
boundary (R98). A guarded launch's other gang ends with it (10: R196). -/
def State.endGang (s : State) (g code grade cause : Nat) (flags : BitVec 8) : State :=
  match s.findGang g with
  | none => s
  | some k =>
    let both := fun (i : Nat) => i = g || k.mate = some i
    let s1 := { s with gangs := s.gangs.map (fun (h : Gang) =>
      if both h.ident && !h.ended then { h with ended := true, code := code, grade := Nat.max h.grade grade, cause := cause, flags := h.flags ||| flags } else h) }
    let s2 := s1.mapThreads (fun t => if (match t.gang with | some i => both i | none => false) && t.atRest then t.gone else t)
    -- messages queued for its threads are discarded (14: R260)
    let theirs := fun (tid : Nat) => s2.allThreads.any (fun t => t.tid == tid && (match t.gang with | some i => both i | none => false))
    let s3 : State := { s2 with
      cores := s2.cores.map (fun p => (p.1, { p.2 with dbg := { p.2.dbg with msgs := p.2.dbg.msgs.filter (fun tid => !theirs tid) } }))
      tokenQueue := s2.tokenQueue.filter (fun tid => !(s2.allThreads.any (fun t => t.tid == tid && t.st == .exited))) }
    -- the coordinator's open and preparing caravans end with outcome 5 at once (R191)
    let mine := fun (tid : Nat) => s3.allThreads.any (fun t => t.tid == tid && (match t.gang with | some i => both i | none => false))
    let open5 := (s3.caravans.filter (fun p => (p.2.st == .opened || p.2.st == .preparing) && mine p.2.owner)).map (·.1)
    (open5.foldl (fun a id => a.cvEnd id 5) s3).wakeIf (fun t => t.st == .parked && t.wait == .task) true

/-- A change of scheduler state enters the scheduler's log as a committed transaction; what its record holds is a free value
(13: R229; assumptions 5 and 70). -/
def State.logTx (s : State) : State :=
  { s with free := s.free + 1, service := { s.service with log := s.service.log ++ [(true, Config.freeWord s.free)] } }

/-- Set completion flags of the issuing thread's gang (09: R167). -/
def State.flagGang (s : State) (g : Option Nat) (f : BitVec 8) : State :=
  match g with
  | none => s
  | some i => s.updGang i (fun k => { k with flags := k.flags ||| f })

/-! ## Cell semaphores (09: R171) -/

/-- An entry of a cell's waiters that still waits on semaphore `n`, or has been woken for it. -/
def State.semWaits (s : State) (n : Nat) (p : Nat × Nat) : Bool :=
  p.1 == n &&
  match s.findTid p.2 with
  | some t => (t.st == .parked || t.woken) && (match t.wait with | .sem m _ => m == n | _ => false)
  | none => false

/-- The count a parked SEMWAIT asks for. -/
def State.semNeed (s : State) (tid : Nat) : Nat :=
  match s.findTid tid with
  | some t => (match t.wait with | .sem _ c => c | _ => 0)
  | none => 0

/-- Wake waiters in parking order while the count covers them; the first it does not cover holds back the rest. -/
def State.semWake (s : State) (avail : Nat) : List (Nat × Nat) → State
  | [] => s
  | p :: ps =>
    let need := s.semNeed p.2
    if need ≤ avail then
      (if s.allThreads.any (fun t => t.tid == p.2 && t.st == .parked) then s.wake p.2 true else s).semWake (avail - need) ps
    else s

/-- Serve the waiters of a cell's semaphore. -/
def State.semServe (s : State) (cell n : Nat) : State :=
  s.semWake (Map.get 0 (s.cell cell).sems n) ((s.cell cell).semq.filter (s.semWaits n))

/-! ## Taking a trap and returning from one (05: R97, R98) -/

/-- Take a trap at the issuing thread's boundary: TRAPPC, TRAPCAUSE, TRAPVAL and the pc as R97 says, or the end of
the gang when TRAPVEC is 0 or a handler runs (R98). -/
def State.takeTrap (s : State) (c : Cause) (v : W64) : State :=
  let s0 := if c = .poison then (s.updDbg s.th.core (fun d => { d with poisc := satAdd d.poisc 1 })).flagGang s.th.gang 2#8 else s
  if s0.th.trapvec = 0 ∨ s0.th.inh = true then
    match s0.th.gang with
    | some g => (s0.updTh Thread.gone).endGang g 1 (trapGrade c s0.th.asyncerr) c.code 1#8
    | none => s0.updTh Thread.gone
  else
    let s1 := s0.updTh (fun t => { t with
      trappc := t.arch.pc
      trapcause := BitVec.ofNat 64 (2 ^ 63 + c.code)
      trapval := v
      arch := { t.arch with pc := t.trapvec }
      st := .runnable
      after := .reissue
      wait := .none
      woken := false
      waitEntry := false
      swapBarred := false
      replies := []
      replyBad := false
      replyPoison := false
      got := []
      issued := false })
    let s2 := match s0.th.wait with | .sem n _ => s1.semServe s0.myCell n | _ => s1
    s2.noteVector s2.th.arch.pc

/-- Return from a trap (R97): pc := TRAPPC and INH cleared. -/
def State.trapReturn (s : State) : State :=
  (s.updTh (fun t => { t with trapcause := setFld t.trapcause 63 63 0, arch := { t.arch with pc := t.trappc } })).noteVector s.th.trappc

/-- Record a failed deferred effect (R99, R100); a parked thread outside CVCOMMIT and GCHK wakes to take DEFERRED (R101). -/
def Thread.asyncRecord (t : Thread) (src code : Nat) (addr : W64) : Thread :=
  if t.pendErr then { t with asyncerr := setFld t.asyncerr 62 62 1 }
  else { t with asyncerr := BitVec.ofNat 64 (2 ^ 63 + (src % 256) * 256 + code % 256), asyncaddr := addr }

/-- The wait ends for a DEFERRED trap (R101). -/
def Thread.wakesDeferred (t : Thread) : Bool :=
  t.st == .parked && t.deferredDue && t.wait != .caravan && t.wait != .guard

/-- Record an asynchronous error in a context, at its boundary when a chunk is open (16: R302). -/
def State.asyncErr (s : State) (tid src code : Nat) (addr : W64) : State :=
  match s.findTid tid with
  | none => s
  | some t0 =>
    if t0.st = .exited then s.flagGang t0.gang 4#8
    else if t0.chunk.isOpen || !t0.merges.isEmpty then
      (s.updTid tid (fun t => { t with merges := t.merges ++ [.async (BitVec.ofNat 8 src) (BitVec.ofNat 8 code) addr] })).flagGang t0.gang 4#8
    else
      let s1 := (s.updTid tid (fun t => t.asyncRecord src code addr)).flagGang t0.gang 4#8
      s1.updTid tid (fun t => if t.wakesDeferred then { t with st := .runnable, waitEntry := false, swapBarred := false } else t)

/-! ## Boundaries -/

/-- What engines left for the thread's boundary (06: R115; 08: R154; R99). -/
def Thread.merge1 (t : Thread) (m : Merge) : Thread :=
  match m with
  | .flags f => { t with arch := { t.arch with mstat := t.arch.mstat ||| f } }
  | .copyDone n => { t with copyRec := { t.copyRec with lastN := n } }
  | .copyFault op side code off addr =>
    if t.copyRec.flt then { t with copyRec := { t.copyRec with mult := true } }
    else { t with copyRec := { t.copyRec with flt := true, side := side, op := op, code := code, offset := off, addr := addr } }
  | .async src code addr => t.asyncRecord src.toNat code.toNat addr

/-- Merge everything that waits (R115). -/
def Thread.mergeAll (t : Thread) : Thread := { t.merges.foldl Thread.merge1 t with merges := [] }

/-- Give a context what an engine left for it: at its next boundary while a chunk is open or something else waits for that boundary, at
once otherwise (R115; 08: R154). -/
def State.mergeTo (s : State) (tid : Nat) (m : Merge) : State :=
  s.updTid tid (fun t => if t.chunk.isOpen || !t.merges.isEmpty then { t with merges := t.merges ++ [m] } else t.merge1 m)

/-- The record entry a commit of this thread makes (11: R203). -/
def commitEntry (rank icount : Nat) (chunks : W64) : W64 :=
  BitVec.ofNat 64 (1 * 2 ^ 60 + rank % 2 ^ 18 * 2 ^ 42 + icount % 2 ^ 14 * 2 ^ 28 + fld chunks 27 0)

/-- Append doublewords to a gang's record while they fit its buffer (11: R203, R204). -/
def Gang.appendRec (g : Gang) (ws : List W64) : Gang :=
  if g.recOverflow then g
  else if 8 * (g.record.length + ws.length) ≤ g.recSize then { g with record := g.record ++ ws }
  else { g with recOverflow := true }

/-- Take `n` instructions off the first COMMIT entry of a rank, and the entry itself when that ends it (R205);
`skip` doublewords are value data. -/
def consumeCommit (rank n : Nat) : Nat → List W64 → List W64
  | _, [] => []
  | skip + 1, w :: ws => w :: consumeCommit rank n skip ws
  | 0, w :: ws =>
    if fld w 63 60 = 1 ∧ fld w 59 42 = rank then
      (if fld w 41 28 ≤ n then ws else setFld w 41 28 (fld w 41 28 - n) :: ws)
    else w :: consumeCommit rank n (if fld w 63 60 = 2 then fld w 41 38 + 1 else 0) ws

/-- The first COMMIT entry of a record. -/
def firstCommit : Nat → List W64 → Option W64
  | _, [] => none
  | skip + 1, _ :: ws => firstCommit skip ws
  | 0, w :: ws => if fld w 63 60 = 1 then some w else firstCommit (if fld w 63 60 = 2 then fld w 41 38 + 1 else 0) ws

/-- The first COMMIT entry of one rank: its instruction count. -/
def rankCommit (rank : Nat) : Nat → List W64 → Option Nat
  | _, [] => none
  | skip + 1, _ :: ws => rankCommit rank skip ws
  | 0, w :: ws =>
    if fld w 63 60 = 1 ∧ fld w 59 42 = rank then some (fld w 41 28)
    else rankCommit rank (if fld w 63 60 = 2 then fld w 41 38 + 1 else 0) ws

/-- The data of the k-th VALUE entry of one rank before its next COMMIT entry: a value source of a later chunk or boundary is none of this
one's (R205). -/
def nthValue (rank : Nat) : Nat → Nat → List W64 → Option (List W64)
  | _, _, [] => none
  | k, skip + 1, _ :: ws => nthValue rank k skip ws
  | k, 0, w :: ws =>
    if fld w 63 60 = 2 then
      (if fld w 59 42 = rank then
        (match k with
         | 0 => some (ws.take (fld w 41 38 + 1))
         | k + 1 => nthValue rank k (fld w 41 38 + 1) ws)
       else nthValue rank k (fld w 41 38 + 1) ws)
    else if fld w 63 60 = 1 ∧ fld w 59 42 = rank then none
    else nthValue rank k 0 ws

/-- Remove the first VALUE entry of one rank; `skip` doublewords of another entry follow, `drop` of this one. -/
def dropValue (rank : Nat) : Nat → Nat → List W64 → List W64
  | _, _, [] => []
  | skip + 1, drop, w :: ws => w :: dropValue rank skip drop ws
  | 0, drop + 1, _ :: ws => if drop = 0 then ws else dropValue rank 0 drop ws
  | 0, 0, w :: ws =>
    if fld w 63 60 = 2 ∧ fld w 59 42 = rank then dropValue rank 0 (fld w 41 38 + 1) ws
    else w :: dropValue rank (if fld w 63 60 = 2 then fld w 41 38 + 1 else 0) 0 ws

/-- Remove the first `k` VALUE entries of one rank. -/
def dropValues (rank : Nat) : Nat → List W64 → List W64
  | 0, ws => ws
  | k + 1, ws => dropValues rank k (dropValue rank 0 0 ws)

/-- The VALUE entry of one value (R203). -/
def valueEntry (rank : Nat) (ws : List W64) : List W64 :=
  BitVec.ofNat 64 (2 * 2 ^ 60 + rank % 2 ^ 18 * 2 ^ 42 + (ws.length - 1) % 16 * 2 ^ 38) :: ws

/-- End the gang for a replay that disagrees with its record (R205): KILLED, grade C, FLAGS bit 3. -/
def State.mismatch (s : State) (g : Nat) : State :=
  (s.updGang g (fun k => { k with recMismatch := true })).endGang g 2 3 0 8#8

/-- The issuing thread's replay disagrees with its record: its gang ends, and nothing of its open chunk is kept (R205). -/
def State.disagree (s : State) : State :=
  (match s.th.gang with | some g => s.mismatch g | none => s).updTh Thread.gone

/-- The record that the issuing thread's gang replays, as far as it is left. -/
def State.replayed (s : State) : Option (List W64) :=
  match s.myGang with
  | some g => if g.launch.rrm = 2 then some g.record else none
  | none => none

/-- A context's next event of the commit order may take place: in replay, when the record's first COMMIT entry left is of its rank, or none is
left (R205). -/
def State.turnOf (s : State) (t : Thread) : Bool :=
  match t.gang.bind s.findGang with
  | none => true
  | some g => g.launch.rrm != 2 || (match firstCommit 0 g.record with | some w => fld w 59 42 == t.rank | none => true)

/-- The context can bring a chunk to its commit without another commit: it has one open, or may issue, or waits for data (assumption 54). -/
def State.pursues (s : State) (t : Thread) : Bool :=
  t.slot.isSome &&
  (if t.chunk.isOpen then t.st != .requesting || s.turnOf t
   else t.st == .runnable || (t.st == .dataWait && (match t.pend with | .lines _ _ _ => true | .direct _ => true | .outer _ _ _ => true | _ => false)))

/-- Another thread holds the priority token and pursues its own commit: no other commit is granted (R44). -/
def State.tokenBars (s : State) (tid : Nat) : Bool :=
  match s.tokenQueue with
  | [] => false
  | h :: _ => h != tid && (match s.findTid h with | some t => s.pursues t | none => false)

/-- A commit to lines on behalf of a thread or an agent waits: a granted commit or publish has locked one (R42; 10: R187), or another thread's
commit goes first (R44). -/
def State.barred (s : State) (tid : Nat) (lines : List Nat) : Bool := s.locked lines || s.tokenBars tid

/-- A boundary instruction of the issuing thread may execute: there is no replay, or the record has a commit of one instruction of its rank
next (R205). -/
def State.inTurn (s : State) : Bool :=
  match s.replayed with
  | none => true
  | some ws => s.turnOf s.th && rankCommit s.th.rank 0 ws == some 1

/-- A value source inside a chunk or at a boundary (R204, R205): the value, recorded, or the recorded one in its
place. None when the record is exhausted. -/
def State.valueSource (s : State) (ws : List W64) : State × Option (List W64) :=
  match s.myGang with
  | none => (s, some ws)
  | some g =>
    if g.launch.rrm = 1 then (s.updChunk (fun c => { c with values := c.values ++ valueEntry s.th.rank ws }), some ws)
    else if g.launch.rrm = 2 then
      match nthValue s.th.rank s.th.chunk.taken 0 g.record with
      | some vs => if vs.length = ws.length then (s.updChunk (fun c => { c with taken := c.taken + 1 }), some vs) else (s, none)
      | none => (s, none)
    else (s, some ws)

/-- A commit of `n` instructions by the issuing thread disagrees with the record that its gang replays: the record is exhausted, or holds a value
for a value source that none of the committed instructions is (R205). -/
def State.replayFails (s : State) (n : Nat) : Bool :=
  match s.replayed with
  | none => false
  | some ws => match rankCommit s.th.rank 0 ws with
    | none => true
    | some m => decide (m ≤ n) && (nthValue s.th.rank s.th.chunk.taken 0 ws).isSome

/-- Record or replay one event of the commit order by the issuing thread: `n` instructions (R204, R205). -/
def State.noteCommit (s : State) (n : Nat) : State :=
  match s.myGang with
  | none => s
  | some g =>
    if g.launch.rrm = 1 then
      s.updGang g.ident (fun k => k.appendRec (s.th.chunk.values ++ [commitEntry s.th.rank n s.th.chunks]))
    else if g.launch.rrm = 2 then
      if s.replayFails n then s.mismatch g.ident
      else s.updGang g.ident (fun k => { k with record := consumeCommit s.th.rank n 0 (dropValues s.th.rank s.th.chunk.taken k.record) })
    else s

/-- A boundary instruction must stand in the record as a commit of one instruction (R205). -/
def State.noteBoundary (s : State) : State :=
  match s.myGang with
  | none => s
  | some g => if g.launch.rrm = 2 ∧ rankCommit s.th.rank 0 g.record ≠ some 1 then s.mismatch g.ident else s.noteCommit 1

/-- Clusters of the cores and cells that hold one of the lines: in a data cache, a stash or the signature of an uncommitted chunk (R39,
R42). -/
def State.holderClusters (s : State) (lines : List Nat) : List Nat :=
  let holds := fun (hs : List Held) => hs.any (fun h => lines.contains h.line)
  let signed := fun (t : Thread) => t.uncommitted && lines.any (fun l => Sig.holds t.chunk.rsig (64 * l) || Sig.holds t.chunk.wsig (64 * l))
  (s.cores.filter (fun p => holds p.2.dcache)).map (fun p => clusterOf (cellOf p.1)) ++
  (s.cells.filter (fun p => holds p.2.stash)).map (fun p => clusterOf p.1) ++
  (s.allThreads.filter signed).map (fun t => clusterOf (cellOf t.core))

/-- Scope of a commit of lines by a core: 1 cluster, 2 die, 3 module, before its grant invalidates any copy (R42). -/
def State.commitScope (s : State) (core : Nat) (lines : List Nat) : Nat :=
  let mine := clusterOf (cellOf core)
  let moons := (s.moons.filter (fun p => lines.contains p.1)).map (fun p => p.2 * 8 + sliceOf (64 * p.1) / 2)
  let all := lines.map (fun l => s.keyCluster (64 * l)) ++ s.holderClusters lines ++ moons
  if all.all (· == mine) then 1 else if all.all (fun c => c / 8 == mine / 8) then 2 else 3

/-- Write a held list of trace records. -/
def State.traceAll (s : State) (core : Nat) (ws : List W64) : State := ws.foldl (fun k w => k.traceRec core w) s

/-- Trace and count the commit of the issuing thread's chunk (14: R252, R254). -/
def State.noteChunk (s : State) (scope : Nat) : State :=
  let c := s.th.core
  let n := s.th.chunk.icount
  let s1 := (s.perf c 0x03 n).perf c (0x05 + scope) 1
  if s.traced then
    (s1.traceAll c s.th.chunk.trace).traceRec c
      (BitVec.ofNat 64 (recHead 3 s.th.slotNo + n % 2 ^ 14 * 2 ^ 42 + scope * 2 ^ 40 + fld (s.th.chunks + 1) 39 0))
  else s1

/-- Degree codes are 0 to 4 (04: R77). -/
def clampNat (v lo hi : Nat) : Nat := if v < lo then lo else if hi < v then hi else v

/-- The degree a code stands for. -/
def degreeOf (code : Nat) : Nat := if code = 0 then 1 else if code = 1 then 2 else if code = 2 then 4 else if code = 3 then 8 else 32
/-- Distance of two dies on the 4×8 grid. -/
def dieDist (a b : Nat) : Nat := (a / 8 - b / 8) + (b / 8 - a / 8) + (a % 8 - b % 8) + (b % 8 - a % 8)
/-- The group of home die `h` at a degree. -/
def groupOf (h deg : Nat) : List Nat := (countFrom 0 32).filter (fun g => g % (32 / deg) == h % (32 / deg))
/-- The nearest member of a group to die `r`; a tie goes to the lower die. -/
def nearestDie (r : Nat) : List Nat → Nat → Nat
  | [], best => best
  | g :: gs, best => nearestDie r gs (if dieDist r g < dieDist r best then g else best)
/-- The die that serves a read of a line by die `r`. -/
def servingDie (r h deg : Nat) : Nat := match groupOf h deg with | [] => h | g :: gs => nearestDie r gs g
/-- A die is the nearest group member of some die (R78). -/
def stillNearest (h deg die : Nat) : Bool := (countFrom 0 32).any (fun r => servingDie r h deg == die)

/-- A region's degree falls to a code: moons of dies that are nearest for no die any more are invalidated (R78). -/
def State.narrowMoons (s : State) (region code : Nat) : State :=
  { s with moons := s.moons.filter (fun p => regionOf (64 * p.1) != region || stillNearest (s.homeDie (64 * p.1)) (degreeOf code) p.2) }

/-- Apply one recorded hint at commit (R80, R82); a degree that falls invalidates moons (R78). A
subscription whose table has become full since its issue is refused here (assumption 75). -/
def State.applyHint (s : State) (h : Hint) : State :=
  if h.far then
    if fld h.word 7 6 = 1 then
      let full := decide (Config.subLimit ≤ (s.subs.filter (fun p => p.2 == 1 || p.2 == 2)).length)
      let known := Map.get 0 s.subs h.region
      { s with subs := Map.set 0 s.subs h.region (if known = 1 ∨ known = 2 then known else if full then 3 else 1) }
    else { s with subs := Map.set 0 s.subs h.region 0, farMoons := s.farMoons.filter (fun p => regionOf (64 * p.1) != h.region) }
  else
    let g := Map.get Region.reset s.regions h.region
    let lo := if fld h.word 7 6 = 3 then g.fwmin else clampNat (fld h.word 2 0) g.fwmin g.fwmax
    let hi := if fld h.word 7 6 = 3 then g.fwmax else clampNat (fld h.word 5 3) g.fwmin g.fwmax
    let d := clampNat g.deg lo hi
    let s1 := if d < g.deg then s.narrowMoons h.region d else s
    let new : Region := { g with dmin := lo, dmax := hi, deg := d, changes := if d = g.deg then g.changes else sat48 g.changes 1 }
    { s1 with regions := Map.set Region.reset s1.regions h.region new }

/-- A written page's leaf entry, as cluster and address, in one number. -/
def leafKey (cluster pa : Nat) : Nat := cluster * 2 ^ 44 + pa

/-- The look-aside entries of a cluster. -/
def State.tlb (s : State) (cluster : Nat) : List TlbEntry := Map.get [] s.tlbs cluster

/-- A written leaf still to be logged (05: R91). -/
def State.unlogged (s : State) (leaf : Nat) : Bool :=
  !(s.tlb (leaf / 2 ^ 44)).any (fun e => e.leafPa == leaf % 2 ^ 44 && e.logged)

/-- Append the chunk's newly dirtied leaves to the core's dirty log and set their flags (R91). -/
def State.logDirty (s : State) (leaves : List Nat) : State :=
  leaves.foldl (fun k l =>
    if k.unlogged l then
      let k1 := k.updCore k.th.core (fun c => { c with dlog := c.dlog ++ [l % 2 ^ 44] })
      { k1 with
        tlbs := Map.upd [] k.tlbs (l / 2 ^ 44) (fun es => es.map (fun e => if e.leafPa = l % 2 ^ 44 then { e with logged := true } else e)) }
    else k) s

/-- A barrier of a gang. -/
def Gang.barrier (g : Gang) (b : Nat) : Barrier := Map.get { done := 0, arrivals := [], poison := [] } g.barriers b

/-- The barrier index a thread's gang and core make it a member of (09: R169). -/
def Gang.member (g : Gang) (core b : Nat) : Bool :=
  if core % 2 = 0 then g.launch.bms.getLsbD b else g.launch.bmc.getLsbD b

/-- Cores of a gang's cells that hold threads: 1 for one kind, 2 for both (R162). -/
def perCell (cores : Nat) : Nat := if cores = 3 then 2 else 1

/-- A rank's core is an S-core (R162). -/
def rankIsS (cores tpc rank : Nat) : Bool :=
  if cores = 1 then true else if cores = 2 then false else (rank / tpc) % 2 == 0

/-- Rank `r` is a member of barrier `b` (R169). -/
def Gang.memberRank (g : Gang) (r b : Nat) : Bool :=
  if rankIsS g.launch.cores g.launch.tpc r then g.launch.bms.getLsbD b else g.launch.bmc.getLsbD b

/-- A member has arrived in phase `p`, or has exited with at most `p` arrivals (R169). -/
def Gang.arrivedIn (g : Gang) (b p r : Nat) : Bool :=
  (g.barrier b).arrivals.contains (r, p) || g.exited.any (fun e => e.1 == r && decide (e.2.getD b 0 ≤ p))

/-- Phase `p` is complete: every member has arrived. -/
def Gang.phaseFull (g : Gang) (b p : Nat) : Bool :=
  ((countFrom 0 g.size).filter (fun r => g.memberRank r b)).all (g.arrivedIn b p)

/-- Complete every phase that is full, in order; at most `fuel` of them. -/
def Gang.advance (g : Gang) (b : Nat) : Nat → Gang
  | 0 => g
  | fuel + 1 =>
    let k := g.barrier b
    if g.phaseFull b k.done && k.arrivals.any (fun a => decide (k.done ≤ a.2)) then
      Gang.advance { g with barriers := Map.upd { done := 0, arrivals := [], poison := [] } g.barriers b (fun k => { k with done := k.done + 1 }) } b fuel
    else g

/-- Arrivals take effect: phases complete and their waiters wake (R169, R170). -/
def State.arrive (s : State) (gid rank b p : Nat) (poison : Bool) : State :=
  let s1 := s.updGang gid (fun g =>
    let note := fun (k : Barrier) =>
      { k with arrivals := k.arrivals ++ [(rank, p)], poison := if poison then k.poison ++ [p] else k.poison }
    let g1 := { g with barriers := Map.upd { done := 0, arrivals := [], poison := [] } g.barriers b note }
    g1.advance b ((g1.barrier b).arrivals.length))
  match s1.findGang gid with
  | none => s1
  | some g => s1.wakeIf (fun t => t.st == .parked && t.gang == some gid &&
      (match t.wait with | .barrier n ph => n == b && decide (ph < (g.barrier b).done) | _ => false)) true

/-- The effect travels to another module as a far store or far comet does (R56, R369). -/
def Item.travelsFar (i : Item) : Bool :=
  match i with
  | .farStore _ _ _ _ => true
  | .comet l _ _ _ _ _ => l.home.isSome
  | .tsemSig l _ _ _ => l.home.isSome
  | _ => false

/-- The effect is a host store. -/
def Item.isHostStore (i : Item) : Bool := match i with | .hostStore _ _ _ => true | _ => false

/-- Count one more store released to a destination module (10: R185). -/
def bumpDest (home : BitVec 16) : List (BitVec 16 × Nat) → List (BitVec 16 × Nat)
  | [] => [(home, 1)]
  | (h, n) :: ds => if h = home then (h, n + 1) :: ds else (h, n) :: bumpDest home ds

/-- The module a place belongs to. -/
def State.homeOf (s : State) (l : Loc) : BitVec 16 := l.home.getD s.moduleId

/-- A released effect of the issuing thread. -/
def State.releasedBy (s : State) (i : Item) (st : Stage) : Released :=
  { item := i, tid := s.th.tid, gang := s.th.gang.getD 0, rank := s.th.rank,
    gangSize := (match s.myGang with | some g => g.size | none => 1), stage := st, sentAt := s.time.up }

/-- Release one effect: far and host stores go to their port at once, and a caravan store takes its sequence number or,
when its caravan has ended or its D has come, is dropped (R52, R183, R191, R307). -/
def State.releaseOne (s : State) (i : Item) : State :=
  match i with
  | .stage cid gen _ loc cells ea =>
    let id := cid.toNat % 65536
    let c := s.caravan id
    if c.st = .opened ∧ c.gen = gen ∧ cid = s.cidOf id ∧ s.time.now.toNat < c.d.toNat then
      let r := s.releasedBy (.stage cid gen c.seq loc cells ea) (if loc.home.isSome then .handed else .waiting)
      State.updCaravan { s with released := s.released ++ [r] } id (fun c => { c with seq := c.seq + 1, dests := bumpDest (s.homeOf loc) c.dests })
    else s
  | _ => { s with released := s.released ++ [s.releasedBy i (if i.travelsFar || i.isHostStore then .handed else .waiting)] }

/-- Release deferred effects in program order (R42 step 6). -/
def State.releaseAll (s : State) (items : List Item) : State := items.foldl State.releaseOne s

/-- The chunk's charge and overflow mark enter the record of the current handle (10: R182). -/
def State.commitCaravan (s : State) : State :=
  let a := s.th.arch
  let s1 := if (a.cvCharge ≠ 0 ∨ a.cvOvf = true) ∧ s.liveCv s.th.cvh = true then
      s.updCaravan (fld s.th.cvh 15 0) (fun c => { c with charge := c.charge + a.cvCharge, ovf := c.ovf || a.cvOvf })
    else s
  s1.updArch (fun a => { a with cvCharge := 0, cvOvf := false, cvDests := [] })

/-- Stash changes of the chunk take effect (04: R73, R74): the lines of every range that the chunk unmapped are written back and released, also where
it has mapped one over it again. -/
def State.commitStash (s : State) (ch : Chunk) : State :=
  let inRange := fun (tag base len : Nat) => decide (base ≤ tagVa tag) && decide (tagVa tag < base + len)
  let s1 := match ch.smap with
    | none => s
    | some m => s.updCell s.myCell (fun c =>
        let keep := c.stash.filter (fun h => m.any (fun e => e.asid == tagAsid h.tag && inRange h.tag e.base e.len) &&
          !ch.unmapped.any (fun e => e.asid == tagAsid h.tag && inRange h.tag e.base e.len))
        { c with smap := m, stash := keep, stashDirty := c.stashDirty.filter (fun l => keep.any (fun h => h.line == l)) })
  ch.sflush.foldl (fun k r => k.updCell k.myCell (fun c =>
    { c with stashDirty := c.stashDirty.filter (fun l =>
        !(c.stash.any (fun h => h.line == l && (ch.smap.getD c.smap).any (fun e =>
            e.asid == tagAsid h.tag && inRange h.tag e.base e.len && decide (e.base < r.1 + r.2) && decide (r.1 < e.base + e.len))))) })) s1

/-- Written lines enter the stash of a cell, which owns them (R74). -/
def State.ownStash (s : State) (cell : Nat) (hs : List Held) : State :=
  if hs.isEmpty then s
  else s.updCell cell (fun c => { c with
    stash := c.stash.filter (fun h => !hs.any (fun k => k.line == h.line)) ++ hs
    stashDirty := dedup (c.stashDirty ++ hs.map (·.line)) })

/-- Written lines stay in the data cache, dirty (R66). -/
def State.ownCache (s : State) (core : Nat) (hs : List Held) : State :=
  s.updCore core (fun c => { c with
    dcache := c.dcache.filter (fun h => !hs.any (fun k => k.line == h.line)) ++ hs
    dirty := dedup (c.dirty ++ hs.map (·.line)) })

/-- Commit the issuing thread's chunk (R42 steps 5 and 6; R38, R44): its bytes become visible, its effects are
released, CHUNKS rises and the limit returns. -/
def State.commitChunk (s : State) : State :=
  let ch := s.th.chunk
  let s1 := (s.noteChunk ch.scope).noteCommit ch.icount
  let w := s1.allowed (s.coreInit s.th.core) ch.wbuf
  let s2 := if w.2.isEmpty then { w.1 with position := w.1.position + 1 } else w.1.makeVisible w.2
  let held := ch.held.filter (fun h => w.2.any (fun c => lineOf c.1 == h.line))
  let s3 := ((((s2.logDirty ch.leaves).ownStash s.myCell (held.filter (fun h => ch.slines.contains h.line))).commitStash ch).ownCache
    s.th.core (held.filter (fun h => !ch.slines.contains h.line)))
  let s4 := ch.hints.foldl State.applyHint s3
  let s5 := ch.arrived.foldl (fun k a => match k.th.gang with | some g => k.arrive g k.th.rank a.1 a.2 false | none => k) s4
  let claim := fun (m : Map Ring) (q : Nat × Nat) => Map.upd Ring.reset m q.1 (fun r => { r with c := r.c + q.2 })
  let s6 := (s5.updCell s5.myCell (fun c => { c with rings := ch.claims.foldl claim c.rings })).commitCaravan.releaseAll ch.defq
  let s7 := { s6 with
    locks := s6.locks.filter (fun p => p.2 != s.th.tid)
    tokenQueue := s6.tokenQueue.filter (· != s.th.tid) }
  (s7.wakeSet s.th.core).updTh (fun t => { t with
      chunk := Chunk.reset
      chunks := t.chunks + 1
      curlog := t.limlog
      sqcnt := 0
      prio := false
      softSquashes := 0
      arch := { t.arch with cpyClear := false }
      copyRec := if t.arch.cpyClear then { CopyRec.reset with out := t.copyRec.out } else t.copyRec })

/-- A chunk that commits locally, without arbitration (R41). -/
def Chunk.isLocal (c : Chunk) : Bool := c.wbuf.isEmpty && c.defq.isEmpty && c.wsig == 0

/-- Stop at a boundary for the debug module (14: R244, R247): a step that ends sets HCAUSE 4; a traced slot writes a
STOP record (R252). -/
def State.stopHere (s : State) : State :=
  let t := s.th
  let s1 := s.updTh (fun t => { t with st := .stopped, stepping := false, stopPending := false })
  let s2 := if t.stepping then s1.updDbg t.core (fun d => { d with hcause := 4, hslot := t.slotNo }) else s1
  if s2.traced then s2.traceRec t.core (BitVec.ofNat 64 (recHead 6 t.slotNo + (s2.core t.core).dbg.hcause % 16 * 2 ^ 52)) else s2

/-- Send a fault record and wait for the wake (05: R92). -/
def State.pageFault (s : State) (va : W64) (r : FaultReason) (acc : Access) : State :=
  let t := s.th
  let entry : FaultRec :=
    { tid := t.tid, gang := t.gang.getD 0, rank := t.rank, asid := BitVec.ofNat 16 (fld (s.core t.core).ptroot 63 48),
      va := va.toNat, acc := acc, reason := r, engine := none }
  let s1 := { s with service := { s.service with faults := s.service.faults ++ [entry] } }
  (s1.perf t.core 0x15 1).updTh (fun t => { t with st := .faultWait, swapBarred := false, faultVa := va, faultDone := false, faultBad := false, after := .reissue })

/-- Hand a failed item's packet to the exact gang and wake its parked TASKGETs (10: R195, R196). -/
def State.queueExact (s : State) (gid : Nat) (packet : List W64) : State :=
  match (s.findGang gid).bind (·.mate) with
  | none => s
  | some x => (s.updGang x (fun k => { k with queue := k.queue ++ [packet] })).wakeIf
      (fun t => t.st == .parked && t.gang == some x && t.wait == .task) true

/-- A guarded item overflows (R194): its staged part is discarded, its WID is queued to the exact gang, and the
thread exits. -/
def State.overflowItem (s : State) : State :=
  let s0 := { s with released := s.released.filter (fun r => !(r.tid == s.th.tid && (match r.item with | .gstage _ => true | _ => false))) }
  let s1 := s0.updMyGang (fun k => { k with overflowed := k.overflowed + 1 })
  let s2 := match s.th.gang, s.th.packet with
    | some g, some p => s1.queueExact g p
    | _, _ => s1
  (s2.updTh (fun t => { t with
    st := .exiting, packet := none, item := { inItem := false, checked := false, staged := [] }, arch := { t.arch with gCharge := 0 } })).wakeTasks

/-- Take a trap; it ends a debug step (14: R247). -/
def State.trapStep (s : State) (c : Cause) (v : W64) : State :=
  let s1 := s.takeTrap c v
  if s1.th.stepping && s1.th.st == .runnable then s1.stopHere else s1

/-- The issuing thread of an ended gang is removed at its boundary (R98); what its guarded item had reserved may let a TASKGET go on (10:
R194). -/
def State.removed (s : State) : State := (s.updTh Thread.gone).wakeTasks

/-- What the boundary leads to (R35, R37, R101): the end of an ended gang's thread, a DEFERRED trap that is due, and
otherwise what cut the chunk. -/
def State.atBoundary (s : State) (a : After) : State :=
  let s1 := s.updTh (fun t => { t.mergeAll with st := .runnable, after := .reissue, swapBarred := false })
  if s1.gangEnded then s1.removed
  else if s1.th.deferredDue then s1.trapStep .deferred s1.th.asyncaddr
  else match a with
    | .reissue => s1
    | .trap c v => s1.trapStep c v
    | .fault va r acc => s1.pageFault va r acc
    | .stop => if s1.th.stepping || s1.th.stopPending || (s1.core s1.th.core).dbg.halt then s1.stopHere else s1
    | .overflow => s1.overflowItem
    | .hit cause unit brk =>
      let s2 := s1.updTh (fun t => { t with bpSkip := t.arch.pc :: t.bpSkip.filter (· != t.arch.pc), stepping := t.stepping && brk })
      if brk then s2.trapStep .breakpoint s2.th.arch.pc
      else (s2.updDbg s2.th.core (fun d => { d with halt := true, hcause := cause, hunit := unit, hslot := s2.th.slotNo })).stopHere

/-- A cut trigger (R37, R41): the chunk commits locally, or requests commit; an empty chunk is not formed. In replay a chunk that
disagrees with the record ends its gang, and any other waits for its turn (11: R205). -/
def State.cut (s : State) (a : After) : State :=
  let k := s.updTh (fun t => { t with met := a })
  if !k.th.chunk.isOpen then k.atBoundary a
  else if k.replayFails k.th.chunk.icount then k.disagree
  else if k.th.chunk.isLocal && k.turnOf k.th then k.commitChunk.atBoundary a
  else k.updTh (fun t => { t with st := .requesting, after := a })

/-- Raise a precise trap (R35, R97). -/
def State.raise (s : State) (c : Cause) (v : W64) : State := s.cut (.trap c v)

/-! ## Chunks and retirement (R36, R37) -/

/-- Open a chunk at the first instruction after a boundary. -/
def State.openChunk (s : State) : State :=
  if s.th.chunk.isOpen then s
  else s.updChunk (fun _ => { Chunk.reset with isOpen := true, start := s.th.arch })

/-- REPEAT's sequencing after a body instruction (R36), and the plain next pc otherwise; a handler is not sequenced (R97). -/
def Arch.advance (a : Arch) (inh : Bool) (npc : W64) : Arch :=
  if bit a.repcnt 63 && !inh then
    let len := fld a.repcnt 55 50
    let pos := fld a.repcnt 49 44
    let iter := fld a.repcnt 31 0
    if pos = len then
      if iter ≤ 1 ∧ iter ≠ 0 then { a with repcnt := setFld (setFld a.repcnt 31 0 0) 63 63 0, pc := a.pc + 4 }
      else { a with repcnt := setFld (setFld a.repcnt 31 0 (iter + (2 ^ 32 - 1))) 49 44 0, pc := a.pc - BitVec.ofNat 64 (4 * len) }
    else { a with repcnt := setFld a.repcnt 49 44 (pos + 1), pc := a.pc + 4 }
  else { a with pc := npc }

/-- The instruction limit of the open chunk: 2^CURLOG, one for a step (14: R247), the recorded count in replay (11: R205). -/
def State.chunkLimit (s : State) : Nat :=
  if s.th.stepping then 1
  else match s.myGang with
    | none => 2 ^ s.th.curlog
    | some g =>
      if g.launch.rrm = 2 then
        match rankCommit s.th.rank 0 g.record with
        | some n => Nat.min (2 ^ s.th.curlog) (Nat.max n 1)
        | none => 2 ^ s.th.curlog
      else 2 ^ s.th.curlog

/-- A plain or deferred instruction completes: the pc moves to `npc` or as REPEAT says, the chunk counts it and is cut
at its limit. -/
def State.retireTo (s : State) (npc : W64) : State :=
  let s1 := s.updTh (fun t => { t with
    arch := t.arch.advance t.inh npc
    chunk := { t.chunk with icount := t.chunk.icount + 1 }
    bpSkip := t.bpSkip.filter (· != t.arch.pc)
    replies := []
    replyBad := false
    replyPoison := false
    got := []
    issued := false })
  if s1.chunkLimit ≤ s1.th.chunk.icount then s1.cut (if s1.th.stepping then .stop else .reissue) else s1

/-- A plain or deferred instruction completes and the next one follows it. -/
def State.retire (s : State) : State := s.retireTo (s.th.arch.pc + 4)

/-- A boundary instruction has completed: it enters the commit order as one commit (R46), which ends an escalation (R44) and counts as a local one
(14: R254; assumption 73); a pending stop takes effect (14: R244), and a step ends (R247). -/
def State.retireAt (s : State) (npc : W64) : State :=
  let s0 : State := State.perf { s with position := s.position + 1, tokenQueue := s.tokenQueue.filter (· != s.th.tid) } s.th.core 0x05 1
  let s1 := s0.noteBoundary.updTh (fun t => { t with
    arch := t.arch.advance t.inh npc
    chunk := Chunk.reset
    curlog := t.limlog
    sqcnt := 0
    prio := false
    st := .runnable
    swapBarred := false
    wait := .none
    pend := .none
    woken := false
    waitEntry := false
    bpSkip := t.bpSkip.filter (· != t.arch.pc)
    replies := []
    replyBad := false
    replyPoison := false
    got := []
    issued := false })
  if s1.gangEnded then s1.removed
  else if s1.th.stepping || s1.th.stopPending || (s1.core s1.th.core).dbg.halt then s1.stopHere else s1

/-- A boundary instruction has completed and the next one follows it. -/
def State.retireBoundary (s : State) : State := s.retireAt (s.th.arch.pc + 4)

/-- What becomes of a boundary instruction in replay when the record does not have it next; `r` is what it would do. A trap or a page fault
of its own is no event of the commit order. Else it waits for its turn, or disagrees with the record, before it has any effect (11: R205). -/
def State.outOfTurn (s r : State) : State :=
  if r.th.met ≠ .reissue then r
  else if s.replayed.bind (rankCommit s.th.rank 0) = some 1 then s.updTh (fun t => { t with st := .dataWait, pend := .turn })
  else s.disagree

/-- A boundary instruction: the chunk before it is cut first (R37, R46), and in replay it keeps the recorded order (11: R205). -/
def State.boundary (s : State) (f : State → State) : State :=
  if s.th.chunk.isOpen then s.cut .reissue
  else if s.inTurn then f s
  else s.outOfTurn (f (s.updTh (fun t => { t with met := .reissue })))

/-- Park at the boundary (R46); a step that parks leaves its stop pending (14: R247). -/
def State.park (s : State) (w : Wait) : State :=
  s.updTh (fun t => { t with
    st := .parked
    swapBarred := false
    wait := w
    woken := false
    chunk := Chunk.reset
    replies := []
    replyBad := false
    replyPoison := false
    got := []
    stopPending := t.stopPending || t.stepping })

/-- A plain instruction with one effect on the issuing thread. -/
def State.plain (s : State) (f : State → State) : State := (f s.openChunk).retire

/-- A plain scalar result: x[d] := v. -/
def State.setResult (s : State) (d : Reg) (v : W64) : State := s.plain (fun k => k.setX d v)

/-- Raise ILLEGAL with the instruction word (R96, R270). -/
def State.illegal (s : State) (w : W32) : State := s.raise .illegal (w.setWidth 64)

end Sys2Proof.Machine
end

