-- ==== Sys2Proof/Machine/Caches.lean ====
section
/-! DEFINITION. What the caches hold: sets of the data cache, fills, recalls, and the reads that the sharing monitor counts
(04: R66 to R68, R74, R77 to R79). -/
namespace Sys2Proof.Machine

/-! ## The data cache (R66, R68) -/

/-- The set of a line: bits 12:6 of its address (R66, R67). -/
def setOf (line : Nat) : Nat := line % Config.cacheSets

/-- Uncommitted lines of a data-cache set over all threads of a core (R68). -/
def State.setCount (s : State) (core set : Nat) : Nat :=
  ((s.allThreads.filter (fun t => t.core == core && t.chunk.isOpen)).map
    (fun t => (t.chunk.lines.filter (fun l => setOf l == set)).length)).foldl (· + ·) 0

/-- Lines, the least recently used first, with the oldest ones of a set left out where it holds more than `room`. -/
def fitSet (set room : Nat) (ls : List Held) : List Held :=
  let mine := ls.filter (fun h => setOf h.line == set)
  let old := mine.take (mine.length - room)
  ls.filter (fun h => !old.contains h)

/-- Committed lines are replaced, the least recently used first, where the lines' sets hold more than the ways that
uncommitted lines leave; a dirty one is written back (R66, R68). -/
def State.fitSets (s : State) (core : Nat) (lines : List Nat) : State :=
  (dedup (lines.map setOf)).foldl (fun k set => k.updCore core (fun c =>
    let kept := fitSet set (Config.cacheWays - k.setCount core set) c.dcache
    { c with dcache := kept, dirty := c.dirty.filter (fun l => kept.any (fun h => h.line == l)) })) s

/-- Lines that the issuing thread's core holds have just been used. -/
def State.touch (s : State) (lines : List Nat) : State :=
  s.updCore s.th.core (fun c => { c with
    dcache := c.dcache.filter (fun h => !lines.contains h.line) ++ c.dcache.filter (fun h => lines.contains h.line) })

/-- A read elsewhere of a line that a data cache or a stash holds dirty: it is written back, and stays clean (R66, R74); a host
that holds it gives it up (12: R221). -/
def State.recall (s : State) (line : Nat) (keepCore keepCell : Option Nat) : State :=
  { s with
    hostLines := s.hostLines.filter (fun p => p.2 != line)
    cores := Map.mapKeys Core.reset (fun n c => if keepCore = some n then c else { c with dirty := c.dirty.filter (· != line) }) s.cores
    cells := Map.mapKeys Cell.reset (fun n c => if keepCell = some n then c else { c with stashDirty := c.stashDirty.filter (· != line) }) s.cells }

/-- Recall lines from every holder: an engine, a host or another module reads them. -/
def State.recallAll (s : State) (lines : List Nat) : State := lines.foldl (fun k l => k.recall l none none) s

/-- Fill a line into a cell's stash (R74). -/
def State.fillStash (s : State) (cell line tag : Nat) : State :=
  (s.recall line none (some cell)).updCell cell (fun c => { c with stash := c.stash.filter (fun q => q.line != line) ++ [{ line := line, tag := tag, read := true }] })

/-- Fill a committed line at once: into the stash on the stash path, otherwise into the data cache, where an entry of the same physical
line is retagged (R341, R66, R67, R74). -/
def State.fillLine (s : State) (stash : Bool) (line tag : Nat) : State :=
  let h : Held := { line := line, tag := tag, read := true }
  if stash then s.fillStash s.myCell line tag
  else ((s.recall line (some s.th.core) none).updCore s.th.core
    (fun k => { k with dcache := k.dcache.filter (fun q => q.line != line) ++ [h] })).fitSets s.th.core [line]

/-! ## Serving a read (R77, R79) -/

/-- Add a reply's DELAY, a free value of 16 bits, to an accumulator of a core (12: R216; 14: R256; assumption 5). -/
def State.addDelay (s : State) (core acc : Nat) : State :=
  State.updDbg { s with free := s.free + 1 } core (fun d => { d with
    dsum := Map.upd 0 d.dsum acc (fun v => satAdd v (fld (Config.freeWord s.free) 15 0))
    dcnt := Map.upd 0 d.dcnt acc (fun v => satAdd v 1) })

/-- The die that holds the far moon of a far line: h(off) on the local bits of its address (R75, R82). -/
def farMoonDie (line : Nat) : Nat := foldOff (64 * line % 2 ^ 44 % Config.dieWindow)

/-- The moons of a slice of a die (R77). -/
def State.moonsIn (s : State) (die slice : Nat) : List (Nat × Nat) := s.moons.filter (fun p => p.2 == die && sliceOf (64 * p.1) == slice)
/-- The far moons of a slice of a die: one stands in slice s of die h(off) of its local bits (R75, R82). -/
def State.farMoonsIn (s : State) (die slice : Nat) : Map (Nat × V512) := s.farMoons.filter (fun p => farMoonDie p.1 == die && sliceOf (64 * p.1) == slice)

/-- A slice that is to take one more copy, and holds as many as it has lines, evicts its oldest: of the kind that comes, or of the other where it has
none (01: R17; R77, R82; assumption 55). -/
def State.makeRoom (s : State) (die slice : Nat) (far : Bool) : State :=
  let ms := s.moonsIn die slice
  let fs := s.farMoonsIn die slice
  if ms.length + fs.length < Config.sliceLines then s
  else match ms, fs with
    | [], [] => s
    | m :: _, [] => { s with moons := s.moons.erase m }
    | [], f :: _ => { s with farMoons := s.farMoons.filter (fun p => p.1 != f.1) }
    | m :: _, f :: _ => if far then { s with farMoons := s.farMoons.filter (fun p => p.1 != f.1) } else { s with moons := s.moons.erase m }

/-- A moon enters its slice (R77). -/
def State.addMoon (s : State) (line die : Nat) : State :=
  let s1 := s.makeRoom die (sliceOf (64 * line)) false
  { s1 with moons := s1.moons ++ [(line, die)] }

/-- A far moon enters its slice, in place of one of the same line (R82). -/
def State.addFarMoon (s : State) (line pos : Nat) (value : V512) : State :=
  let s1 := State.makeRoom { s with farMoons := s.farMoons.filter (fun p => p.1 != line) } (farMoonDie line) (sliceOf (64 * line)) true
  { s1 with farMoons := Map.set (0, 0#512) s1.farMoons line (pos, value) }

/-- A slice evicts the moon of a line on a die silently, and the home is told; with no die, the far moon of a line (R77, R82). -/
def State.evict (s : State) (line : Nat) (die : Option Nat) : State :=
  match die with
  | some d => { s with moons := s.moons.filter (fun p => p != (line, d)) }
  | none => { s with farMoons := s.farMoons.filter (fun p => p.1 != line) }

/-- A read of a line by a die that does not hold it: the counts of its region, a moon filled where the nearest member
is not the home, and the die that serves it. A host line is then held in S, unless it was in E or M (12: R221; assumption 75). -/
def State.serveRead (s : State) (die line : Nat) : State × Nat :=
  if isHostKey (64 * line) then (if s.ownsLine line then s else s.setMesi [line] 1, s.keyDie (64 * line))
  else
    let h := s.homeDie (64 * line)
    let r := regionOf (64 * line)
    let by_ := servingDie die h (degreeOf (Map.get Region.reset s.regions r).deg)
    let held := s.moons.contains (line, by_)
    let count := fun (g : Region) =>
      let g1 := if die = h then g else { g with rr := g.rr + 1 }
      if by_ = h then g1 else if held then { g1 with hits := sat48 g1.hits 1 } else { g1 with fills := sat48 g1.fills 1 }
    let s1 : State := { s with regions := Map.upd Region.reset s.regions r count }
    (if by_ = h || held then s1 else s1.addMoon line by_, by_)

/-- An engine of a cell has read lines of this module: each is one read by the cell's die (R78, R79), which recalls it from a
holder that has it dirty (R74). -/
def State.serveLines (s : State) (cell : Nat) (lines : List Nat) : State :=
  ((dedup lines).foldl (fun k l => (k.serveRead (dieOf cell) l).1) s).recallAll (dedup lines)

/-! ## The instruction cache (R66; 03: R65) -/

/-- Fill a line of the issuing thread's core's instruction cache from the home or a moon; the oldest of a full cache goes. -/
def State.fillCode (s : State) (line tag : Nat) : State :=
  let now := BitVec.ofNat 512 (leNat (s.bytesAt (64 * line) 64))
  let p := s.serveRead (dieOf s.myCell) line
  let s0 := if p.2 = dieOf s.myCell then p.1 else p.1.addDelay s.th.core p.2
  let s1 := if !isHostKey (64 * line) && p.2 != s.homeDie (64 * line) then s0.perf s.th.core 0x11 1 else s0
  (s1.recall line none none).updCore s.th.core (fun c =>
    let rest := c.icache.filter (fun h => h.line != line)
    { c with icache := rest.drop (rest.length + 1 - Config.codeLines) ++ [{ line := line, tag := tag, data := now }] })

/-- The bytes of a line that a fetch finds by its virtual tag, without a translation (05: R88): a store to code that the cache holds may or
may not be fetched (R65), which a free value says (assumption 5); a fetch of the store goes to the line again. -/
def State.codeHit (s : State) (tag : Nat) : State × Option (List Byte) :=
  match (s.core s.th.core).icache.find? (fun h => h.tag == tag) with
  | none => (s, none)
  | some h =>
    if leBytes 64 h.data.toNat = s.bytesAt (64 * h.line) 64 then (s, some (leBytes 64 h.data.toNat))
    else
      let s1 : State := { s with free := s.free + 1 }
      if bit (Config.freeWord s.free) 0 then (s1, some (leBytes 64 h.data.toNat)) else (s1, none)

/-- The instruction caches of a cell's cores are invalidated (R65). -/
def State.dropCode (s : State) (cell : Nat) : State :=
  [2 * cell, 2 * cell + 1].foldl (fun k c => k.updCore c (fun q => { q with icache := [] })) s

end Sys2Proof.Machine
end

