-- ==== Sys2Proof/WellFormed.lean ====
section
/-! DEFINITION. Which decoded words carry only assigned codes (15: R265 to R270, 06: R104, R109): the
checks that need nothing but the word. A word that fails one raises ILLEGAL in its instruction's meaning. -/
namespace Sys2Proof

/-- A rounding field of an instruction that takes no stochastic rounding (R109, R265). -/
def rmPlainOk (r : BitVec 3) : Bool := r != 5#3 && r != 6#3

/-- A rounding field of an instruction that accepts stochastic rounding (R109). -/
def rmSrOk (r : BitVec 3) : Bool := r != 6#3

/-- An operand format code of R104 that is not reserved. -/
def fmtOk (f : BitVec 5) : Bool := f.toNat < 0x1C

/-- A format code with the VT or the MX32 scale scheme (R104). -/
def fmtVtOrMx (f : BitVec 5) : Bool := 0x0C ≤ f.toNat && f.toNat ≤ 0x18

/-- The FCVT source and destination codes of R315: `t` is the rs2 field, `c` the cl field. -/
def fcvtOk (t : BitVec 5) (c : BitVec 2) : Bool :=
  match c.toNat with
  | 0 => 1 ≤ t.toNat && t.toNat ≤ 5
  | 1 => t.toNat == 0 || (2 ≤ t.toNat && t.toNat ≤ 5)
  | _ => t.toNat == 0 || t.toNat == 1 || t.toNat == 8 || t.toNat == 9

/-- The user CSR numbers of R272. -/
def csrAssigned (c : BitVec 12) : Bool :=
  [0x000, 0x001, 0x002, 0x010, 0x011, 0x012, 0x020, 0x021, 0x022, 0x023, 0x024, 0x030, 0x031, 0x032,
   0x040, 0x041, 0x050, 0x060, 0x070, 0x071, 0x072, 0x073, 0x080].contains c.toNat

/-- The supervisor CSR numbers that are not reserved (R272). -/
def csrSupervisor (c : BitVec 12) : Bool := c.toNat == 0x800 || c.toNat == 0x801

/-- The word-only checks of the CSR instructions (R273, R301): a zero rd under NORD, an assigned number. -/
def csrFormOk (d : BitVec 5) (n : BitVec 1) (c : BitVec 12) : Bool :=
  (n == 0#1 || d == 0#5) && (csrAssigned c || csrSupervisor c)

/-- The copy command's word-only checks (R143). -/
def cpyOk (c : BitVec 5) (k : BitVec 2) (n : BitVec 4) (w : BitVec 2) : Bool :=
  w != 3#2 && !(k == 2#2 && 7 < n.toNat) && !(k == 0#2 && n != 0#4) && !(k == 3#2 && n != 0#4) &&
  !(k != 3#2 && c != 0#5)

/-- The gathered copy's word-only checks (R143). -/
def cpygOk (k : BitVec 2) (n : BitVec 4) : Bool :=
  k != 3#2 && !(k == 2#2 && 7 < n.toNat) && !(k == 0#2 && n != 0#4)

/-- MDRAIN's word-only checks (R137): mode, ring field, format code by mode, rounding. -/
def mdrainOk (m : BitVec 3) (a f : BitVec 5) (r : BitVec 3) : Bool :=
  m != 7#3 && !(m == 1#3 && 15 < a.toNat) && fmtOk f && rmSrOk r &&
  !(f == 0x19#5 || f == 0x1A#5) && !(fmtVtOrMx f && m != 1#3) &&
  !((m == 3#3 || m == 4#3 || m == 5#3 || m == 6#3) && !(f == 0x0B#5 || f == 0x0A#5 || f == 0x09#5))

/-- An instruction whose word carries only assigned codes. -/
def Instr.wf (i : Instr) : Bool :=
  match i with
  | .fadd _ _ _ _ r | .fsub _ _ _ _ r | .fmul _ _ _ _ r | .fdiv _ _ _ _ r => rmPlainOk r
  | .fsqrt _ _ _ r => rmPlainOk r
  | .fcvt _ _ t c r => rmPlainOk r && fcvtOk t c
  | .fma _ _ _ _ _ r | .fms _ _ _ _ _ r | .fnma _ _ _ _ _ r => rmPlainOk r
  | .vldc _ _ _ _ f _ | .vstc _ _ _ _ f _ => fmtOk f
  | .vcmp _ _ _ _ _ c => c.toNat ≤ 5
  | .vcvt _ _ s t r _ => fmtOk s && fmtOk t && rmSrOk r
  | .mma _ a b _ s _ _ _ | .mmas _ a b _ s _ _ _ => s != 3#2 && a != b
  | .mdrain _ m a _ f r _ => mdrainOk m a f r
  | .cpy c _ _ k n w => cpyOk c k n w
  | .cpyg _ _ _ k n => cpygOk k n
  | .fence s => s.toNat ≤ 2
  | .rdid _ s => s.toNat ≤ 7
  | .csrrw d _ n c | .csrrc d _ n c | .csrrwi d _ n c | .csrrsi d _ n c | .csrrci d _ n c => csrFormOk d n c
  | .csrrs d a n o c => csrFormOk d n c && !(o == 1#1 && (a != 0#5 || n == 1#1))
  | _ => true

end Sys2Proof
end

