-- ==== Sys2Proof/Machine/Operands.lean ====
section
/-! DEFINITION. Operand forms: immediates and targets (15: R263), vector elements and masks (R271, R274), and the
user and supervisor CSRs (R272, R301). -/
namespace Sys2Proof.Machine

/-! ## Immediates -/

/-- imm15, sign-extended (R263). -/
def imm15 (i : BitVec 15) : W64 := i.signExtend 64
/-- The effective address base + sext(imm15) (R263, R274). -/
def State.ea (s : State) (a : Reg) (i : BitVec 15) : W64 := s.x a + imm15 i
/-- The effective address of VM-a: off12 counts 64-byte units (R263). -/
def State.ea12 (s : State) (a : Reg) (o : BitVec 12) : W64 := s.x a + o.signExtend 64 * 64
/-- A branch target: pc + 4 × sext(off15). -/
def State.target15 (s : State) (o : BitVec 15) : W64 := s.th.arch.pc + o.signExtend 64 * 4
/-- A jump target: pc + 4 × sext(off20). -/
def State.target20 (s : State) (o : BitVec 20) : W64 := s.th.arch.pc + o.signExtend 64 * 4
/-- sext(imm20) × 4,096 (R263). -/
def imm20 (i : BitVec 20) : W64 := i.signExtend 64 * 4096
/-- The low word, sign-extended. -/
def low32s (v : W64) : W64 := (v.setWidth 32).signExtend 64

/-! ## Vector elements -/

/-- Element `i` of `w` bytes (R274: lane). -/
def lane (v : V512) (w i : Nat) : Nat := nbits v.toNat (8 * w * (i + 1) - 1) (8 * w * i)
/-- Every element of `w` bytes. -/
def lanes (v : V512) (w : Nat) : List Nat := (countFrom 0 (64 / w)).map (lane v w)
/-- A vector of elements of `w` bytes, element 0 first. -/
def ofLanes (w : Nat) : List Nat → Nat
  | [] => 0
  | e :: es => e % 2 ^ (8 * w) + 2 ^ (8 * w) * ofLanes w es
/-- A vector register of elements. -/
def vec (w : Nat) (es : List Nat) : V512 := BitVec.ofNat 512 (ofLanes w es)
/-- Element `i` of `w` bytes is active under mask `k` (R271). -/
def active (k : W64) (w i : Nat) : Bool := k.getLsbD (i * w)
/-- Elements where active, the old ones elsewhere. -/
def blend (k : W64) (w : Nat) (old new : List Nat) : List Nat :=
  ((countFrom 0 (64 / w)).zip (old.zip new)).map (fun p => if active k w p.1 then p.2.2 else p.2.1)
/-- Bytes of an element type code of VINT (R266) or of et (R263). -/
def etBytes (t : BitVec 2) : Nat := 2 ^ t.toNat
/-- The bytes of a vector register. -/
def vbytes (v : V512) : List Byte := leBytes 64 v.toNat
/-- A vector register of bytes. -/
def ofBytes (bs : List Byte) : V512 := BitVec.ofNat 512 (leNat bs)

/-! ## CSRs -/

/-- Bits of FCSR that are not reserved (06: R114). -/
def fcsrMask : W64 := 0x171F
/-- Bits of REPCNT that are not reserved (02: R36). -/
def repcntMask : W64 := 0x80FFF000FFFFFFFF
/-- Bits of CVH that are not reserved (10: R179). -/
def cvhMask : W64 := 0x8000FFFFFFFFFFFF
/-- Bits of the module identifier that are not reserved (01: R24). -/
def moduleIdMask : BitVec 16 := 0xFFFC
/-- Bits of SEGTAB that are not reserved (05: R85). -/
def segtabMask : W64 := 0xFFFF0FFFFFFFFFF0

/-- GTOL (10: R193). -/
def State.gtol (s : State) : W64 :=
  match s.myGang with
  | some g => if g.launch.guarded then g.launch.gtol.setWidth 64 else 0
  | none => 0

/-- The value a CSR reads (R272). -/
def State.csrRead (s : State) (c : Nat) : W64 :=
  match c with
  | 0x000 => s.th.arch.fcsr
  | 0x001 => s.th.arch.srseed
  | 0x002 => s.th.arch.mstat
  | 0x010 => s.th.wid
  | 0x011 => BitVec.ofNat 64 s.th.rank
  | 0x012 => BitVec.ofNat 64 (s.th.gang.getD 0)
  | 0x020 => s.th.trapvec
  | 0x021 => s.th.trappc
  | 0x022 => s.th.trapcause
  | 0x023 => s.th.trapval
  | 0x024 => s.th.asyncerr
  | 0x030 => s.th.chunkcfg
  | 0x031 => s.th.chunks
  | 0x032 => s.th.squashes
  | 0x040 => s.th.cvh
  | 0x041 => s.gtol
  | 0x050 => s.th.arch.step
  | 0x060 => s.th.arch.repcnt
  | 0x070 => Map.get 0 s.th.arch.fmtctx 0
  | 0x071 => Map.get 0 s.th.arch.fmtctx 1
  | 0x072 => Map.get 0 s.th.arch.fmtctx 2
  | 0x073 => Map.get 0 s.th.arch.fmtctx 3
  | 0x080 => 32
  | 0x800 => (s.core s.th.core).segtab
  | 0x801 => (s.core s.th.core).ptroot
  | _ => 0

/-- CSRs a program may write (R272). -/
def csrWritable (c : Nat) : Bool :=
  [0x000, 0x001, 0x002, 0x020, 0x021, 0x024, 0x030, 0x040, 0x060, 0x070, 0x071, 0x072, 0x073, 0x800, 0x801].contains c
/-- CSR writes of cutting class (R272, R301). -/
def csrCutting (c : Nat) : Bool := [0x020, 0x021, 0x024, 0x030, 0x040].contains c || decide (0x800 ≤ c)

/-- FMTCTXn := v, reserved bits zero (07: R132). -/
def Arch.setFmt (a : Arch) (n : Nat) (v : W64) : Arch := { a with fmtctx := Map.set 0 a.fmtctx n (v &&& 0xFFF) }

/-- LIMLOG as stored (R38). -/
def limlogStored (v : W64) : Nat := clampNat (fld v 3 0) 8 13

/-- Write a CSR with the word applied; reserved and RO fields keep their values (R6, R301). PTROOT is written by the
root monitor alone: a thread's write is ignored and logged (05: R88). -/
def State.csrWrite (s : State) (c : Nat) (v : W64) : State :=
  match c with
  | 0x000 => s.updArch (fun a => { a with fcsr := v &&& fcsrMask })
  | 0x001 => s.updArch (fun a => { a with srseed := v, srcount := 0 })
  | 0x002 => s.updArch (fun a => { a with mstat := v &&& 7 })
  | 0x020 => s.updTh (fun t => { t with trapvec := v })
  | 0x021 => s.updTh (fun t => { t with trappc := v })
  | 0x024 => s.updTh (fun t => { t with asyncerr := t.asyncerr &&& ~~~(v &&& 0xC000000000000000) })
  | 0x030 => s.updTh (fun t => { t with limlog := limlogStored v, curlog := limlogStored v, sqcnt := 0 })
  | 0x040 => s.updTh (fun t => { t with cvh := v &&& cvhMask })
  | 0x060 => s.updArch (fun a => { a with repcnt := v &&& repcntMask })
  | 0x070 => s.updArch (fun a => a.setFmt 0 v)
  | 0x071 => s.updArch (fun a => a.setFmt 1 v)
  | 0x072 => s.updArch (fun a => a.setFmt 2 v)
  | 0x073 => s.updArch (fun a => a.setFmt 3 v)
  | 0x800 => s.updCore s.th.core (fun k => { k with segtab := v &&& segtabMask })
  | 0x801 => { s with service := { s.service with errlog := s.service.errlog ++ [0x801] } }
  | _ => s

end Sys2Proof.Machine
end

