-- ==== Sys2Proof/Machine/DebugOps.lean ====
section
/-! DEFINITION. The debug module's operations and the per-core window (14: R242 to R253). -/
namespace Sys2Proof.Machine

/-- A context occupies a slot of the core. -/
def Thread.occupies (t : Thread) (core : Nat) : Bool :=
  t.core == core && t.slot.isSome && t.st != .vacant && t.st != .exited

/-- HALTED: every occupied slot is STOPPED or has a stop pending (R244). -/
def State.halted (s : State) (core : Nat) : Bool :=
  (s.core core).dbg.halt && (s.allThreads.filter (fun t => t.occupies core)).all (fun t => t.st == .stopped || t.st == .parked || t.st == .faultWait)

/-- The context of a slot. -/
def State.slotTid (s : State) (core slot : Nat) : Option Thread :=
  s.allThreads.find? (fun t => t.occupies core && t.slot == some slot)

/-- Slots of a core for which a test holds, one bit each. -/
def State.slotBits (s : State) (core : Nat) (p : Thread → Bool) : Nat :=
  ((countFrom 0 16).filter (fun k => match s.slotTid core k with | some t => p t | none => false)).foldl (fun a k => a + 2 ^ k) 0

/-- DBGSTAT (R243). -/
def State.dbgstat (s : State) (core : Nat) : W64 :=
  let d := (s.core core).dbg
  let q := Nat.min d.msgs.length 256
  BitVec.ofNat 64 ((if s.halted core then 2 ^ 63 else 0) + (if q = 256 then 2 ^ 62 else 0) + q * 2 ^ 53 +
    d.hunit % 8 * 2 ^ 40 + d.hslot % 16 * 2 ^ 36 + d.hcause % 16 * 2 ^ 32 +
    s.slotBits core (fun t => t.st == .stopped) * 2 ^ 16 +
    s.slotBits core (fun t => (t.st == .parked || t.st == .faultWait) && (d.halt || t.stopPending)))

/-- HALT := 1 (R244): every thread of the core stops before its next issue; parked and faulted ones have a stop pending. -/
def State.dbgHalt (s : State) (core : Nat) : State := s.updDbg core (fun d => { d with halt := true, hcause := 1 })

/-- A wake reaches a context: a faulted one reissues, or takes PAGE where the fault was unresolvable (05: R92); a parked
one issues its instruction again. -/
def State.deliver (s : State) (tid : Nat) : State :=
  match s.findTid tid with
  | some t =>
    if t.st = .faultWait then s.onThread tid (fun k => k.atBoundary (if t.faultBad then .trap .page t.faultVa else .reissue))
    else s.wake tid false
  | none => s

/-- HALT := 0 (R244, R245): STOPPED threads run, and queued messages apply in order. -/
def State.dbgResume (s : State) (core : Nat) : State :=
  let msgs := (s.core core).dbg.msgs
  let s1 := s.updDbg core (fun d => { d with halt := false, msgs := [] })
  let s2 := s1.mapThreads (fun t =>
    if t.occupies core then { t with stopPending := false, stepping := false, st := if t.st = .stopped then .runnable else t.st } else t)
  msgs.foldl State.deliver s2

/-- STEP (R247): slot SSLOT runs for one instruction; ignored while HALTED = 0. -/
def State.dbgStep (s : State) (core : Nat) : State :=
  if s.halted core then
    match s.slotTid core (s.core core).dbg.sslot with
    | some t => if t.st = .stopped then s.updTid t.tid (fun u => { u with st := .runnable, stepping := true }) else s
    | none => s
  else s

/-- Read a register for DACC into doublewords: FILE and IDX (R246). None where reserved. -/
def State.daccRead (s : State) (file idx : Nat) : Option (List W64) :=
  match file with
  | 0 => if idx < 32 then some [s.th.arch.getX idx] else none
  | 1 => if idx < 32 then some ((countFrom 0 8).map (fun i => BitVec.ofNat 64 (lane (s.th.arch.getV idx) 8 i))) else none
  | 2 => if idx < 8 then some [s.th.arch.getM idx] else none
  | 3 => if idx = 0 then some [s.th.arch.pc] else none
  | 4 => if (csrAssigned (BitVec.ofNat 12 idx) || csrSupervisor (BitVec.ofNat 12 idx)) then some [s.csrRead idx] else none
  | 5 => if idx < 8 then
      let g := (Map.get 0 s.th.seg idx).toNat
      some [BitVec.ofNat 64 g, BitVec.ofNat 64 (g / 2 ^ 64)] else none
  | _ => none

/-- Write a register for DACC (R246); writes to x0 and RO fields are ignored. A segment register takes all 128 bits as written
(assumption 75). -/
def State.daccWrite (s : State) (file idx : Nat) (d : List W64) : State :=
  let w := d.headD 0
  match file with
  | 0 => s.updArch (·.setX idx w)
  | 1 => s.updArch (·.setV idx (vec 8 (d.map BitVec.toNat)))
  | 2 => s.updArch (·.setM idx w)
  | 3 => s.updArch (fun a => { a with pc := w })
  | 4 => if csrWritable idx then s.csrWrite idx w else s
  | 5 => s.updTh (fun t => { t with seg := Map.set 0 t.seg idx (BitVec.ofNat 128 (w.toNat + (d.getD 1 0).toNat * 2 ^ 64)) })
  | _ => s

/-- DACC with GO = 1 (R246): access the register of a STOPPED thread, or set ERR. -/
def State.daccGo (s : State) (core : Nat) : State :=
  let d := (s.core core).dbg
  let err := fun (k : State) (b : Bool) => k.updDbg core (fun g => { g with dacc := setFld g.dacc 61 61 (if b then 1 else 0) })
  match s.slotTid core (fld d.dacc 19 16) with
  | none => err s true
  | some t =>
    if t.st ≠ .stopped then err s true
    else match (s.focus t.tid).bind (fun k => k.daccRead (fld d.dacc 15 12) (fld d.dacc 11 0)) with
      | none => err s true
      | some ws =>
        if bit d.dacc 62 then
          err (s.onThread t.tid (fun k => k.daccWrite (fld d.dacc 15 12) (fld d.dacc 11 0) ((countFrom 0 8).map (Map.get 0 d.ddata)))) false
        else
          err (s.updDbg core (fun g => { g with ddata := ws.zipIdx.foldl (fun m p => Map.set 0 m p.2 p.1) g.ddata })) false

/-- CLR bit 0: counters, TENA and TRUN (R253). -/
def State.clearCounters (s : State) (core : Nat) : State := s.updDbg core (fun d => { d with count := [], trun := [], tena := 0 })
/-- CLR bit 1: the stall counters. -/
def State.clearStall (s : State) (core : Nat) : State := s.updDbg core (fun d => { d with stall := [] })
/-- CLR bit 2: the delay accumulators. -/
def State.clearDelay (s : State) (core : Nat) : State := s.updDbg core (fun d => { d with dsum := [], dcnt := [] })
/-- CLR bit 3: the RAS counters. -/
def State.clearRas (s : State) (core : Nat) : State :=
  s.updDbg core (fun d => { d with corr := 0, sesq := 0, latent := 0, poisc := 0, skip := 0 })
/-- CLR bit 4: TRLOST. -/
def State.clearTrlost (s : State) (core : Nat) : State := s.updDbg core (fun d => { d with trlost := 0 })

/-- Read a doubleword of a core's window (R242): unlisted offsets read as zero. -/
def State.windowRead (s : State) (core off : Nat) : W64 :=
  let d := (s.core core).dbg
  if off = 0x000 then BitVec.ofNat 64 ((if d.halt then 2 ^ 63 else 0) + d.sslot)
  else if off = 0x008 then s.dbgstat core
  else if off = 0x010 then d.dacc
  else if 0x040 ≤ off ∧ off < 0x080 then Map.get 0 d.ddata ((off - 0x040) / 8)
  else if 0x080 ≤ off ∧ off < 0x100 then
    let u := Map.get DbgUnit.bpReset d.bp ((off - 0x080) / 16)
    if off % 16 = 0 then u.addr else u.ctl
  else if 0x100 ≤ off ∧ off < 0x140 then
    let u := Map.get DbgUnit.wpReset d.wp ((off - 0x100) / 16)
    if off % 16 = 0 then u.addr else u.ctl
  else if off = 0x180 then d.trctl
  else if off = 0x188 then d.trbase
  else if off = 0x190 then BitVec.ofNat 64 d.trptr
  else if off = 0x198 then d.trlost
  else if off = 0x200 then d.pmctl
  else if off = 0x208 then d.orbit
  else if off = 0x210 then d.tena
  else if 0x240 ≤ off ∧ off < 0x260 then Map.get 0 d.evsel ((off - 0x240) / 8)
  else if 0x300 ≤ off ∧ off < 0x500 then
    let k := (off - 0x300) / 16
    if off % 16 = 0 then Map.get 0 d.count k else Map.get 0 d.trun k
  else if 0x600 ≤ off ∧ off < 0xA00 then Map.get 0 d.stall ((off - 0x600) / 8)
  else if 0xA00 ≤ off ∧ off < 0xC80 then
    let k := (off - 0xA00) / 16
    if off % 16 = 0 then Map.get 0 d.dsum k else Map.get 0 d.dcnt k
  else if off = 0xE00 then d.corr
  else if off = 0xE08 then d.sesq
  else if off = 0xE10 then d.latent
  else if off = 0xE18 then d.poisc
  else if off = 0xE20 then d.skip
  else 0

/-- WPCTL as stored: SZLOG below 3 stores 3, above 32 stores 32 (R249). -/
def wpctlStored (v : W64) : W64 := setFld (v &&& 0xF000FFFF0000003F) 5 0 (clampNat (fld v 5 0) 3 32)

/-- A plain write of a register of the window, without the actions of DBGCTL, DACC.GO and CLR (R7, R243 to R253). -/
def Debug.windowStore (d : Debug) (off : Nat) (v : W64) : Debug :=
  if off = 0x000 then { d with sslot := fld v 3 0 }
  else if off = 0x010 then { d with dacc := (v &&& 0x40000000000FFFFF) ||| (d.dacc &&& 0x2000000000000000) }
  else if 0x040 ≤ off ∧ off < 0x080 then { d with ddata := Map.set 0 d.ddata ((off - 0x040) / 8) v }
  else if 0x080 ≤ off ∧ off < 0x100 then
    { d with bp := Map.upd DbgUnit.bpReset d.bp ((off - 0x080) / 16) (fun u =>
        if off % 16 = 0 then { u with addr := v &&& 0x1FFFFFFFFFFFFFFC } else { u with ctl := v &&& 0xE000FFFFFFFFFFFF }) }
  else if 0x100 ≤ off ∧ off < 0x140 then
    { d with wp := Map.upd DbgUnit.wpReset d.wp ((off - 0x100) / 16) (fun u =>
        if off % 16 = 0 then { u with addr := v &&& 0x01FFFFFFFFFFFFFF } else { u with ctl := wpctlStored v }) }
  else if off = 0x180 then { d with trctl := v &&& 0xC00000000FF0FFFF }
  else if off = 0x188 then { d with trbase := v &&& 0x00000FFFFFFFF000 }
  else if off = 0x200 then { d with pmctl := v &&& 0x8000000000000003 }
  else if off = 0x208 then { d with orbit := BitVec.ofNat 64 (clampNat (fld v 31 0) 10 1000000) }
  else if off = 0x210 then { d with tena := v }
  else if 0x240 ≤ off ∧ off < 0x260 then { d with evsel := Map.set 0 d.evsel ((off - 0x240) / 8) v }
  else if 0x300 ≤ off ∧ off < 0x500 then
    let k := (off - 0x300) / 16
    if off % 16 = 0 then { d with count := Map.set 0 d.count k v } else { d with trun := Map.set 0 d.trun k v }
  else d

/-- Clear the groups CLR names (R253). -/
def State.windowClear (s : State) (core : Nat) (v : W64) : State :=
  let s1 := if bit v 0 then s.clearCounters core else s
  let s2 := if bit v 1 then s1.clearStall core else s1
  let s3 := if bit v 2 then s2.clearDelay core else s2
  let s4 := if bit v 3 then s3.clearRas core else s3
  if bit v 4 then s4.clearTrlost core else s4

/-- An orbit in units of the timebase (R253). -/
def Debug.orbitUnits (d : Debug) : Nat := fld d.orbit 31 0 * Config.usUnits

/-- Orbits of the core that have ended since the last rotation. -/
def State.orbitsDue (s : State) (core : Nat) : Nat :=
  let d := (s.core core).dbg
  (s.time.up - d.orbitAt) / d.orbitUnits

/-- Rotate the counter set once for each orbit that has ended; a new one begins where the last has ended (R253). -/
def State.rotateSet (s : State) (core : Nat) : State :=
  let n := s.orbitsDue core
  if n = 0 then s
  else s.updDbg core (fun d => { d with curSet := (d.curSet + n) % (fld d.pmctl 1 0 + 1), orbitAt := d.orbitAt + n * d.orbitUnits })

/-- Write a doubleword of a core's window, with what the write does (R242 to R253). -/
def State.windowWrite (s : State) (core off : Nat) (v : W64) : State :=
  -- orbits that have ended count under the old PMCTL and ORBIT
  let s1 := (s.rotateSet core).updDbg core (·.windowStore off v)
  if off = 0x000 then
    let was := (s.core core).dbg.halt
    let s2 := if bit v 63 then (if was then s1 else s1.dbgHalt core) else (if was then s1.dbgResume core else s1)
    if bit v 62 then s2.dbgStep core else s2
  else if off = 0x010 then (if bit v 63 then s1.daccGo core else s1)
  else if off = 0xF00 then s1.windowClear core v
  else s1

/-- An enabled breakpoint that matches the issuing thread's pc: its number and ACT (R248). -/
def State.bpMatch (s : State) (n : Nat) : Option (Nat × Bool) :=
  let u := Map.get DbgUnit.bpReset (s.core s.th.core).dbg.bp n
  if bit u.ctl 63 && bit u.ctl (32 + s.th.slotNo) && u.addr == s.th.arch.pc &&
      (!bit u.ctl 61 || (s.th.act && fld s.th.arch.repcnt 31 0 == fld u.ctl 31 0))
  then some (n, bit u.ctl 62) else none

/-- A watchpoint that matches an access of `n` bytes at `va` (R249). -/
def State.wpMatch (s : State) (va n : Nat) (ld st : Bool) (k : Nat) : Option (Nat × Bool) :=
  let u := Map.get DbgUnit.wpReset (s.core s.th.core).dbg.wp k
  let size := 2 ^ fld u.ctl 5 0
  let lo := u.addr.toNat / size * size
  if bit u.ctl 63 && bit u.ctl (32 + s.th.slotNo) && ((ld && bit u.ctl 61) || (st && bit u.ctl 60)) &&
      decide (va < lo + size) && decide (lo < va + n)
  then some (k, bit u.ctl 62) else none

/-- What a set of matches does (R250): a stop if any unit has ACT = 0, else BREAK outside a handler; the lowest unit is
recorded, breakpoints first. -/
def pickHit (inh : Bool) (bps wps : List (Nat × Bool)) : Option After :=
  let eff := fun (l : List (Nat × Bool)) => l.filter (fun p => !(p.2 && inh))
  let b := eff bps
  let w := eff wps
  let brk := (b ++ w).all (·.2)
  match b.head?, w.head? with
  | some p, _ => some (.hit 2 p.1 brk)
  | none, some p => some (.hit 3 p.1 brk)
  | none, none => none

end Sys2Proof.Machine
end

