-- ==== Sys2Proof/Machine/Mmio.lean ====
section
/-! DEFINITION. The MMIO registers of a module and the firewall before them (11: R207; 12: R217; 13: R226; 14: R242). -/
namespace Sys2Proof.Machine

/-- The code of a discipline state (R207). -/
def TbState.code : TbState → Nat | .freerun => 0 | .acquiring => 1 | .locked => 2 | .holdover => 3

/-- TBSTAT (R207). -/
def State.tbstat (s : State) : W64 :=
  BitVec.ofNat 64 (s.time.st.code * 2 ^ 62 + s.time.src % 4 * 2 ^ 56 + s.time.offs.toNat)

/-- A slot-table entry is open at timebase `t` (R217). -/
def Slot.openAt (e : Slot) (t : W64) : Bool :=
  e.valid && decide (e.start.toNat ≤ t.toNat) &&
  decide ((if e.period = 0 then t.toNat - e.start.toNat else (t.toNat - e.start.toNat) % e.period.toNat) < e.len.toNat)

/-- Doubleword `k` of a slot-table entry (R217). -/
def Slot.word (e : Slot) (k : Nat) : W64 :=
  if k = 0 then BitVec.ofNat 64 ((if e.valid then 2 ^ 63 else 0) + e.dest.toNat)
  else if k = 1 then e.start else if k = 2 then e.len else e.period

/-- Replace doubleword `k` of an entry. -/
def Slot.setWord (e : Slot) (k : Nat) (v : W64) : Slot :=
  if k = 0 then { e with valid := bit v 63, dest := v.setWidth 16 }
  else if k = 1 then { e with start := v } else if k = 2 then { e with len := v } else { e with period := v }

/-- The end of the slot of an entry that was begun last by timebase `t` (R217). -/
def Slot.endOf (e : Slot) (t : W64) : Nat :=
  e.start.toNat + (if e.period = 0 then 0 else (t.toNat - e.start.toNat) / e.period.toNat * e.period.toNat) + e.len.toNat

/-- Write a doubleword of the slot table: at once, or at the end of the slot that is open under the entry's old contents (R217). A further
doubleword of an entry that waits joins it. -/
def State.slotWrite (s : State) (i k : Nat) (v : W64) : State :=
  let old := Map.get Slot.reset s.fabric.slots i
  let rest := s.fabric.slotWrites.filter (fun p => p.1 != i)
  match s.fabric.slotWrites.find? (fun p => p.1 == i) with
  | some p => { s with fabric := { s.fabric with slotWrites := (i, p.2.1.setWord k v, p.2.2) :: rest } }
  | none =>
    if old.openAt s.time.now then { s with fabric := { s.fabric with slotWrites := (i, old.setWord k v, old.endOf s.time.now) :: rest } }
    else { s with fabric := { s.fabric with slots := Map.set Slot.reset s.fabric.slots i (old.setWord k v) } }

/-- Read a doubleword of the MMIO range; none where no register stands (assumption 10). -/
def State.mmioRead (s : State) (pa : Nat) : Option W64 :=
  if pa = Config.tbstatPa then some s.tbstat
  else if Config.slotTablePa ≤ pa ∧ pa < Config.slotTablePa + 8192 then
    let o := pa - Config.slotTablePa
    some ((Map.get Slot.reset s.fabric.slots (o / 32)).word (o % 32 / 8))
  else if Config.firewallPa ≤ pa ∧ pa < Config.firewallPa + 4096 then
    let o := pa - Config.firewallPa
    let r := Map.get FwRule.reset s.service.firewall (o / 16)
    some (if o % 16 = 0 then r.lo else r.hi)
  else if Config.corePa ≤ pa ∧ pa < Config.corePa + 4096 * 4096 then
    some (s.windowRead ((pa - Config.corePa) / 4096) ((pa - Config.corePa) % 4096))
  else none

/-- Write a doubleword of the MMIO range; none is an error response: no register, or one the root monitor alone
writes (R225). -/
def State.mmioWrite (s : State) (i : Initiator) (pa : Nat) (v : W64) : Option State :=
  if pa = Config.tbstatPa then some s
  else if Config.slotTablePa ≤ pa ∧ pa < Config.slotTablePa + 8192 then
    let o := pa - Config.slotTablePa
    if i = .rootMonitor then some (s.slotWrite (o / 32) (o % 32 / 8) v) else none
  else if Config.firewallPa ≤ pa ∧ pa < Config.firewallPa + 4096 then
    let o := pa - Config.firewallPa
    let set := fun (r : FwRule) => if o % 16 = 0 then { r with lo := v &&& 0xFFFFFFFF } else { r with hi := v &&& 0xFE000000FFFFFFFF }
    if i = .rootMonitor then
      some { s with service := { s.service with firewall := Map.upd FwRule.reset s.service.firewall (o / 16) set } }
    else none
  else if Config.corePa ≤ pa ∧ pa < Config.corePa + 4096 * 4096 then
    some (s.windowWrite ((pa - Config.corePa) / 4096) ((pa - Config.corePa) % 4096) v)
  else none

/-- Registers that the root monitor alone writes: the slot table and the firewall (R225). -/
def rootOwned (pa : Nat) : Bool :=
  (decide (Config.slotTablePa ≤ pa) && decide (pa < Config.slotTablePa + 8192)) || (decide (Config.firewallPa ≤ pa) && decide (pa < Config.firewallPa + 4096))

/-- Read `n` bytes of one doubleword of MMIO through the firewall. -/
def State.mmioLoad (s : State) (i : Initiator) (pa n : Nat) : Option (List Byte) :=
  if s.permits i pa false then
    (s.mmioRead (pa / 8 * 8)).map (fun w => ((leBytes 8 w.toNat).drop (pa % 8)).take n)
  else none

/-- Write bytes into one doubleword of MMIO through the firewall; the doubleword's other bytes are written as they
read (assumption 10). -/
def State.mmioStore (s : State) (i : Initiator) (pa : Nat) (bs : List Byte) : Option State :=
  if s.permits i pa true then
    match s.mmioRead (pa / 8 * 8) with
    | none => none
    | some w =>
      let old := leBytes 8 w.toNat
      let new := old.take (pa % 8) ++ bs ++ old.drop (pa % 8 + bs.length)
      s.mmioWrite i (pa / 8 * 8) (BitVec.ofNat 64 (leNat (new.take 8)))
  else none

end Sys2Proof.Machine
end

