-- ==== Sys2Proof/Machine/Routes.lean ====
section
/-! DEFINITION. Routes of the fabric as this module sees them: partitions, directions, detours (01: R22; 12: R212 to R214;
21: R403). -/
namespace Sys2Proof.Machine

/-- A coordinate below `len` lies in a part of a torus, with wrap-around when it begins above its end (12: R212). -/
def inPart (len v lo hi : Nat) : Bool :=
  decide (v < len) && (if lo ≤ hi then decide (lo ≤ v) && decide (v ≤ hi) else decide (lo ≤ v) || decide (v ≤ hi))

/-- The module lies in this module's partition (R212). Where the register holds its four bounds is the model's choice (assumption 50). -/
def State.inPartition (s : State) (h : BitVec 16) : Bool :=
  let p := s.fabric.partition
  inPart s.service.zlen (nbits h.toNat 11 7) (fld p 4 0) (fld p 9 5) && inPart s.service.wlen (nbits h.toNat 6 2) (fld p 14 10) (fld p 19 15)

/-! ## Directions (R22, R212)

Directions are numbered as ports are grouped: 0 +X, 1 -X, 2 +Y, 3 -Y, 4 +Z, 5 -Z, 6 +W, 7 -W. -/

/-- The way along a mesh: whether it is +, and the hops; none when nothing is to go. -/
def meshLeg (a b : Nat) : Option (Bool × Nat) := if a < b then some (true, b - a) else if b < a then some (false, a - b) else none

/-- The way along a torus dimension of `len` positions of which the partition holds lo to hi: the shorter way round a whole
one, + on a tie, else along the partition's line (R212). -/
def ringLeg (a b lo hi len : Nat) : Option (Bool × Nat) :=
  let around := fun (x : Nat) => (x + len - lo % len) % len
  if a = b then none
  else if (hi + len - lo % len) % len + 1 = len then
    let up := (b + len - a % len) % len
    if up ≤ len - up then some (true, up) else some (false, len - up)
  else meshLeg (around a) (around b)

/-- The legs of the dimension-order route to a module: direction and hops. -/
def State.legs (s : State) (home : BitVec 16) : List (Nat × Nat) :=
  let f := fun (hi lo : Nat) => (nbits s.moduleId.toNat hi lo, nbits home.toNat hi lo)
  let x := f 15 14
  let y := f 13 12
  let z := f 11 7
  let w := f 6 2
  let p := s.fabric.partition
  let all := [(0, meshLeg x.1 x.2), (2, meshLeg y.1 y.2),
    (4, ringLeg z.1 z.2 (fld p 4 0) (fld p 9 5) s.service.zlen), (6, ringLeg w.1 w.2 (fld p 14 10) (fld p 19 15) s.service.wlen)]
  all.filterMap (fun q => q.2.map (fun l => (if l.1 then q.1 else q.1 + 1, l.2)))

/-- A port is up. -/
def State.portUp (s : State) (p : Nat) : Bool := Map.get 0 s.fabric.links p != 0
/-- A direction is up while any of its ports is (R214). -/
def State.dirUp (s : State) (d : Nat) : Bool := (countFrom (3 * d) 3).any s.portUp

/-- First directions of the routes of a class: any leg's for class A, the first leg's otherwise (R213). -/
def State.firstDirs (s : State) (home : BitVec 16) (cls : FabClass) : List Nat :=
  match (s.legs home).map (·.1) with
  | [] => []
  | d :: ds => if cls = .a then d :: ds else [d]

/-- Routing takes a direction: it is up, or has failed and routing has not reconverged since (R214). -/
def State.routed (s : State) (d : Nat) : Bool := s.dirUp d || s.fabric.falling.any (fun p => p.1 == d)

/-- The first directions of minimal routes of a class that routing takes (R213). -/
def State.ownDirs (s : State) (home : BitVec 16) (cls : FabClass) : List Nat := (s.firstDirs home cls).filter s.routed

/-- The direction of a detour round a failed X or Y link: the neighbouring row or column, + first (R214). -/
def State.detourDir (s : State) (d : Nat) : Option Nat :=
  (if d < 2 then [2, 3] else if d < 4 then [0, 1] else []).find? s.routed

/-- The directions by which transfers of a class leave, as routing stands: those of minimal routes, else the fixed detour of classes O and S,
which class A takes too (R213, R214, R403). -/
def State.leaveDirs (s : State) (home : BitVec 16) (cls : FabClass) : List Nat :=
  match s.ownDirs home cls with
  | [] => ((s.firstDirs home .o).head?.bind s.detourDir).toList
  | ds => ds

/-- No route reaches the module (R214). -/
def State.noRoute (s : State) (home : BitVec 16) (cls : FabClass) : Bool := home != s.moduleId && (s.leaveDirs home cls).isEmpty

/-- A transfer is held at its port while routing reconverges: every direction of its routes has failed (R214 step 2). -/
def State.routeHeld (s : State) (home : BitVec 16) (cls : FabClass) : Bool :=
  home != s.moduleId && !(s.leaveDirs home cls).isEmpty && (s.leaveDirs home cls).all (fun d => !s.dirUp d)

/-- When the last of some directions failed. -/
def State.failedAt (s : State) (ds : List Nat) : Nat := ((s.fabric.falling.filter (fun p => ds.contains p.1)).map (·.2)).foldl Nat.max 0

/-- It has been held for 100 µs, if it was handed over at `since` (R214). -/
def State.heldOut (s : State) (home : BitVec 16) (cls : FabClass) (since : Nat) : Bool :=
  s.routeHeld home cls && decide (Nat.max since (s.failedAt (s.leaveDirs home cls)) + 100 * Config.usUnits ≤ s.time.up)

/-- A transfer held since `since`, if it was held before, is still to be held: it fails 100 µs after it came to its port (R214). -/
def State.holds (s : State) (home : BitVec 16) (cls : FabClass) (since : Option Nat) : Bool :=
  s.routeHeld home cls && !since.any (s.heldOut home cls)

/-- Module hops of the route of a class (R210, R214): two more on a detour, and those of traffic to a spare. -/
def State.hops (s : State) (home : BitVec 16) (cls : FabClass) : Nat :=
  let plain := ((s.legs home).map (·.2)).foldl (· + ·) 0
  let extra := match s.fabric.spares.find? (fun p => p.1 == home) with | some p => p.2 | none => 0
  plain + extra + (if (s.ownDirs home cls).isEmpty && !(s.firstDirs home cls).isEmpty then 2 else 0)

end Sys2Proof.Machine
end

