-- ==== Sys2Proof/Machine/Homes.lean ====
section
/-! DEFINITION. Places at their homes: what stands there, who may act on it, and why a home does not answer (01: R24; 03: R51; 12: R214;
13: R226; 14: R258). -/
namespace Sys2Proof.Machine

/-- The place is in this module, or in a host's memory that it caches. -/
def State.isHere (s : State) (l : Loc) : Bool := match l.home with | none => true | some h => h == s.moduleId

/-- A place by its one name: a place of this module without its identifier. -/
def State.here (s : State) (l : Loc) : Loc := { home := if s.isHere l then none else l.home, pa := l.pa }

/-- Byte `i` of a place at its home. -/
def State.homeByte (s : State) (l : Loc) (i : Nat) : Byte :=
  if s.isHere l then s.byteAt (l.pa + i) else Memory.read s.farMem (farKey (s.homeOf l) (l.pa + i))

/-- Bytes of a place at its home. -/
def State.homeBytes (s : State) (l : Loc) (n : Nat) : List Byte := (countFrom 0 n).map (s.homeByte l)

/-- Write masked bytes into other modules' memories, by their keys; a line written whole is no longer marked uncorrectable (14: R258). -/
def State.farPut (s : State) (cs : List MCell) : State :=
  { s with
    farMem := Memory.writeMasked s.farMem cs
    poisoned := s.poisoned.filter (fun l => !(decide (2 ^ 64 ≤ l) && fullyWritten cs (l - 2 ^ 64))) }

/-- Write bytes at a home as one engine commit: (address at the home, mask, bits) (R51). -/
def State.homePut (s : State) (l : Loc) (cs : List MCell) : State :=
  if s.isHere l then s.engineCommit cs
  else s.farPut (cs.map (fun c => (farKey (s.homeOf l) c.1, c.2)))

/-- Write bytes at their places, those of this module as one engine commit (R51). -/
def State.putLocs (s : State) (ps : List (Loc × Byte × Byte)) : State :=
  let mine := (ps.filter (fun p => s.isHere p.1)).map (fun p => ((p.1.pa, p.2) : MCell))
  let far := (ps.filter (fun p => !s.isHere p.1)).map (fun p => ((farKey (s.homeOf p.1) p.1.pa, p.2) : MCell))
  (if mine.isEmpty then s else s.engineCommit mine).farPut far

/-- The delay of the reply to an access that a core sent to the home of a place: of a far module, or of the L2 of another die; the core's own
die adds nothing (12: R216). -/
def State.replyDelay (s : State) (core : Nat) (l : Loc) (cls : FabClass) : State :=
  match l.home with
  | some h => s.addDelay core (32 + Nat.min (s.hops h cls - 1) 7)
  | none => if s.keyDie l.pa = dieOf (cellOf core) then s else s.addDelay core (s.keyDie l.pa)

/-- The line key under which uncorrectable data of a place is marked (14: R258). -/
def State.poisonKey (s : State) (l : Loc) : Nat := if s.isHere l then lineOf l.pa else 2 ^ 64 + lineOf (farKey (s.homeOf l) l.pa)

/-- A line of the place's `n` bytes is poisoned. -/
def State.poisonedAt (s : State) (l : Loc) (n : Nat) : Bool :=
  [0, n - 1].any (fun i => s.poisoned.contains (s.poisonKey { l with pa := l.pa + i }))

/-- The firewall lets an initiator read and write a place of this module (13: R226). -/
def State.mayRmw (s : State) (i : Initiator) (pa : Nat) : Bool :=
  isHostKey pa || (s.permits i pa false && s.permits i pa true)

/-- Why a home does not perform an access that travels in a class, and has been held at its port since `since` if at all: ASYNCERR code NOHOME or
ACCESS (01: R24; 12: R213, R214; 13: R226). -/
def State.homeFail (s : State) (l : Loc) (i : Initiator) (cls : FabClass := .a) (since : Option Nat := none) : Option Nat :=
  match l.home with
  | none => if s.mayRmw i l.pa then none else some 2
  | some h =>
    if h.toNat % 4 ≠ 0 ∨ s.inPartition h = false then some 2
    else if s.noRoute h cls || since.any (s.heldOut h cls) then some 1
    else if Config.hbmEnd ≤ l.pa then some 2
    else if h = s.moduleId ∧ s.mayRmw .wounoLink l.pa = false then some 2
    else none

/-- Log the address that made a home of this module deny an access (R226). -/
def State.logHome (s : State) (l : Loc) (i : Initiator) : State :=
  match l.home with
  | none => if isHostKey l.pa then s else (s.logDenied i l.pa 1 false).logDenied i l.pa 1 true
  | some h => if h = s.moduleId ∧ l.pa < Config.hbmEnd then (s.logDenied .wounoLink l.pa 1 false).logDenied .wounoLink l.pa 1 true else s

end Sys2Proof.Machine
end

