-- ==== Sys2Proof/Machine/Access.lean ====
section
/-! DEFINITION. Segments, page tables, and the data accesses of a thread (05: R85 to R92; 02: R39, R40, R68; 03: R47,
R55, R62, R63, R64). -/
namespace Sys2Proof.Machine

/-! ## Segments (R85, R87) -/

/-- LIMIT of a descriptor. -/
def segLimit (g : BitVec 128) : Nat := nbits g.toNat 124 64
/-- Virtual base of a descriptor, in bytes. -/
def segBase (g : BitVec 128) : Nat := nbits g.toNat 56 6 * 64
/-- The RING attribute. -/
def segRing (g : BitVec 128) : Bool := g.getLsbD 57
/-- The O attribute. -/
def segO (g : BitVec 128) : Bool := g.getLsbD 58
/-- The S attribute. -/
def segS (g : BitVec 128) : Bool := g.getLsbD 59
/-- The G attribute. -/
def segG (g : BitVec 128) : Bool := g.getLsbD 60
/-- The rights an access needs (R87). -/
def segAllows (g : BitVec 128) (acc : Access) : Bool :=
  match acc with
  | .load => g.getLsbD 63
  | .store => g.getLsbD 62
  | .rmw => g.getLsbD 63 && g.getLsbD 62
  | .fetch => g.getLsbD 61
/-- The descriptor an effective address selects. -/
def segOf (segs : Map (BitVec 128)) (ea : W64) : BitVec 128 := Map.get 0 segs (fld ea 63 61)

/-- A descriptor from its parts: rights as the bits R, W, X (R85). -/
def mkSeg (base limit rights : Nat) : BitVec 128 := BitVec.ofNat 128 (limit * 2 ^ 64 + rights * 2 ^ 61 + base / 64 * 2 ^ 6)

/-- The segment stage of R87: a ring-area offset, or a virtual address, or the first failing check. -/
def segCheck (segs : Map (BitVec 128)) (ea : W64) (n align : Nat) (acc : Access) : Except Cause (Nat ⊕ Nat) :=
  let g := segOf segs ea
  let off := fld ea 60 0
  if off % align ≠ 0 then .error .align
  else if segLimit g < off + n then .error .seglimit
  else if !segAllows g acc then .error .segrights
  else if segRing g then .ok (.inl off)
  else if 2 ^ 57 < segBase g + off + n then .error .seglimit
  else .ok (.inr (segBase g + off))

/-! ## Page tables (R88 to R91) -/

/-- Bytes a leaf of a level maps: 64 KiB, 2 MiB, 1 GiB (R88). -/
def pageSize (level : Nat) : Nat := if level = 0 then 65536 else if level = 1 then 2097152 else 1073741824

/-- A leaf's frame, in bytes. -/
def leafFrame (w : W64) : Nat := fld w 59 16 * 65536
/-- A leaf's location: 0 LOCAL, 1 HOST-COHERENT, 2 HOST-PCIE, 3 FAR (R89). -/
def leafLoc (w : W64) : Nat := fld w 9 8

/-- A leaf's own checks (R89, R76). -/
def State.leafFault (s : State) (w : W64) (level : Nat) : Option FaultReason :=
  let f := leafFrame w
  let loc := leafLoc w
  let low := f % 2 ^ 44
  if fld w 63 60 ≠ 0 ∨ fld w 15 12 ≠ 0 ∨ f % pageSize level ≠ 0 then some .malformed
  else if loc = 0 ∧ 2 ^ 44 ≤ f then some .malformed
  else if (loc = 0 ∨ loc = 3) ∧ Config.hbmEnd ≤ low ∧ low < Config.mmioBase then some .malformed
  else if loc = 0 ∧ low < Config.hbmEnd ∧
      (decide (low % Config.dieWindow < s.service.ibnd) = bit w 7) then some .placement
  else none

/-- The rights an access needs of a leaf (R89). -/
def leafAllows (w : W64) (acc : Access) : Bool :=
  match acc with
  | .load => bit w 2
  | .store => bit w 3
  | .rmw => bit w 2 && bit w 3
  | .fetch => bit w 4

/-- One table entry on the way down (R89): the next table, a leaf, or the fault. -/
def tableStep (w : W64) (leafOk : Bool) : Except FaultReason (Nat ⊕ W64) :=
  if !bit w 0 then .error .notPresent
  else if bit w 1 then (if leafOk then .ok (.inr w) else .error .malformed)
  else if w &&& ~~~0x00000FFFFFFFFF01 ≠ 0 then .error .malformed
  else .ok (.inl (fld w 43 8 * 256))

/-- Walk the levels below the root: (index, level) pairs (R88). An entry of level 0 that names a table is malformed (assumption 75). -/
def State.walkDown (s : State) : Nat → List (Nat × Nat) → Except FaultReason (Nat × W64 × Nat)
  | _, [] => .error .malformed
  | table, (idx, level) :: rest =>
    let pa := table + 8 * idx
    match tableStep (Memory.read64 s.mem pa) (level ≠ 3) with
    | .error r => .error r
    | .ok (.inr w) => .ok (pa, w, level)
    | .ok (.inl t) => s.walkDown t rest

/-- Walk the four levels from a root: the leaf entry's place, the leaf, its level (R88, R89). -/
def State.walk (s : State) (root va : Nat) : Except FaultReason (Nat × W64 × Nat) :=
  s.walkDown root [(nbits va 56 39, 3), (nbits va 38 30, 2), (nbits va 29 21, 1), (nbits va 20 16, 0)]

/-- The look-aside entry maps the address. -/
def TlbEntry.hits (e : TlbEntry) (asid : BitVec 16) (va : Nat) : Bool :=
  e.asid == asid && va / pageSize e.size == e.vpage

/-- Fill a look-aside entry, dropping the oldest of a full buffer (assumption 11). -/
def tlbFill (es : List TlbEntry) (e : TlbEntry) : List TlbEntry :=
  if es.length < Config.tlbLimit then es ++ [e] else es.drop 1 ++ [e]

/-- Translate a virtual address at a cluster's port (R88 to R91): a walk sets A and fills an entry. Of the conditions of R89 that hold for one leaf
the first counts, in the order MALFORMED, PLACEMENT, RIGHTS (assumption 74). -/
def State.translate (s : State) (asid : BitVec 16) (root cluster va : Nat) (acc : Access) : State × Except FaultReason TlbEntry :=
  match (s.tlb cluster).find? (fun e => e.hits asid va) with
  | some e => if leafAllows e.leaf acc then (s, .ok e) else (s, .error .rights)
  | none =>
    match s.walk root va with
    | .error r => (s, .error r)
    | .ok (pa, w, level) =>
      match s.leafFault w level with
      | some r => (s, .error r)
      | none =>
        if !leafAllows w acc then (s, .error .rights)
        else
          let e : TlbEntry := { asid := asid, vpage := va / pageSize level, size := level, leafPa := pa,
                                leaf := w ||| 0x20, logged := bit w 6 }
          ({ s with mem := if bit w 5 then s.mem else Memory.write64 s.mem pa (w ||| 0x20)
                    tlbs := Map.set [] s.tlbs cluster (tlbFill (s.tlb cluster) e) }, .ok e)

/-- How an inner access meets the caches: the virtual tag of its first line, whether its page grants reads, and whether it takes the
stash path (04: R66, R74). -/
structure Via where
  tag : Nat
  read : Bool
  stash : Bool
  deriving DecidableEq, Repr

/-- Where an access goes (R47, R63, R64). Keys are those of the chunk buffer; `leaf` names the page's leaf entry; with `consult` the
access consults the stash map (04: R72). -/
inductive Place where
  | ring (off : Nat)
  | inner (key leaf : Nat) (via : Via) (consult : Bool)
  | hostPcie (port addr : Nat)
  | far (home : BitVec 16) (pa : Nat) (cls : FabClass)
  | mmio (pa : Nat)
  deriving DecidableEq, Repr

/-- Why an access ends its instruction: a trap, a page fault, or a watchpoint. -/
inductive Halt where
  | trap (c : Cause) (v : W64)
  | fault (va : W64) (r : FaultReason) (acc : Access)
  | hit (a : After)
  deriving DecidableEq, Repr

/-- Cut the chunk for what stopped the instruction (R35, R37). -/
def State.haltWith (s : State) (h : Halt) : State :=
  match h with
  | .trap c v => s.raise c v
  | .fault va r acc => s.cut (.fault va r acc)
  | .hit a => s.cut a

/-- The fabric class of a far access through a segment (R56, 11: R210). -/
def State.farClass (s : State) (o : Bool) (home : BitVec 16) : FabClass :=
  if o then (if s.fabric.slots.any (fun p => p.2.valid && p.2.dest == home) then .s else .o) else .a

/-- The cell's stash map as the issuing thread sees it (04: R72). -/
def State.stashMap (s : State) : List MapEntry := s.th.chunk.smap.getD (s.cell s.myCell).smap

/-- The range maps the address for the address space. -/
def MapEntry.covers (e : MapEntry) (asid : BitVec 16) (va : Nat) : Bool :=
  e.asid == asid && decide (e.base ≤ va) && decide (va < e.base + e.len)

/-- The address lies in a range that the cell's stash map maps for the address space. -/
def State.mapped (s : State) (g : BitVec 128) (asid : BitVec 16) (va : Nat) : Bool := segS g && s.stashMap.any (fun m => m.covers asid va)

/-- The page's place for a virtual address. An access to a FAR or HOST-PCIE page takes the normal outer path and consults no stash map
(04: R74; assumption 63). -/
def State.placeOf (s : State) (g : BitVec 128) (asid : BitVec 16) (cluster va : Nat) (e : TlbEntry) : Place :=
  let a := leafFrame e.leaf + va % pageSize e.size
  let leaf := leafKey cluster e.leafPa
  let st : Via := { tag := vtag asid va, read := bit e.leaf 2, stash := s.mapped g asid va }
  match leafLoc e.leaf with
  | 0 => if Config.mmioBase ≤ a then .mmio a else .inner a leaf st (segS g)
  | 1 => .inner (hostKey (if bit e.leaf 11 then 1 else 0) a) leaf st (segS g)
  | 2 => .hostPcie (if bit e.leaf 11 then 1 else 0) a
  | _ => .far (BitVec.ofNat 16 (a / 2 ^ 44)) (a % 2 ^ 44) (s.farClass (segO g) (BitVec.ofNat 16 (a / 2 ^ 44)))

/-- The address space of a core's threads (R88). -/
def State.asidOf (s : State) (core : Nat) : BitVec 16 := BitVec.ofNat 16 (fld (s.core core).ptroot 63 48)
/-- The root of a core's page tables. -/
def State.rootOf (s : State) (core : Nat) : Nat := fld (s.core core).ptroot 43 21 * 2 ^ 21

/-- The watchpoints an access of the issuing thread meets (14: R249, R250). -/
def State.watchHit (s : State) (va n : Nat) (acc : Access) : Option After :=
  if s.th.bpSkip.contains s.th.arch.pc then none
  else
    let ld := acc == .load || acc == .rmw
    let st := acc == .store || acc == .rmw
    pickHit s.th.inh [] ((countFrom 0 4).filterMap (s.wpMatch va n ld st))

/-! ### Hits (04: R66, R67, R74; 05: R88) -/

/-- What the open chunk has written of the byte at a key: mask and bits (R40). -/
def State.bufByte (s : State) (k : Nat) : Byte × Byte :=
  match s.th.chunk.wbuf.find? (fun c => c.1 == k) with
  | some c => c.2
  | none => (0, 0)

/-- Bytes from a key up that the open chunk has written whole. -/
def State.allBuffered (s : State) (ks : List Nat) : Bool := ks.all (fun k => (s.bufByte k).1 == BitVec.allOnes 8)

/-- The lines that an access of the issuing thread looks up: those of its cell's stash on the stash path, else those of its core's data
cache. -/
def State.cacheLines (s : State) (stash : Bool) : List Held := if stash then (s.cell s.myCell).stash else (s.core s.th.core).dcache

/-- A line the issuing thread can read at once: fetched for this instruction, or held under the access's virtual tag, and held by no
host (R28, R66, R74; 12: R221). -/
def State.present (s : State) (stash : Bool) (tag line : Nat) : Bool :=
  !s.hostHolds line && (s.th.got.contains line || (s.cacheLines stash).any (fun h => h.line == line && h.tag == tag && h.read))

/-- Lines of an inner access that the thread cannot read yet; `tag` is that of the first. -/
def State.missing (s : State) (stash : Bool) (tag key n : Nat) : List Nat :=
  (linesAt key n).filter (fun l => !s.present stash (tag + (l - lineOf key)) l && !s.allBuffered ((countFrom key n).filter (fun k => lineOf k == l)))

/-- The physical line that a virtual tag finds in a cache, or among the lines of the thread's own chunk. -/
def State.tagLine (s : State) (stash : Bool) (tag : Nat) : Option Nat :=
  ((s.cacheLines stash ++ s.th.chunk.held).find? (fun h => h.tag == tag && h.read)).map (·.line)

/-- The key of a load every line of which hits by its virtual tag: it needs no translation (R88). -/
def State.hitKey (s : State) (stash : Bool) (va n : Nat) : Option Nat :=
  let tag := vtag (s.asidOf s.th.core) va
  match s.tagLine stash tag with
  | none => none
  | some l =>
    let key := 64 * l + va % 64
    if (countFrom 0 ((va % 64 + n + 63) / 64)).all (fun i => s.tagLine stash (tag + i) == some (l + i)) && (s.missing stash tag key n).isEmpty
    then some key else none

/-- Map a virtual address: a load that hits reaches no port; any other access is translated there (R88). -/
def State.mapVa (s : State) (g : BitVec 128) (va n : Nat) (acc : Access) : State × Except Halt Place :=
  let core := s.th.core
  let cluster := clusterOf (cellOf core)
  let stash := s.mapped g (s.asidOf core) va
  match (if acc = .load then s.hitKey stash va n else none) with
  | some key => (s, .ok (.inner key 0 { tag := vtag (s.asidOf core) va, read := true, stash := stash } (segS g)))
  | none =>
    match s.translate (s.asidOf core) (s.rootOf core) cluster va acc with
    | (s1, .error r) => (s1, .error (.fault (BitVec.ofNat 64 va) r acc))
    | (s1, .ok e) => (s1, .ok (s1.placeOf g (s.asidOf core) cluster va e))

/-- The segment checks and the translation of a data access of the issuing thread (R87), watchpoints apart. Ring accesses beyond the ring
area raise SEGLIMIT (04: R71). -/
def State.mapAccess (s : State) (ea : W64) (n align : Nat) (acc : Access) : State × Except Halt Place :=
  match segCheck s.th.seg ea n align acc with
  | .error c => (s, .error (.trap c ea))
  | .ok (.inl off) => if (s.cell s.myCell).area < off + n then (s, .error (.trap .seglimit ea)) else (s, .ok (.ring off))
  | .ok (.inr va) => s.mapVa (segOf s.th.seg ea) va n acc

/-- Check and map a data access of the issuing thread (R87): the place, or what stops the instruction. A watchpoint that stops the core
acts before the translation, a BREAK after its page faults (R95; 14: R249, R250). -/
def State.resolve (s : State) (ea : W64) (n align : Nat) (acc : Access) : State × Except Halt Place :=
  match segCheck s.th.seg ea n align acc with
  | .ok (.inr va) =>
    (match s.watchHit va n acc with
     | some (.hit c u false) => (s, .error (.hit (.hit c u false)))
     | w =>
       match s.mapAccess ea n align acc with
       | (s1, .error h) => (s1, .error h)
       | (s1, .ok p) => (s1, match w with | some a => .error (.hit a) | none => .ok p))
  | _ => s.mapAccess ea n align acc

/-! ## Loads -/

/-- Why an instruction stops before it completes: a trap, fault or watchpoint, a cut of the chunk before it, a wait
for data, or the end of its gang by a replay mismatch. -/
inductive Stop where
  | halt (h : Halt)
  | cut (a : After)
  | wait (p : Pending)
  | gone
  deriving DecidableEq, Repr

/-- How an access ends: with a value (`atB` when the instruction now stands at its boundary), or with the
instruction stopped. -/
inductive Got (α : Type) where
  | ok (s : State) (v : α) (atB : Bool)
  | stop (s : State) (w : Stop)
  deriving DecidableEq

/-- Stop the instruction that began in `s` after accesses that led to `s1`: nothing of it stands in the chunk or the
registers (R37, R46). -/
def State.endWith (s s1 : State) (w : Stop) : State :=
  let k : State := { s1 with th := { s1.th with chunk := s.th.chunk, arch := s.th.arch } }
  match w with
  | .halt h => k.haltWith h
  | .cut a => k.cut a
  | .wait p => k.updTh (fun t => { t with st := .dataWait, pend := p, waitAt := k.time.up })
  | .gone => s1

/-- The chunk opens, unless the instruction executes alone at its boundary. -/
def State.openUnless (s : State) (alone : Bool) : State := if alone then s else s.openChunk

/-- The byte the issuing thread sees: its own chunk's store over the committed byte (R40, R50). -/
def State.seenByte (s : State) (k : Nat) : Byte := mergeByte (s.byteAt k) (s.bufByte k).1 (s.bufByte k).2
/-- Bytes the issuing thread sees from a key up. -/
def State.seenBytes (s : State) (k n : Nat) : List Byte := (countFrom k n).map s.seenByte

/-- Doublewords of bytes, low bytes first. -/
def wordsOf : Nat → List Byte → List W64
  | 0, _ => []
  | k + 1, bs => if bs.isEmpty then [] else BitVec.ofNat 64 (leNat (bs.take 8)) :: wordsOf k (bs.drop 8)
/-- Bytes of doublewords. -/
def bytesOfWords (n : Nat) (ws : List W64) : List Byte := ((ws.map (fun w => leBytes 8 w.toNat)).flatten).take n

/-- A value from a value source as bytes (11: R204, R205); a replay mismatch ends the gang. -/
def State.sourceBytes (s : State) (bs : List Byte) : Got (List Byte) :=
  match s.valueSource (wordsOf 8 bs) with
  | (s1, some ws) => .ok s1 (bytesOfWords bs.length ws) false
  | (s1, none) => .stop s1.disagree .gone

/-- The gang replays (R205). -/
def State.replaying (s : State) : Bool := match s.myGang with | some g => g.launch.rrm == 2 | none => false

/-- The bytes a far moon of an active subscription serves (04: R83). -/
def State.farMoonBytes (s : State) (loc : Loc) (n : Nat) : Option (List Byte) :=
  match loc.home with
  | none => none
  | some h =>
    let key := farKey h loc.pa
    match s.farMoons.find? (fun p => p.1 == key / 64) with
    | some p => if Map.get 0 s.subs (key / 2097152) = 2 ∧ key % 64 + n ≤ 64 then some (((vbytes p.2.2).drop (key % 64)).take n) else none
    | none => none

/-- The bytes of a far place as this module reads them: from its far moon where it has one, else at the home (04: R83). -/
def State.farBytes (s : State) (loc : Loc) (n : Nat) : List Byte := (s.farMoonBytes loc n).getD (s.homeBytes loc n)

/-- The key of the line a far place lies in. -/
def farLineKey (home : BitVec 16) (pa : Nat) : Nat := farKey home pa / 64

/-- Place the value that a home's line had at a commit position, unless the far moon holds a later one (04: R83). -/
def State.placeMoon (s : State) (line pos : Nat) (value : V512) : State :=
  if (s.farMoons.find? (fun p => p.1 == line)).any (fun p => decide (pos < p.2.1)) then s else s.addFarMoon line pos value

/-- The home shows its present state at a commit position. Its far moons that hold anything older go, so that no later read returns a shorter
prefix (03: R59; assumption 66). -/
def State.seePos (s : State) (home : BitVec 16) (pos : Nat) : State :=
  let now := fun (line : Nat) => BitVec.ofNat 512 (leNat (s.homeBytes { home := some home, pa := 64 * line % 2 ^ 44 } 64))
  { s with
    farMoons := s.farMoons.filter (fun p => 64 * p.1 / 2 ^ 44 != home.toNat || p.2.2 == now p.1)
    fabric := { s.fabric with pushPos := Map.upd 0 s.fabric.pushPos home.toNat (fun p => Nat.max p pos) } }

/-- A reply from an active subscription's home installs a far moon (04: R83). Its commit position is the home's at the instant of service, at or
after every one seen before by an amount that is a free value (assumption 5). -/
def State.installMoon (s : State) (home : BitVec 16) (pa : Nat) : State :=
  if Map.get 0 s.subs (farKey home pa / 2097152) = 2 then
    let line := leNat (s.homeBytes { home := some home, pa := pa / 64 * 64 } 64)
    let pos := Map.get 0 s.fabric.pushPos home.toNat + (Config.freeWord s.free).toNat
    (State.seePos { s with free := s.free + 1 } home pos).placeMoon (farLineKey home pa) pos (BitVec.ofNat 512 line)
  else s

/-- A far place has been read by an engine or by firmware: a read that no far moon has served installs one (R83). -/
def State.seeFar (s : State) (loc : Loc) (n : Nat) : State :=
  match loc.home with
  | some h => if s.isHere loc || (s.farMoonBytes loc n).isSome then s else s.installMoon h loc.pa
  | none => s

/-- The pieces of `w`-aligned size of an access: (address, bytes); at most `fuel` of them (R62). -/
def loadPieces (w : Nat) : Nat → Nat → Nat → List (Nat × Nat)
  | 0, _, _ => []
  | fuel + 1, a, n =>
    if n = 0 then []
    else
      let k := Nat.min n (w - a % w)
      (a, k) :: loadPieces w fuel (a + k) (n - k)

/-- The bytes of an outer load's pieces from the replies that have come; otherwise the first piece still to ask for. -/
def State.outerBytes (s : State) (home : Option (BitVec 16)) : List (Nat × Nat) → Except (Loc × Nat) (List Byte)
  | [] => .ok []
  | (a, n) :: rest =>
    let loc : Loc := { home := home, pa := a }
    match (s.th.replies.find? (fun r => r.1 == loc && r.2.length == n)).map (·.2) with
    | none => .error (loc, n)
    | some bs =>
      match s.outerBytes home rest with
      | .error e => .error e
      | .ok more => .ok (bs ++ more)

/-- The open chunk has read outer memory at a place (R48). -/
def State.noteOuter (s : State) (loc : Loc) (alone : Bool) : State :=
  if alone then s else s.openChunk.updChunk (fun c => { c with outer := c.outer ++ [loc] })

/-- An outer load (R55): the recorded value in a replay, the replies that have come, or a wait for the first piece without one, whose
error response or uncorrectable data stops the instruction. Far loads are split at 32 bytes, host loads at 8 (R62). -/
def State.outerLoad (s : State) (ea : W64) (loc : Loc) (n : Nat) (cls : FabClass) (alone : Bool) : Got (List Byte) :=
  if s.replaying then (s.openUnless alone).sourceBytes (List.replicate n 0)
  else match s.outerBytes loc.home (loadPieces (if loc.home.isSome then 32 else 8) 32 loc.pa n) with
    | .ok bs => (s.noteOuter loc alone).sourceBytes bs
    | .error e =>
      if s.th.replyBad then .stop s (.halt (.trap .farerr ea))
      else if s.th.replyPoison then .stop s (.halt (.trap .poison ea))
      else .stop (if e.1 = loc then s.perf s.th.core 0x12 1 else s) (.wait (.outer e.1 e.2 cls))

/-- Read `n` bytes of MMIO, at most a doubleword at a time; `fuel` bounds the pieces. -/
def State.mmioBytes (s : State) (i : Initiator) : Nat → Nat → Nat → Option (List Byte)
  | 0, _, _ => some []
  | fuel + 1, pa, n =>
    if n = 0 then some []
    else
      let k := Nat.min n (8 - pa % 8)
      match s.mmioLoad i pa k, s.mmioBytes i fuel (pa + k) (n - k) with
      | some a, some b => some (a ++ b)
      | _, _ => none

/-- Write bytes of MMIO, at most a doubleword at a time. -/
def State.mmioPut (s : State) (i : Initiator) : Nat → Nat → List Byte → Option State
  | 0, _, _ => some s
  | fuel + 1, pa, bs =>
    if bs.isEmpty then some s
    else
      let k := Nat.min bs.length (8 - pa % 8)
      match s.mmioStore i pa (bs.take k) with
      | some s1 => s1.mmioPut i fuel (pa + k) (bs.drop k)
      | none => none

/-- The longest run of whole bytes at consecutive addresses from the first on, and what follows it. -/
def runFrom (a : Nat) : List MCell → List Byte × List MCell
  | [] => ([], [])
  | c :: cs => if c.1 = a then (let r := runFrom (a + 1) cs; (c.2.2 :: r.1, r.2)) else ([], c :: cs)

/-- Write masked bytes of MMIO: whole runs as wide accesses, at most `fuel` of them. -/
def State.mmioRun (s : State) (i : Initiator) : Nat → List MCell → Option State
  | 0, _ => some s
  | _ + 1, [] => some s
  | fuel + 1, c :: cs =>
    let r := runFrom c.1 (c :: cs)
    match s.mmioPut i 9 c.1 r.1 with
    | some s1 => s1.mmioRun i fuel r.2
    | none => none

/-- Masked MMIO writes, the unwritten bits of a byte read first. -/
def State.mmioRuns (s : State) (i : Initiator) (cs : List MCell) : Option State :=
  s.mmioRun i cs.length (cs.map (fun c =>
    if c.2.1 = BitVec.allOnes 8 then c
    else match s.mmioBytes i 1 c.1 1 with
      | some [b] => (c.1, BitVec.allOnes 8, mergeByte b c.2.1 c.2.2)
      | _ => c))

/-- The virtual tags of lines of an access. -/
def tagsOf (tag key : Nat) (ls : List Nat) : List Nat := ls.map (fun l => tag + (l - lineOf key))

/-- The wait of an access for lines. -/
def Via.wait (v : Via) (key : Nat) (ls : List Nat) : Pending := .lines ls (tagsOf v.tag key ls) v.stash

/-- An inner load: a wait for a locked or missing line, the error response to one, POISON, the saturation cut, or the bytes (R28, R39,
R50). -/
def State.innerLoad (s : State) (ea : W64) (key n : Nat) (via : Via) (consult alone : Bool) : Got (List Byte) :=
  let ls := linesAt key n
  if s.locked ls then .stop s (.wait (via.wait key ls))
  else if consult && s.locked [lineOf (mapLine s.myCell)] then .stop s (.wait (.direct [lineOf (mapLine s.myCell)]))
  else if ls.any (fun l => s.poisoned.contains l) then .stop s (.halt (.trap .poison ea))
  else
    let miss := s.missing via.stash via.tag key n
    if !miss.isEmpty then
      if s.th.replyBad then .stop s (.halt (.trap .farerr ea))
      else .stop ((if via.stash then s.perfCell s.myCell 0x10 1 else s).perf s.th.core 0x0E 1) (.wait (via.wait key miss))
    else
      let s0 := s.touch ls
      let g := Sig.enterAll s.th.chunk.rsig (ls.map (64 * ·) ++ (if consult then [mapLine s.myCell] else []))
      if alone then .ok s0 (s.seenBytes key n) true
      else if s.th.chunk.isOpen && g.saturated then .stop s (.cut .reissue)
      else .ok (s0.openChunk.updChunk (fun c => { c with rsig := g })) (s.seenBytes key n) false

/-- An access of the issuing thread that it performs at its boundary, though it was no boundary instruction as it issued (an MMIO access, a
store that stands alone), keeps the recorded order of a replay before it has any effect (11: R205). -/
def State.awaitTurn (s : State) : Option (State × Stop) :=
  if s.inTurn then none
  else if s.replayed.bind (rankCommit s.th.rank 0) = some 1 then some (s, .wait .turn)
  else some (s.disagree, .gone)

/-- A data load of `n` bytes (R47, R55, R63, R64); `alone` when it is part of an instruction at its boundary. -/
def State.loadAs (s : State) (ea : W64) (n align : Nat) (alone : Bool) : Got (List Byte) :=
  match s.resolve ea n align .load with
  | (s1, .error h) => .stop s1 (.halt h)
  | (s1, .ok (.ring off)) => .ok (s1.openUnless alone) (Memory.readBytes (s1.cell s1.myCell).ringMem off n) alone
  | (s1, .ok (.inner key _ via consult)) => s1.innerLoad ea key n via consult alone
  | (s1, .ok (.hostPcie port a)) => s1.outerLoad ea { home := none, pa := hostKey port a } n .a alone
  | (s1, .ok (.far home pa cls)) => s1.outerLoad ea { home := some home, pa := pa } n cls alone
  | (s1, .ok (.mmio pa)) =>
    if s1.th.chunk.isOpen then .stop s1 (.cut .reissue)
    else if !s1.th.got.contains (lineOf pa) then .stop s1 (.wait (.direct [lineOf pa]))
    else match s1.mmioBytes (s1.coreInit s1.th.core) 9 pa n with
      | some bs => (match s1.awaitTurn with | some w => .stop w.1 w.2 | none => .ok s1 bs true)
      | none => .stop (s1.logDenied (s1.coreInit s1.th.core) pa n false) (.halt (.trap .farerr ea))

/-- The accesses that hit the cell's stash: on the stash path, with no line fetched for this instruction (14: R254). -/
def State.stashHits (s : State) (es : List (W64 × Nat × Nat)) : Nat :=
  (es.filter (fun e => match (s.mapAccess e.1 e.2.1 e.2.2 .load).2 with
    | .ok (.inner key _ via _) => via.stash && !(linesAt key e.2.1).any s.th.got.contains
    | _ => false)).length

/-- Count the stash hits of an instruction whose accesses have all answered (14: R254). -/
def State.withHits {α : Type} (s : State) (es : List (W64 × Nat × Nat)) (g : Got α) : Got α :=
  match g with
  | .ok s1 v b => .ok (if s.stashHits es = 0 then s1 else s1.perfCell s1.myCell 0x0F (s.stashHits es)) v b
  | .stop s1 w => .stop s1 w

/-- A data load of one value. -/
def State.load (s : State) (ea : W64) (n align : Nat) : Got (List Byte) := s.withHits [(ea, n, align)] (s.loadAs ea n align false)

/-- An effective address names an MMIO frame. -/
def State.namesMmio (s : State) (ea : W64) (n : Nat) : Bool :=
  match segCheck s.th.seg ea n 1 .load with
  | .ok (.inr va) => (match s.mapVa (segOf s.th.seg ea) va n .load with | (_, .ok (.mmio _)) => true | _ => false)
  | _ => false

/-- The watchpoints that the accesses of an instruction meet, each once its segment checks have passed (14: R249, R250). -/
def State.watchAll (s : State) (acc : Access) (es : List (W64 × Nat × Nat)) : Option After :=
  if s.th.bpSkip.contains s.th.arch.pc then none
  else
    let ld := acc == .load || acc == .rmw
    let st := acc == .store || acc == .rmw
    let hits := fun (e : W64 × Nat × Nat) => match segCheck s.th.seg e.1 e.2.1 e.2.2 acc with
      | .ok (.inr va) => (countFrom 0 4).filterMap (s.wpMatch va e.2.1 ld st)
      | _ => []
    let all := (es.map hits).flatten
    pickHit s.th.inh [] ((countFrom 0 4).filterMap (fun k => all.find? (fun p => p.1 == k)))

/-- The first check or page fault that the accesses of an instruction meet, in element order, watchpoints apart (R95; 19: R383). -/
def State.firstHalt (s : State) (acc : Access) : List (W64 × Nat × Nat) → State × Option Halt
  | [] => (s, none)
  | e :: es => match s.mapAccess e.1 e.2.1 e.2.2 acc with
    | (s1, .error h) => (s1, some h)
    | (s1, .ok _) => s1.firstHalt acc es

/-- What the watchpoints of an instruction's accesses do before any of them: the core stops at once, or BREAK follows their checks and page
faults (R95; 14: R250). -/
def State.watchFirst (s : State) (acc : Access) (es : List (W64 × Nat × Nat)) : Option (State × Halt) :=
  match s.watchAll acc es with
  | none => none
  | some (.hit c u false) => some (s, .hit (.hit c u false))
  | some a => match s.firstHalt acc es with
    | (s1, some h) => some (s1, h)
    | (s1, none) => some (s1, .hit a)

/-- Loads of several elements in order: address, bytes, alignment. -/
def State.loadList (s : State) (alone : Bool) : List (W64 × Nat × Nat) → Got (List (List Byte))
  | [] => .ok (s.openUnless alone) [] alone
  | (ea, n, al) :: rest =>
    match s.loadAs ea n al alone with
    | .stop s1 w => .stop s1 w
    | .ok s1 bs _ =>
      match s1.loadList alone rest with
      | .stop s2 w => .stop s2 w
      | .ok s2 bss b => .ok s2 (bs :: bss) b

/-- A vector load's elements: every one is checked and mapped before any is loaded (R95; 19: R383); one that names an MMIO frame makes the
instruction cutting (R46). -/
def State.loadMany (s : State) (es : List (W64 × Nat × Nat)) : Got (List (List Byte)) :=
  let alone := es.any (fun e => s.namesMmio e.1 e.2.1)
  match s.watchFirst .load es with
  | some (s1, h) => .stop s1 (.halt h)
  | none => match s.firstHalt .load es with
    | (s1, some h) => .stop s1 (.halt h)
    | (s1, none) => if alone && s1.th.chunk.isOpen then .stop s1 (.cut .reissue) else s1.withHits es (s1.loadList alone es)

/-! ## Stores -/

/-- An element to store: its effective address, the bytes checked, and what it writes of them, by offset. -/
structure Elt where
  ea : W64
  n : Nat
  cells : List MCell
  deriving DecidableEq, Repr

/-- An element that stores whole bytes. -/
def Elt.ofBytes (ea : W64) (bs : List Byte) : Elt := { ea := ea, n := bs.length, cells := mcellsAt 0 bs }

/-- An element to store, resolved. -/
structure StoreElt where
  elt : Elt
  place : Place
  guarded : Bool
  deriving DecidableEq, Repr

/-- Put masked bits into a chunk's buffer, keeping keys rising. -/
def bufPut : List MCell → MCell → List MCell
  | [], c => [c]
  | d :: ds, c =>
    if c.1 = d.1 then (d.1, d.2.1 ||| c.2.1, mergeByte d.2.2 c.2.1 c.2.2) :: ds
    else if c.1 < d.1 then c :: d :: ds else d :: bufPut ds c

/-- The issuing thread is inside a guarded item that GCHK has not checked (10: R194). -/
def State.inItem (s : State) : Bool := s.th.item.inItem && !s.th.item.checked

/-- A guarded store that reaches no inner memory of this module (10: R194). -/
def StoreElt.outside (e : StoreElt) : Bool :=
  e.guarded && (match e.place with | .inner key _ _ _ => isHostKey key | _ => true)

/-- Check and map every element of a store in order, watchpoints apart. -/
def State.resolveStores (s : State) (align : Nat) : List Elt → State × Except Halt (List StoreElt)
  | [] => (s, .ok [])
  | e :: rest =>
    match s.mapAccess e.ea e.n align .store with
    | (s1, .error h) => (s1, .error h)
    | (s1, .ok p) =>
      let g := s1.inItem && segG (segOf s1.th.seg e.ea) && (match p with | .ring _ => false | _ => true)
      match s1.resolveStores align rest with
      | (s2, .error h) => (s2, .error h)
      | (s2, .ok es) => (s2, .ok ({ elt := e, place := p, guarded := g } :: es))

/-- What an element writes, from a base up. -/
def Elt.at (e : Elt) (base : Nat) : List MCell := e.cells.map (fun c => (base + c.1, c.2))

/-- What an element buffers in the chunk: inner stores outside the implicit caravan (R40). -/
def StoreElt.buffered (e : StoreElt) : List MCell :=
  match e.place with
  | .inner key _ _ _ => if e.guarded then [] else e.elt.at key
  | _ => []

/-- Writes split into naturally aligned pieces of `w` bytes (R62). -/
def pieces (w : Nat) (cs : List MCell) : List (List MCell) :=
  (dedup (cs.map (fun c => c.1 / w))).map (fun k => cs.filter (fun c => c.1 / w == k))

/-- The effective address of a piece. -/
def Elt.pieceEa (e : Elt) (base : Nat) (p : List MCell) : W64 := e.ea + BitVec.ofNat 64 ((p.headD (base, 0, 0)).1 - base)

/-- What an element defers: ring-area, far, host and guarded stores (R46, R62, R194). -/
def StoreElt.deferred (e : StoreElt) (cell : Nat) : List Item :=
  match e.place with
  | .ring off => if e.elt.cells.isEmpty then [] else [.ringStore cell (e.elt.at off)]
  | .far home pa cls => (pieces 32 (e.elt.at pa)).map (fun p => .farStore home p cls (e.elt.pieceEa pa p))
  | .hostPcie port a => (pieces 8 (e.elt.at a)).map (fun p => .hostStore port p (e.elt.pieceEa a p))
  | .inner key _ _ _ => if e.guarded && !e.elt.cells.isEmpty then [.gstage (e.elt.at key)] else []
  | .mmio _ => []

/-- The written lines of an element as a cache holds them after the commit. -/
def StoreElt.held (e : StoreElt) : List Held :=
  match e.place with
  | .inner key _ via _ => (linesOf (e.buffered.map (·.1))).map (fun l => { line := l, tag := via.tag + (l - lineOf key), read := via.read })
  | _ => []

/-- The written lines of elements, the last tag of each standing. -/
def eltHeld (es : List StoreElt) : List Held :=
  (es.map (fun e => e.held)).flatten.foldl (fun acc h => acc.filter (fun k => k.line != h.line) ++ [h]) []

/-- Lines of elements that take the stash path (04: R74). -/
def stashLines (es : List StoreElt) : List Nat :=
  linesOf ((es.filter (fun e => match e.place with | .inner _ _ via _ => via.stash | _ => false)).map (fun e => e.buffered.map (·.1))).flatten

/-- Leaf entries of the pages that elements write (05: R91). -/
def eltLeaves (es : List StoreElt) : List Nat :=
  dedup (es.filterMap (fun e => match e.place with | .inner _ leaf _ _ => if e.guarded || e.elt.cells.isEmpty then none else some leaf | _ => none))

/-- Lines written by buffered bytes. -/
def eltLines (es : List StoreElt) : List Nat := linesOf ((es.map (fun e => e.buffered)).flatten.map (·.1))

/-- New lines that fall into a set. -/
def inSet (ls : List Nat) (set : Nat) : Nat := (ls.filter (fun l => setOf l == set)).length

/-- A set would hold more than six uncommitted lines (R68). -/
def State.setFull (s : State) (new : List Nat) : Bool :=
  new.any (fun l => decide (Config.setLimit < s.setCount s.th.core (setOf l) + inSet new (setOf l)))

/-- The store alone needs more than six new lines of one set (R68). -/
def overSet (new : List Nat) : Bool := new.any (fun l => decide (Config.setLimit < inSet new (setOf l)))

/-- The guarded budget of the issuing thread's gang (10: R192). -/
def State.gBudget (s : State) : Nat := match s.myGang with | some g => g.launch.gbudget | none => 0

/-- What a guarded store charges: 64 bytes each (R194). -/
def guardCharge (es : List StoreElt) : Nat := if es.any (fun e => e.guarded && !e.elt.cells.isEmpty) then 64 else 0

/-- Log the address of a refused MMIO write: denied by the firewall, or the root monitor's alone (R225, R226). -/
def State.logMmio (s : State) (i : Initiator) (pa n : Nat) : State :=
  let k := s.logDenied i pa n true
  if k.service.errlog = s.service.errlog ∧ rootOwned pa = true then s.logAddr pa else k

/-- MMIO writes of the elements, in order; a partly written byte keeps its other bits. The first that is refused is named by its
address, its bytes and its effective address. -/
def State.mmioElts (s : State) (i : Initiator) : List StoreElt → Except (Nat × Nat × W64) State
  | [] => .ok s
  | e :: es =>
    match e.place with
    | .mmio pa =>
      (match s.mmioRuns i (e.elt.at pa) with
       | some s1 => s1.mmioElts i es
       | none => .error (pa, e.elt.n, e.elt.ea))
    | _ => s.mmioElts i es

/-- A core's dirty log has room for the leaves (05: R91). -/
def State.roomFor (s : State) (core : Nat) (leaves : List Nat) : Bool := decide ((s.core core).dlog.length + (leaves.filter s.unlogged).length ≤ 512)

/-- A commit of the issuing thread at its boundary that writes lines of pages must wait: for a lock, a host, the priority token or room in the
dirty log (R42, R44; 05: R91; 12: R221). -/
def State.commitBarred (s : State) (lines leaves : List Nat) : Bool :=
  lines.any (fun l => s.locked [l] || s.hostHolds l) || (!lines.isEmpty && (s.tokenBars s.th.tid || !s.roomFor s.th.core leaves))

/-- A store that executes alone at its boundary (R64, R68): its bytes become visible as one commit, its deferred
parts are released, its MMIO writes performed. Where one of these is refused none of the instruction is performed (R46, R64). -/
def State.storeAlone (s : State) (es : List StoreElt) : Got Unit :=
  let ls := eltLines es
  if s.commitBarred ls (eltLeaves es) then .stop s (.wait (.direct ls))
  else match s.mmioElts (s.coreInit s.th.core) es with
  | .error (pa, n, ea) => .stop (s.logMmio (s.coreInit s.th.core) pa n) (.halt (.trap .farerr ea))
  | .ok s1 =>
    match s.awaitTurn with
    | some w => .stop w.1 w.2
    | none =>
    let w := s1.allowed (s1.coreInit s1.th.core) (es.map (fun e => e.buffered)).flatten
    let held := (eltHeld es).filter (fun h => (stashLines es).contains h.line && w.2.any (fun c => lineOf c.1 == h.line))
    let s2 := if w.2.isEmpty then w.1
      else (((w.1.squashHits (Sig.enterAll 0 (ls.map (64 * ·))) ls (some s1.th.tid)).makeVisible w.2).logDirty (eltLeaves es)).ownStash s.myCell held
    .ok ((s2.releaseAll (es.map (fun e => e.deferred s.myCell)).flatten).updArch (fun a => { a with gCharge := a.gCharge + guardCharge es })) () true

/-- Buffer and defer the elements of a store in the open chunk (R39, R40). -/
def State.storeInChunk (s : State) (es : List StoreElt) : State :=
  let cs := (es.map (fun e => e.buffered)).flatten
  let ls := linesOf (cs.map (·.1))
  let items := (es.map (fun e => e.deferred s.myCell)).flatten
  let consult := es.any (fun e => match e.place with | .inner _ _ _ c => c | _ => false)
  let held := eltHeld es
  let charge := guardCharge es
  ((s.openChunk.updChunk (fun c => { c with
    wbuf := cs.foldl bufPut c.wbuf
    lines := dedup (c.lines ++ ls)
    held := c.held.filter (fun h => !ls.contains h.line) ++ held
    slines := dedup (c.slines ++ stashLines es)
    wsig := Sig.enterAll c.wsig (ls.map (64 * ·))
    rsig := if consult then Sig.enter c.rsig (mapLine s.myCell) else c.rsig
    leaves := dedup (c.leaves ++ eltLeaves es)
    defq := c.defq ++ items
    defCount := if items.isEmpty then c.defCount else c.defCount + 1 })).updArch
      (fun a => { a with gCharge := a.gCharge + charge })).fitSets s.th.core ls

/-- A store of elements as one instruction (R37, R68): what it meets first of an MMIO frame, the chunk's limits, a
full set, the guarded budget, a line that a host holds (12: R221); otherwise the elements enter the chunk. -/
def State.storeElts (s : State) (es : List StoreElt) : Got Unit :=
  let ls := eltLines es
  let new := ls.filter (fun l => !s.th.chunk.lines.contains l)
  let items := (es.map (fun e => e.deferred s.myCell)).flatten
  let g := Sig.enterAll s.th.chunk.wsig (ls.map (64 * ·))
  let consult := es.any (fun e => match e.place with | .inner _ _ _ c => c | _ => false)
  let r := if consult then Sig.enter s.th.chunk.rsig (mapLine s.myCell) else s.th.chunk.rsig
  let openC := s.th.chunk.isOpen
  let past := decide (0 < guardCharge es) && decide (s.gBudget < s.th.arch.gCharge + guardCharge es)
  if es.any (fun e => match e.place with | .mmio _ => true | _ => false) then
    (if openC then .stop s (.cut .reissue) else if past then .stop s (.cut .overflow) else s.storeAlone es)
  else if openC && decide (Config.lineLimit < s.th.chunk.lines.length + new.length) then .stop s (.cut .reissue)
  else if openC && ((g.saturated && !new.isEmpty) || (r.saturated && r != s.th.chunk.rsig)) then .stop s (.cut .reissue)
  else if openC && !items.isEmpty && decide (Config.deferLimit ≤ s.th.chunk.defCount) then .stop s (.cut .reissue)
  else if s.setFull new then
    (if openC then .stop s (.cut .reissue)
     else if overSet new then (if past then .stop s (.cut .overflow) else s.storeAlone es)
     else .stop s (.wait .set))
  else if past then .stop s (.cut .overflow)
  else if consult && s.locked [lineOf (mapLine s.myCell)] then .stop s (.wait (.direct [lineOf (mapLine s.myCell)]))
  else if new.any s.hostHolds then .stop s (.wait (.direct (new.filter s.hostHolds)))
  else .ok (s.storeInChunk es) () false

/-- A data store: every element is checked and mapped before any is stored. A watchpoint that stops the core acts before these checks;
CARAVAN, and then BREAK, follow them (R95). -/
def State.store (s : State) (align : Nat) (es : List Elt) : Got Unit :=
  match s.watchAll .store (es.map (fun e => (e.ea, e.n, align))) with
  | some (.hit c u false) => .stop s (.halt (.hit (.hit c u false)))
  | w =>
    match s.resolveStores align es with
    | (s1, .error h) => .stop s1 (.halt h)
    | (s1, .ok elts) =>
      match elts.find? StoreElt.outside, w with
      | some e, _ => .stop s1 (.halt (.trap .caravan e.elt.ea))
      | none, some a => .stop s1 (.halt (.hit a))
      | none, none => s1.storeElts elts

/-- The instruction ends after its access: at its boundary, or inside the chunk. -/
def State.finish (s : State) (atB : Bool) : State := if atB then s.retireBoundary else s.retire

/-- Defer one effect of an instruction that needs one entry; a full queue cuts the chunk before it (R37, R40). -/
def State.deferOr (s : State) (items : List Item) : Got Unit :=
  if s.th.chunk.isOpen && decide (Config.deferLimit ≤ s.th.chunk.defCount) then .stop s (.cut .reissue)
  else .ok (s.openChunk.updChunk (fun c => { c with defq := c.defq ++ items, defCount := c.defCount + 1 })) () false

end Sys2Proof.Machine
end

