-- ==== Sys2Proof/Machine/Alu.lean ====
section
/-! DEFINITION. Integer instructions: arithmetic, logic, comparison, shifts, multiplication and division (16 to 19;
06: R119). Each is plain, sets no flag and raises nothing of its own. -/
namespace Sys2Proof.Machine

/-- The smaller or the larger as signed values. -/
def minS (a b : W64) : W64 := if a.slt b then a else b
/-- The larger as signed values. -/
def maxS (a b : W64) : W64 := if a.slt b then b else a
/-- The smaller as unsigned values. -/
def minU (a b : W64) : W64 := if a.toNat < b.toNat then a else b
/-- The larger as unsigned values. -/
def maxU (a b : W64) : W64 := if a.toNat < b.toNat then b else a
/-- The signed quotient truncated toward zero; all ones for a zero divisor (R119). -/
def divS (a b : W64) : W64 := if b = 0 then BitVec.allOnes 64 else BitVec.ofInt 64 (a.toInt.tdiv b.toInt)
/-- The unsigned quotient; all ones for a zero divisor (R119). -/
def divU (a b : W64) : W64 := if b = 0 then BitVec.allOnes 64 else BitVec.ofNat 64 (a.toNat / b.toNat)
/-- The signed remainder, with the dividend's sign; the dividend for a zero divisor (R119, R349). -/
def remS (a b : W64) : W64 := if b = 0 then a else BitVec.ofInt 64 (a.toInt.tmod b.toInt)
/-- The unsigned remainder; the dividend for a zero divisor. -/
def remU (a b : W64) : W64 := if b = 0 then a else BitVec.ofNat 64 (a.toNat % b.toNat)
/-- Bits 127:64 of the signed product (R337). -/
def mulHigh (a b : W64) : W64 := BitVec.ofInt 64 (a.toInt * b.toInt / 2 ^ 64)
/-- Bits 127:64 of the unsigned product. -/
def mulHighU (a b : W64) : W64 := BitVec.ofNat 64 (a.toNat * b.toNat / 2 ^ 64)
/-- The number of 1 bits (R340). -/
def popCount (a : W64) : Nat := ((countFrom 0 64).filter (fun i => bit a i)).length
/-- The number of zero bits above the highest 1 bit (R296). -/
def clz64 (a : W64) : Nat := if a = 0 then 64 else 63 - Nat.log2 a.toNat
/-- The number of zero bits below the lowest 1 bit (R296). -/
def ctz64 (a : W64) : Nat := ((countFrom 0 64).takeWhile (fun i => !bit a i)).length
/-- The rotation right of R352. -/
def ror64 (a : W64) (s : Nat) : W64 := a >>> s ||| a <<< ((64 - s) % 64)
/-- A shift amount of six bits (R362). -/
def sh6 (b : W64) : Nat := fld b 5 0
/-- A shift amount of five bits (R362). -/
def sh5 (b : W64) : Nat := fld b 4 0
/-- The low word. -/
def word32 (a : W64) : BitVec 32 := a.setWidth 32

/-- ADD (R283): x[rd] := x[rs1] + x[rs2] mod 2^64. -/
def execAdd (d : BitVec 5) (a : BitVec 5) (b : BitVec 5) (st : State) : Ans :=
  .next (st.setResult d (st.x a + st.x b))

/-- SUB (R364): x[rd] := x[rs1] − x[rs2] mod 2^64. -/
def execSub (d : BitVec 5) (a : BitVec 5) (b : BitVec 5) (st : State) : Ans :=
  .next (st.setResult d (st.x a - st.x b))

/-- AND (R289): bitwise and. -/
def execAnd (d : BitVec 5) (a : BitVec 5) (b : BitVec 5) (st : State) : Ans :=
  .next (st.setResult d (st.x a &&& st.x b))

/-- OR (R339): bitwise or. -/
def execOr (d : BitVec 5) (a : BitVec 5) (b : BitVec 5) (st : State) : Ans :=
  .next (st.setResult d (st.x a ||| st.x b))

/-- XOR (R390): bitwise exclusive or. -/
def execXor (d : BitVec 5) (a : BitVec 5) (b : BitVec 5) (st : State) : Ans :=
  .next (st.setResult d (st.x a ^^^ st.x b))

/-- SLL (R362): shift left. -/
def execSll (d : BitVec 5) (a : BitVec 5) (b : BitVec 5) (st : State) : Ans :=
  .next (st.setResult d (st.x a <<< sh6 (st.x b)))

/-- SRL (R362): logical shift right. -/
def execSrl (d : BitVec 5) (a : BitVec 5) (b : BitVec 5) (st : State) : Ans :=
  .next (st.setResult d (st.x a >>> sh6 (st.x b)))

/-- SRA (R362): arithmetic shift right. -/
def execSra (d : BitVec 5) (a : BitVec 5) (b : BitVec 5) (st : State) : Ans :=
  .next (st.setResult d ((st.x a).sshiftRight (sh6 (st.x b))))

/-- ROR (R352): rotate right. -/
def execRor (d : BitVec 5) (a : BitVec 5) (b : BitVec 5) (st : State) : Ans :=
  .next (st.setResult d (ror64 (st.x a) (sh6 (st.x b))))

/-- SLT (R363): signed less than. -/
def execSlt (d : BitVec 5) (a : BitVec 5) (b : BitVec 5) (st : State) : Ans :=
  .next (st.setResult d (w64 ((st.x a).slt (st.x b))))

/-- SLTU (R363): unsigned less than. -/
def execSltu (d : BitVec 5) (a : BitVec 5) (b : BitVec 5) (st : State) : Ans :=
  .next (st.setResult d (w64 ((st.x a).ult (st.x b))))

/-- MIN (R331): signed minimum. -/
def execMin (d : BitVec 5) (a : BitVec 5) (b : BitVec 5) (st : State) : Ans :=
  .next (st.setResult d (minS (st.x a) (st.x b)))

/-- MAX (R331): signed maximum. -/
def execMax (d : BitVec 5) (a : BitVec 5) (b : BitVec 5) (st : State) : Ans :=
  .next (st.setResult d (maxS (st.x a) (st.x b)))

/-- MINU (R331): unsigned minimum. -/
def execMinu (d : BitVec 5) (a : BitVec 5) (b : BitVec 5) (st : State) : Ans :=
  .next (st.setResult d (minU (st.x a) (st.x b)))

/-- MAXU (R331): unsigned maximum. -/
def execMaxu (d : BitVec 5) (a : BitVec 5) (b : BitVec 5) (st : State) : Ans :=
  .next (st.setResult d (maxU (st.x a) (st.x b)))

/-- MUL (R337): the product mod 2^64. -/
def execMul (d : BitVec 5) (a : BitVec 5) (b : BitVec 5) (st : State) : Ans :=
  .next (st.setResult d (st.x a * st.x b))

/-- MULH (R337): the high half of the signed product. -/
def execMulh (d : BitVec 5) (a : BitVec 5) (b : BitVec 5) (st : State) : Ans :=
  .next (st.setResult d (mulHigh (st.x a) (st.x b)))

/-- MULHU (R337): the high half of the unsigned product. -/
def execMulhu (d : BitVec 5) (a : BitVec 5) (b : BitVec 5) (st : State) : Ans :=
  .next (st.setResult d (mulHighU (st.x a) (st.x b)))

/-- DIV (R310): signed quotient. -/
def execDiv (d : BitVec 5) (a : BitVec 5) (b : BitVec 5) (st : State) : Ans :=
  .next (st.setResult d (divS (st.x a) (st.x b)))

/-- DIVU (R310): unsigned quotient. -/
def execDivu (d : BitVec 5) (a : BitVec 5) (b : BitVec 5) (st : State) : Ans :=
  .next (st.setResult d (divU (st.x a) (st.x b)))

/-- REM (R349): signed remainder. -/
def execRem (d : BitVec 5) (a : BitVec 5) (b : BitVec 5) (st : State) : Ans :=
  .next (st.setResult d (remS (st.x a) (st.x b)))

/-- REMU (R349): unsigned remainder. -/
def execRemu (d : BitVec 5) (a : BitVec 5) (b : BitVec 5) (st : State) : Ans :=
  .next (st.setResult d (remU (st.x a) (st.x b)))

/-- CLZ (R296): leading zeros. -/
def execClz (d : BitVec 5) (a : BitVec 5) (st : State) : Ans :=
  .next (st.setResult d (BitVec.ofNat 64 (clz64 (st.x a))))

/-- CTZ (R296): trailing zeros. -/
def execCtz (d : BitVec 5) (a : BitVec 5) (st : State) : Ans :=
  .next (st.setResult d (BitVec.ofNat 64 (ctz64 (st.x a))))

/-- POPC (R340): set bits. -/
def execPopc (d : BitVec 5) (a : BitVec 5) (st : State) : Ans :=
  .next (st.setResult d (BitVec.ofNat 64 (popCount (st.x a))))

/-- ADDW (R283): the sign-extended low word of the sum. -/
def execAddw (d : BitVec 5) (a : BitVec 5) (b : BitVec 5) (st : State) : Ans :=
  .next (st.setResult d (low32s (st.x a + st.x b)))

/-- SUBW (R364): the sign-extended low word of the difference. -/
def execSubw (d : BitVec 5) (a : BitVec 5) (b : BitVec 5) (st : State) : Ans :=
  .next (st.setResult d (low32s (st.x a - st.x b)))

/-- SLLW (R362): shift left in 32 bits. -/
def execSllw (d : BitVec 5) (a : BitVec 5) (b : BitVec 5) (st : State) : Ans :=
  .next (st.setResult d ((word32 (st.x a) <<< sh5 (st.x b)).signExtend 64))

/-- SRLW (R362): logical shift right in 32 bits. -/
def execSrlw (d : BitVec 5) (a : BitVec 5) (b : BitVec 5) (st : State) : Ans :=
  .next (st.setResult d ((word32 (st.x a) >>> sh5 (st.x b)).signExtend 64))

/-- SRAW (R362): arithmetic shift right in 32 bits. -/
def execSraw (d : BitVec 5) (a : BitVec 5) (b : BitVec 5) (st : State) : Ans :=
  .next (st.setResult d (((word32 (st.x a)).sshiftRight (sh5 (st.x b))).signExtend 64))

/-- MULW (R337): the sign-extended low word of the product. -/
def execMulw (d : BitVec 5) (a : BitVec 5) (b : BitVec 5) (st : State) : Ans :=
  .next (st.setResult d (low32s (st.x a * st.x b)))

/-- ADDI (R283): x[rd] := x[rs1] + sext(imm15) mod 2^64. -/
def execAddi (d : BitVec 5) (a : BitVec 5) (i : BitVec 15) (st : State) : Ans :=
  .next (st.setResult d (st.x a + imm15 i))

/-- ANDI (R289): and with sext(imm15). -/
def execAndi (d : BitVec 5) (a : BitVec 5) (i : BitVec 15) (st : State) : Ans :=
  .next (st.setResult d (st.x a &&& imm15 i))

/-- ORI (R339): or with sext(imm15). -/
def execOri (d : BitVec 5) (a : BitVec 5) (i : BitVec 15) (st : State) : Ans :=
  .next (st.setResult d (st.x a ||| imm15 i))

/-- XORI (R390): exclusive or with sext(imm15). -/
def execXori (d : BitVec 5) (a : BitVec 5) (i : BitVec 15) (st : State) : Ans :=
  .next (st.setResult d (st.x a ^^^ imm15 i))

/-- SLTI (R363): signed less than sext(imm15). -/
def execSlti (d : BitVec 5) (a : BitVec 5) (i : BitVec 15) (st : State) : Ans :=
  .next (st.setResult d (w64 ((st.x a).slt (imm15 i))))

/-- SLTIU (R363): unsigned less than sext(imm15). -/
def execSltiu (d : BitVec 5) (a : BitVec 5) (i : BitVec 15) (st : State) : Ans :=
  .next (st.setResult d (w64 ((st.x a).ult (imm15 i))))

/-- SLLI (R362): shift left by shamt. -/
def execSlli (d : BitVec 5) (a : BitVec 5) (s : BitVec 6) (st : State) : Ans :=
  .next (st.setResult d (st.x a <<< s.toNat))

/-- SRLI (R362): logical shift right by shamt. -/
def execSrli (d : BitVec 5) (a : BitVec 5) (s : BitVec 6) (st : State) : Ans :=
  .next (st.setResult d (st.x a >>> s.toNat))

/-- SRAI (R362): arithmetic shift right by shamt. -/
def execSrai (d : BitVec 5) (a : BitVec 5) (s : BitVec 6) (st : State) : Ans :=
  .next (st.setResult d ((st.x a).sshiftRight s.toNat))

/-- ADDIW (R283): the sign-extended low word of x[rs1] + sext(imm15). -/
def execAddiw (d : BitVec 5) (a : BitVec 5) (i : BitVec 15) (st : State) : Ans :=
  .next (st.setResult d (low32s (st.x a + imm15 i)))

/-- LUI (R329): x[rd] := sext(imm20) × 4,096. -/
def execLui (d : BitVec 5) (i : BitVec 20) (st : State) : Ans :=
  .next (st.setResult d (imm20 i))

/-- AUIPC (R290): x[rd] := pc + sext(imm20) × 4,096. -/
def execAuipc (d : BitVec 5) (i : BitVec 20) (st : State) : Ans :=
  .next (st.setResult d (st.th.arch.pc + imm20 i))

end Sys2Proof.Machine
end

