-- ==== Sys2Proof/Machine/Branch.lean ====
section
/-! DEFINITION. Control flow: branches, jumps, window calls and returns, and REPEAT (R33, R34, R36, R293, R294, R324,
R325, R350, R351). -/
namespace Sys2Proof.Machine

/-- Raise ILLEGAL with an instruction's own word (R96, R270). -/
def State.illegalOf (s : State) (i : Instr) : State := s.illegal ((encode i).getD 0)

/-- Go to a checked target (R293): SEGLIMIT when it lies outside g0's range, otherwise what precedes the jump, then
the jump. -/
def State.jump (s : State) (t : W64) (f : State → State) : State :=
  if fld t 63 61 ≠ 0 then s.raise .seglimit t else (f s.openChunk).retireTo t

/-- A conditional branch (R293): no branch in a REPEAT body; a not-taken branch checks nothing. -/
def State.branch (s : State) (i : Instr) (taken : Bool) (o : BitVec 15) : State :=
  if s.th.inBody then s.illegalOf i
  else if taken then s.jump (s.target15 o) (fun k => k.noteBranch true)
  else s.plain (fun k => k.noteBranch false)

/-- BEQ (R293): taken when equal. -/
def execBeq (a : BitVec 5) (b : BitVec 5) (o : BitVec 15) (st : State) : Ans :=
  .next (st.branch (.beq a b o) (st.x a == st.x b) o)
/-- BNE (R293): taken when different. -/
def execBne (a : BitVec 5) (b : BitVec 5) (o : BitVec 15) (st : State) : Ans :=
  .next (st.branch (.bne a b o) (st.x a != st.x b) o)
/-- BLT (R293): taken when below, signed. -/
def execBlt (a : BitVec 5) (b : BitVec 5) (o : BitVec 15) (st : State) : Ans :=
  .next (st.branch (.blt a b o) ((st.x a).slt (st.x b)) o)
/-- BGE (R293): taken when at least, signed. -/
def execBge (a : BitVec 5) (b : BitVec 5) (o : BitVec 15) (st : State) : Ans :=
  .next (st.branch (.bge a b o) (!(st.x a).slt (st.x b)) o)
/-- BLTU (R293): taken when below, unsigned. -/
def execBltu (a : BitVec 5) (b : BitVec 5) (o : BitVec 15) (st : State) : Ans :=
  .next (st.branch (.bltu a b o) ((st.x a).ult (st.x b)) o)
/-- BGEU (R293): taken when at least, unsigned. -/
def execBgeu (a : BitVec 5) (b : BitVec 5) (o : BitVec 15) (st : State) : Ans :=
  .next (st.branch (.bgeu a b o) (!(st.x a).ult (st.x b)) o)

/-- JAL (R324): x[rd] := pc + 4 and a jump to pc + 4 × sext(off20). -/
def execJal (d : BitVec 5) (o : BitVec 20) (st : State) : Ans :=
  .next (if st.th.inBody then st.illegalOf (.jal d o)
    else st.jump (st.target20 o) (fun k => k.setX d (st.th.arch.pc + 4)))

/-- JALR (R325): the target is formed before rd is written; a misaligned one raises ALIGN. -/
def execJalr (d : BitVec 5) (a : BitVec 5) (i : BitVec 15) (st : State) : Ans :=
  .next (if st.th.inBody then st.illegalOf (.jalr d a i)
    else
      let t := st.ea a i
      if fld t 1 0 ≠ 0 then st.raise .align t
      else st.jump t (fun k => (k.setX d (st.th.arch.pc + 4)).noteTarget t))

/-! ## Windows -/

/-- The place's line is poisoned in this module (14: R258). -/
def State.poisonedPlace (s : State) : Place → Bool
  | .inner key _ _ _ => s.poisonedAt { home := none, pa := key } 64
  | .far home pa _ => s.poisonedAt { home := some home, pa := pa } 64
  | _ => false

/-- The effective address of frame `k`. -/
def frameEa (k : Nat) : W64 := BitVec.ofNat 64 (7 * 2 ^ 61 + 64 * k)

/-- The place of frame `k`: 64 bytes at g7 offset 64 k, checked like a data access (R33, R34). -/
def State.framePlace (s : State) (k : Nat) (acc : Access) : State × Except Halt Place :=
  let ea := frameEa k
  match segCheck s.th.seg ea 64 64 acc with
  | .error c => (s, .error (.trap c ea))
  | .ok (.inl off) => if (s.cell s.myCell).area < off + 64 then (s, .error (.trap .seglimit ea)) else (s, .ok (.ring off))
  | .ok (.inr va) =>
    let core := s.th.core
    let cluster := clusterOf (cellOf core)
    match s.translate (s.asidOf core) (s.rootOf core) cluster va acc with
    | (s1, .error r) => (s1, .error (.fault (BitVec.ofNat 64 va) r acc))
    | (s1, .ok e) =>
      let p := s1.placeOf (segOf s.th.seg ea) (s.asidOf core) cluster va e
      (s1, if acc == .load && s1.poisonedPlace p then .error (.trap .poison ea) else .ok p)

/-- The eight doublewords of a frame (R33). -/
def Arch.frame (a : Arch) (k : Nat) : List W64 := (countFrom 0 8).map (fun i => Map.get 0 a.win (8 * k + i))

/-- Put eight doublewords into a frame. -/
def Arch.setFrame (a : Arch) (k : Nat) (ws : List W64) : Arch :=
  { a with win := (ws.zipIdx).foldl (fun m p => Map.set 0 m (8 * k + p.2) p.1) a.win }

/-- The home of a frame's place lets it be written or read: the firewall, the partition and the routes (12: R212 to R214; 13: R225, R226). A denial is
logged; a transfer that routing holds marks the step as held (`State.asFront`). -/
def State.frameHome (s : State) (p : Place) (acc : Access) : State × Bool :=
  let i := s.coreInit s.th.core
  match p with
  | .inner key _ _ _ =>
    if isHostKey key || s.permits i key (acc == .store) then (s, true) else (s.logDenied i key 64 (acc == .store), false)
  | .far home pa cls =>
    let l : Loc := { home := some home, pa := pa }
    let since := Map.get none s.fabric.heldAt s.fabric.asker
    if s.holds home cls since then ({ s with fabric := { s.fabric with held := true } }, false)
    else if (s.homeFail l .wounoLink cls since).isSome then (s.logHome l .wounoLink, false)
    else (s, true)
  | .mmio _ => (s, false)
  | _ => (s, true)

/-- Frame `k` has a place, whose home turns it away (assumption 75). -/
def State.frameDenied (s : State) (k : Nat) (acc : Access) : Bool :=
  match s.framePlace k acc with
  | (s1, .ok p) => !(s1.frameHome p acc).2
  | _ => false

/-- Bytes of a line of this module or of a host, outside chunk tracking: written whole, they clear its poison mark (14: R258), and a host gives its line
up, which is then held in M (12: R221). -/
def State.putFrame (s : State) (key : Nat) (bs : List Byte) : State :=
  let cs := mcellsAt key bs
  let s1 := ((s.putCells cs).unhold [lineOf key]).setMesi [lineOf key] 3
  { s1 with poisoned := s1.poisoned.filter (fun l => !fullyWritten cs l) }

/-- Write frame `k` to its place, outside chunk tracking (R33); false when the place fails a check (R34) or its home turns it away. -/
def State.writeFrame (s : State) (k : Nat) : State × Bool :=
  let bs := ((s.th.arch.frame k).map (fun w => leBytes 8 w.toNat)).flatten
  match s.framePlace k .store with
  | (s1, .error _) => (s1, false)
  | (s1, .ok p) =>
    match s1.frameHome p .store with
    | (s2, false) => (s2, false)
    | (s2, true) => (match p with
      | .ring off => s2.updCell s2.myCell (fun c => { c with ringMem := Memory.writeBytes c.ringMem off bs })
      | .inner key _ _ _ => s2.putFrame key bs
      | .hostPcie port a => s2.putCells (mcellsAt (hostKey port a) bs)
      | .far home pa _ =>
        if home = s2.moduleId then s2.putFrame pa bs
        else
          let mark := s2.poisonKey { home := some home, pa := pa }
          { s2 with farMem := Memory.writeBytes s2.farMem (farKey home pa) bs, poisoned := s2.poisoned.filter (· != mark) }
      | .mmio _ => s2, true)

/-- Write frames in order, up to the first that fails. -/
def State.writeFrames (s : State) : List Nat → State × Bool
  | [] => (s, true)
  | k :: ks => match s.writeFrame k with
    | (s1, true) => s1.writeFrames ks
    | x => x

/-- Spill frame `k` (R33); false when it cannot be written. The frame leaves the local store, also of the chunk's
start: a squash does not undo a spill (R43). -/
def State.spillFrame (s : State) (k : Nat) : State × Bool :=
  match s.writeFrame k with
  | (s1, true) => (s1.updTh (fun t => { t with
      arch := { t.arch with frames := t.arch.frames.filter (· != k) }
      chunk := { t.chunk with start := { t.chunk.start with frames := t.chunk.start.frames.filter (· != k) } } }), true)
  | x => x

/-- The last place of a core's run queue. -/
def State.queueTail (s : State) (core : Nat) : Nat :=
  (s.allThreads.filter (fun t => t.core == core && t.slot.isNone)).foldl (fun m t => Nat.max m (t.qpos + 1)) 0

/-- Spill the issuing thread's local-store frames (R31), each counted as a spill (14: R254); the window's registers stay in its image. False
when a spill fails, and then its frames stay. -/
def State.spillAll (s : State) : State × Bool :=
  let d := s.th.arch.depth
  match s.writeFrames s.th.arch.frames with
  | (s1, false) => (s1, false)
  | (s1, true) =>
    ((s1.perf s.th.core 0x13 s.th.arch.frames.length).updArch (fun a => { a with frames := a.frames.filter (fun k => k == d || k == d + 1) }), true)

/-- Move the issuing thread to the tail of its core's run queue, its frames spilled. A spill that fails abandons the swap: the thread
stays in its slot and its frames stay (R31). -/
def State.toQueue (s : State) : State :=
  match s.spillAll with
  | (s1, false) => s1.updTh (fun t => { t with swapBarred := true })
  | (s1, true) => s1.updTh (fun t => { t with slot := none, qpos := s1.queueTail t.core })

/-- The bytes of frame `k` at its place, as its home has them: a far moon serves none, since it may be older than the spill (assumption 75). The line's
reader gets its delay (12: R216), and a host gives it up, after which it is held in S (12: R221). -/
def State.frameBytes (s : State) (p : Place) : State × List Byte :=
  let core := s.th.core
  let die := dieOf (cellOf core)
  match p with
  | .ring off => (s, Memory.readBytes (s.cell s.myCell).ringMem off 64)
  | .inner key _ _ _ =>
    let q := (s.unhold [lineOf key]).serveRead die (lineOf key)
    (if q.2 = die then q.1 else q.1.addDelay core q.2, s.bytesAt key 64)
  | .hostPcie port a => (s, s.bytesAt (hostKey port a) 64)
  | .far home pa cls => let l : Loc := { home := some home, pa := pa }; (s.replyDelay core l cls, s.homeBytes l 64)
  | .mmio _ => (s, [])

/-- Fill frame `k` from its place (R33); false when it cannot be read. -/
def State.fillFrame (s : State) (k : Nat) : State × Bool :=
  match s.framePlace k .load with
  | (s1, .error _) => (s1, false)
  | (s1, .ok p) =>
    match s1.frameHome p .load with
    | (s2, false) => (s2, false)
    | (s2, true) =>
      let q := s2.frameBytes p
      let put := fun (a : Arch) => { a.setFrame k (wordsOf 8 q.2) with frames := k :: a.frames.filter (· != k) }
      (q.1.updTh (fun t => { t with
        arch := put t.arch
        chunk := if t.chunk.isOpen then { t.chunk with start := put t.chunk.start } else t.chunk }), true)

/-- The frame chosen for spilling: the lowest-numbered resident one that is neither in the window nor written by the
open chunk (R33, R34). -/
def State.victim (s : State) : Option Nat :=
  let d := s.th.arch.depth
  ((s.th.arch.frames.filter (fun k => k != d && k != d + 1 && !(s.th.chunk.isOpen && s.th.chunk.framesW.contains k)))).min?

/-- The instruction waits for a spill or a fill (R26, R27). -/
def State.spillWait (s : State) (p : Pending) : State := s.updTh (fun t => { t with st := .spillWait, pend := p })

/-- The new frame of a CALLW, with undefined contents (R33; assumption 5), and the rotation down. -/
def State.pushFrame (s : State) : State :=
  let k := s.th.arch.depth + 2
  let ws := (countFrom s.free 8).map Config.freeWord
  let s1 := (s.updArch (fun a => { a.setFrame k ws with depth := a.depth + 1, frames := a.frames ++ [k] })).updChunk
    (fun c => { c with framesW := c.framesW ++ [k] })
  { s1 with free := s1.free + 8 }

/-- CALLW (R294): a frame is obtained under R33 and R34, rd is written in the caller's window, then the window rotates. Where the home of the frame's
place turns the spill away, FARERR is taken here, as for a load (assumption 75). -/
def execCallw (d : BitVec 5) (o : BitVec 20) (st : State) : Ans :=
  .next (if st.th.inBody then st.illegalOf (.callw d o)
    else
      let t := st.target20 o
      if fld t 63 61 ≠ 0 then st.raise .seglimit t
      else if st.th.arch.frames.length < Config.frameLimit then
        st.jump t (fun k => (k.setX d (st.th.arch.pc + 4)).pushFrame)
      else match st.victim with
        | none => st.cut .reissue
        | some k =>
          match st.framePlace k .store with
          | (s1, .error h) => s1.haltWith h
          | (s1, .ok _) => if s1.th.replyBad then s1.raise .farerr (frameEa k) else s1.spillWait (.spill k))

/-- RETW (R351): the caller's frame is filled when it is not resident; frame depth + 1 is discarded. -/
def execRetw (a : BitVec 5) (st : State) : Ans :=
  .next (if st.th.inBody then st.illegalOf (.retw a)
    else
      let depth := st.th.arch.depth
      let t := st.x a
      if depth = 0 then st.illegalOf (.retw a)
      else if fld t 1 0 ≠ 0 then st.raise .align t
      else if fld t 63 61 ≠ 0 then st.raise .seglimit t
      else if st.th.arch.frames.contains (depth - 1) then
        st.jump t (fun k => (k.updArch (fun a =>
          { a with depth := depth - 1, frames := a.frames.filter (· != depth + 1) })).noteTarget t)
      else
        match st.framePlace (depth - 1) .load with
        | (s1, .error h) => s1.haltWith h
        | (s1, .ok _) => if s1.th.replyBad then s1.raise .farerr (frameEa (depth - 1)) else s1.spillWait (.fill (depth - 1)))

/-- REPEAT (R36, R350): no REPEAT inside a body or a handler; a count of zero skips the body. -/
def execRepeatI (a : BitVec 5) (n : BitVec 6) (st : State) : Ans :=
  .next (
    let count := (st.x a).toNat
    if st.th.act || st.th.inh then st.illegalOf (.repeatI a n)
    else if 2 ^ 32 ≤ count then st.raise .repeatCount (st.x a)
    else if count = 0 then st.openChunk.retireTo (st.th.arch.pc + 4 + 4 * (n.setWidth 64 + 1))
    else
      -- the instruction itself is not a body instruction: it is not sequenced by the REPCNT it writes
      (st.openChunk.retire).updArch (fun r =>
        { r with repcnt := BitVec.ofNat 64 (2 ^ 63 + n.toNat * 2 ^ 50 + count) }))

end Sys2Proof.Machine
end

