-- ==== Sys2Proof/Machine/Fp.lean ====
section
/-! DEFINITION. Exact numbers, element formats, and the one rounding and conversion rule of 06: R104 to R113. -/
namespace Sys2Proof.Machine

/-- A floating format: exponent and fraction bits, bias, which special encodings it has (0 none, 1 the E4M3 NaN,
2 infinity and NaNs), and the low bits of its container below the fraction (R105, R107). -/
structure Flt where
  eb : Nat
  mb : Nat
  bias : Nat
  special : Nat
  pad : Nat
  deriving DecidableEq, Repr

/-- An element format (R104). -/
inductive Elem where
  | int (signed : Bool) (w : Nat)
  | flt (f : Flt)
  deriving DecidableEq, Repr

/-- E2M1. -/
def fE2M1 : Flt := ⟨2, 1, 1, 0, 0⟩
/-- E2M3. -/
def fE2M3 : Flt := ⟨2, 3, 1, 0, 0⟩
/-- E3M2. -/
def fE3M2 : Flt := ⟨3, 2, 3, 0, 0⟩
/-- E4M3. -/
def fE4M3 : Flt := ⟨4, 3, 7, 1, 0⟩
/-- E5M2. -/
def fE5M2 : Flt := ⟨5, 2, 15, 2, 0⟩
/-- FP16. -/
def fF16 : Flt := ⟨5, 10, 15, 2, 0⟩
/-- BF16. -/
def fBF16 : Flt := ⟨8, 7, 127, 2, 0⟩
/-- FP19 in its 32-bit container. -/
def fF19 : Flt := ⟨8, 10, 127, 2, 13⟩
/-- binary32. -/
def fF32 : Flt := ⟨8, 23, 127, 2, 0⟩
/-- binary64. -/
def fF64 : Flt := ⟨11, 52, 1023, 2, 0⟩

/-- Bits of a format's container. -/
def Flt.width (f : Flt) : Nat := 1 + f.eb + f.mb + f.pad
/-- Encoding of the largest finite magnitude. -/
def Flt.maxEnc (f : Flt) : Nat :=
  if f.special = 2 then (2 ^ f.eb - 1) * 2 ^ f.mb - 1
  else if f.special = 1 then 2 ^ (f.eb + f.mb) - 2 else 2 ^ (f.eb + f.mb) - 1
/-- The canonical NaN (R106). -/
def Flt.nanEnc (f : Flt) : Nat :=
  if f.special = 1 then 2 ^ (f.eb + f.mb) - 1 else (2 ^ f.eb - 1) * 2 ^ f.mb + 2 ^ (f.mb - 1)
/-- Encoding of infinity's magnitude. -/
def Flt.infEnc (f : Flt) : Nat := (2 ^ f.eb - 1) * 2 ^ f.mb
/-- A sign and a magnitude encoding as a container. -/
def Flt.pack (f : Flt) (neg : Bool) (enc : Nat) : Nat := ((if neg then 2 ^ (f.eb + f.mb) else 0) + enc) * 2 ^ f.pad

/-- The element format of a code of R104; a scaled code names its element format. -/
def fmtElem (c : Nat) : Elem :=
  match c with
  | 0x00 => .int true 4 | 0x01 => .int false 4 | 0x02 => .int true 8 | 0x03 => .int false 8
  | 0x04 => .flt fE2M1 | 0x05 => .flt fE2M3 | 0x06 => .flt fE3M2 | 0x07 => .flt fE4M3 | 0x08 => .flt fE5M2
  | 0x09 => .flt fF16 | 0x0A => .flt fBF16 | 0x0B => .flt fF32
  | 0x0C => .int true 4 | 0x0D => .int true 8
  | 0x0E => .flt fE2M1 | 0x0F => .flt fE2M3 | 0x10 => .flt fE3M2 | 0x11 => .flt fE4M3 | 0x12 => .flt fE5M2
  | 0x13 => .flt fE2M1 | 0x14 => .flt fE2M3 | 0x15 => .flt fE3M2 | 0x16 => .flt fE4M3 | 0x17 => .flt fE5M2
  | 0x18 => .int true 8 | 0x19 => .flt fE2M1 | 0x1A => .int true 4 | 0x1B => .flt fF19
  | _ => .int false 8

/-- Bits an element takes in storage (R104, R107). -/
def Elem.bits : Elem → Nat
  | .int _ w => w
  | .flt f => f.width

/-- The scale scheme of a code: 0 none, 1 VT, 2 MX32, 3 B16, 4 G128 (R104). -/
def fmtScheme (c : Nat) : Nat :=
  if 0x0C ≤ c ∧ c ≤ 0x12 then 1 else if 0x13 ≤ c ∧ c ≤ 0x18 then 2 else if c = 0x19 then 3 else if c = 0x1A then 4 else 0

/-- The value of a container's bits (R105, R106). -/
def Flt.unpack (f : Flt) (bits : Nat) : FVal :=
  let b := bits / 2 ^ f.pad % 2 ^ (1 + f.eb + f.mb)
  let neg := decide (2 ^ (f.eb + f.mb) ≤ b)
  let mag := b % 2 ^ (f.eb + f.mb)
  let ex := mag / 2 ^ f.mb
  let fr := mag % 2 ^ f.mb
  if f.special = 2 ∧ ex = 2 ^ f.eb - 1 then
    (if fr = 0 then .inf neg else .nan (decide (3 ≤ f.mb) && decide (fr < 2 ^ (f.mb - 1))))
  else if f.special = 1 ∧ mag = 2 ^ (f.eb + f.mb) - 1 then .nan false
  else if ex = 0 then .fin neg fr (1 - (f.bias : Int) - (f.mb : Int))
  else .fin neg (2 ^ f.mb + fr) ((ex : Int) - (f.bias : Int) - (f.mb : Int))

/-- The value of an element's bits. -/
def Elem.unpack (k : Elem) (bits : Nat) : FVal :=
  match k with
  | .int sg w =>
    let v := bits % 2 ^ w
    if sg && decide (2 ^ (w - 1) ≤ v) then .fin true (2 ^ w - v) 0 else .fin false v 0
  | .flt f => f.unpack bits

/-! ## Exact arithmetic -/

/-- NaN of either kind. -/
def FVal.isNan : FVal → Bool | .nan _ => true | _ => false
/-- Signalling NaN. -/
def FVal.isSig : FVal → Bool | .nan s => s | _ => false
/-- Neither infinite nor NaN. -/
def FVal.isFin : FVal → Bool | .fin _ _ _ => true | _ => false
/-- ± 0. -/
def FVal.isZero : FVal → Bool | .fin _ m _ => m == 0 | _ => false
/-- The sign bit. -/
def FVal.isNeg : FVal → Bool | .nan _ => false | .inf n => n | .fin n _ _ => n
/-- Reverse the sign. -/
def FVal.neg : FVal → FVal | .nan s => .nan s | .inf n => .inf (!n) | .fin n m e => .fin (!n) m e
/-- Clear the sign. -/
def FVal.abs : FVal → FVal | .nan s => .nan s | .inf _ => .inf false | .fin _ m e => .fin false m e

/-- The signed significand at exponent `e0 ≤ e`. -/
def scaled (n : Bool) (m : Nat) (e e0 : Int) : Int :=
  let v : Int := (m * 2 ^ (e - e0).toNat : Nat)
  if n then -v else v

/-- The sum; an exact zero is +0 unless both terms are −0, or −0 under RDN for terms of differing sign
(IEEE 754, R116, R120). -/
def FVal.add (down : Bool) (a b : FVal) : FVal :=
  match a, b with
  | .nan _, _ => .nan false
  | _, .nan _ => .nan false
  | .inf n, .inf k => if n = k then .inf n else .nan false
  | .inf n, _ => .inf n
  | _, .inf n => .inf n
  | .fin n m e, .fin k l f =>
    let e0 := min e f
    let v := scaled n m e e0 + scaled k l f e0
    if v = 0 then .fin (if m = 0 ∧ l = 0 then (if n = k then n else down) else down) 0 0
    else .fin (decide (v < 0)) v.natAbs e0

/-- The sum of opposite infinities, which is invalid. -/
def FVal.addInvalid (a b : FVal) : Bool :=
  match a, b with
  | .inf n, .inf k => n != k
  | _, _ => false

/-- The product. -/
def FVal.mul (a b : FVal) : FVal :=
  match a, b with
  | .nan _, _ => .nan false
  | _, .nan _ => .nan false
  | .inf n, .inf k => .inf (n != k)
  | .inf n, .fin k l _ => if l = 0 then .nan false else .inf (n != k)
  | .fin n m _, .inf k => if m = 0 then .nan false else .inf (n != k)
  | .fin n m e, .fin k l f => .fin (n != k) (m * l) (e + f)

/-- ∞ × 0, which is invalid. -/
def FVal.mulInvalid (a b : FVal) : Bool :=
  match a, b with
  | .inf _, .fin _ l _ => l == 0
  | .fin _ m _, .inf _ => m == 0
  | _, _ => false

/-- Compare two numbers that are no NaN: a < b, with −0 equal to +0. -/
def FVal.lt (a b : FVal) : Bool :=
  match a, b with
  | .inf n, .inf k => n && !k
  | .inf n, _ => n
  | _, .inf k => !k
  | .fin n m e, .fin k l f => let e0 := min e f; decide (scaled n m e e0 < scaled k l f e0)
  | _, _ => false

/-- Equal as numbers. -/
def FVal.eq (a b : FVal) : Bool := !a.isNan && !b.isNan && !(a.lt b) && !(b.lt a)

/-- A significand with at least `k` bits, keeping a sticky bit for what is dropped below (R116: one rounding). -/
def withSticky (neg : Bool) (q : Nat) (inexact : Bool) (e : Int) : FVal :=
  if inexact then .fin neg (2 * q + 1) (e - 1) else .fin neg q e

/-- The quotient to 130 significant bits or more with a sticky bit; NV and DZ cases are the caller's. -/
def FVal.div (a b : FVal) : FVal :=
  match a, b with
  | .nan _, _ => .nan false
  | _, .nan _ => .nan false
  | .inf _, .inf _ => .nan false
  | .inf n, .fin k _ _ => .inf (n != k)
  | .fin n _ _, .inf k => .fin (n != k) 0 0
  | .fin n m e, .fin k l f =>
    if l = 0 then (if m = 0 then .nan false else .inf (n != k))
    else
      let sh := 130 + Nat.log2 l
      let q := m * 2 ^ sh / l
      withSticky (n != k) q (m * 2 ^ sh % l != 0) (e - f - sh)

/-- One bit of an integer square root. -/
def isqrtStep (v r i : Nat) : Nat := if (r + 2 ^ i) * (r + 2 ^ i) ≤ v then r + 2 ^ i else r
/-- The integer square root of a number below 4^n. -/
def isqrt (v : Nat) : Nat → Nat → Nat
  | 0, r => r
  | n + 1, r => isqrt v n (isqrtStep v r n)

/-- The square root with a sticky bit. -/
def FVal.sqrt : FVal → FVal
  | .nan _ => .nan false
  | .inf n => if n then .nan false else .inf false
  | .fin n m e =>
    if m = 0 then .fin n 0 0
    else if n then .nan false
    else
      let odd := e % 2 != 0
      let m2 := (if odd then 2 * m else m) * 2 ^ 260
      let e2 := (if odd then e - 1 else e) - 260
      let r := isqrt m2 (Nat.log2 m2 / 2 + 1) 0
      withSticky false r (r * r != m2) (e2 / 2)

/-- 1/√x with a sticky bit, for x > 0 finite. -/
def FVal.rsqrt : FVal → FVal
  | .nan _ => .nan false
  | .inf n => if n then .nan false else .fin false 0 0
  | .fin n m e =>
    if m = 0 then .inf n
    else if n then .nan false
    else
      let odd := e % 2 != 0
      let m2 := if odd then 2 * m else m
      let e2 := if odd then e - 1 else e
      let v := 2 ^ 400 / m2
      let r := isqrt v 201 0
      withSticky false r (r * r * m2 != 2 ^ 400) (-200 - e2 / 2)

/-- Guard bits of the exponential (assumption 18). -/
def expBits : Nat := 320
/-- Σ 1 / (k 2^k) from k up: ln 2 scaled by 2^expBits. -/
def ln2Sum : Nat → Nat → Nat
  | 0, _ => 0
  | n + 1, k => 2 ^ expBits / (k * 2 ^ k) + ln2Sum n (k + 1)
/-- Taylor terms of e^y with y scaled by 2^expBits: the current term and the sum. -/
def expSum (y : Nat) : Nat → Nat → Nat → Nat
  | 0, _, _ => 0
  | n + 1, k, term => term + expSum y n (k + 1) (term * y / 2 ^ expBits / (k + 1))

/-- 2^x with a sticky bit; exact for integers (R117). -/
def FVal.exp2 : FVal → FVal
  | .nan _ => .nan false
  | .inf n => if n then .fin false 0 0 else .inf false
  | .fin n m e =>
    if m = 0 then .fin false 1 0
    else if (14 : Int) ≤ e + Nat.log2 m then (if n then .fin false 1 (-40000) else .fin false 1 40000)
    else
      let scaledX : Int := if 0 ≤ e then (m * 2 ^ e.toNat * 2 ^ expBits : Nat) else (m * 2 ^ expBits / 2 ^ (-e).toNat : Nat)
      let exact := if 0 ≤ e then true else m * 2 ^ expBits % 2 ^ (-e).toNat == 0
      let fx : Int := if n then (if exact then -scaledX else -scaledX - 1) else scaledX
      let ip := fx / (2 ^ expBits : Nat)
      let fp := (fx - ip * (2 ^ expBits : Nat)).toNat
      if fp = 0 ∧ exact = true then .fin false 1 ip
      else withSticky false (expSum (fp * ln2Sum 330 1 / 2 ^ expBits) 100 0 (2 ^ expBits)) true (ip - expBits)

/-! ## Rounding and conversion -/

/-- Flag bits of FCSR (R114). -/
def fNV : Nat := 1
/-- Division by zero. -/
def fDZ : Nat := 2
/-- Overflow. -/
def fOF : Nat := 4
/-- Underflow. -/
def fUF : Nat := 8
/-- Inexact. -/
def fNX : Nat := 16

/-- Round m × 2^e to a multiple of 2^q under a mode: the rounded significand, and whether it is inexact (R109, R110). -/
def roundAt (rm : Rm) (neg : Bool) (m : Nat) (e q : Int) (rnd : Nat) : Nat × Bool :=
  if q ≤ e then (m * 2 ^ (e - q).toNat, false)
  else
    let d := (q - e).toNat
    let t := m / 2 ^ d
    let r := m % 2 ^ d
    let up := match rm with
      | .rne => decide (2 ^ d < 2 * r) || (2 * r == 2 ^ d && t % 2 == 1)
      | .rtz => false
      | .rdn => neg && r != 0
      | .rup => !neg && r != 0
      | .rmm => decide (2 ^ d ≤ 2 * r)
      | .sr => decide (2 ^ 32 ≤ r * 2 ^ 32 / 2 ^ d + rnd)
    (if up then t + 1 else t, r != 0)

/-- The magnitude encoding of significand `g` at spacing exponent `q` (g ≤ 2^(mb+1)); it may exceed the format's range. -/
def Flt.enc (f : Flt) (g : Nat) (q : Int) : Nat :=
  if g < 2 ^ f.mb then g
  else
    let g2 := if g = 2 ^ (f.mb + 1) then 2 ^ f.mb else g
    let q2 := if g = 2 ^ (f.mb + 1) then q + 1 else q
    (q2 + f.mb + f.bias).toNat * 2 ^ f.mb + (g2 - 2 ^ f.mb)

/-- Does an overflow of a sign under a mode give infinity (R112)? -/
def overInf (f : Flt) (rm : Rm) (sat neg : Bool) : Bool :=
  f.special == 2 && !sat &&
  match rm with
  | .rne | .rmm | .sr => true
  | .rtz => false
  | .rdn => neg
  | .rup => !neg

/-- Convert an exact value to a floating format: bits and flags (R109 to R113; FTZ: R116). -/
def Flt.round (f : Flt) (rm : Rm) (sat ftz : Bool) (rnd : Nat) (x : FVal) : Nat × Nat :=
  match x with
  | .nan s => if f.special = 0 then (0, fNV) else (f.pack false f.nanEnc, if s then fNV else 0)
  | .inf n => if f.special ≠ 2 ∨ sat = true then (f.pack n f.maxEnc, fOF) else (f.pack n f.infEnc, 0)
  | .fin n m e =>
    if m = 0 then (f.pack n 0, 0)
    else
      let top := e + Nat.log2 m
      let qmin := 1 - (f.bias : Int) - (f.mb : Int)
      let q := max (top - f.mb) qmin
      let r := roundAt rm n m e q rnd
      let free := roundAt rm n m e (top - f.mb) rnd
      let tiny := decide (top < 1 - (f.bias : Int)) &&
        !(decide (top = - (f.bias : Int)) && free.1 == 2 ^ (f.mb + 1))
      let enc := f.enc r.1 q
      if f.maxEnc < enc then (f.pack n (if overInf f rm sat n then f.infEnc else f.maxEnc), fOF + fNX)
      else if ftz && tiny then (f.pack n 0, fUF + fNX)
      else (f.pack n enc, (if r.2 then fNX else 0) + (if tiny && r.2 then fUF else 0))

/-- Convert an exact value to an integer of `w` bits: bits and flags (R111). -/
def roundInt (sg : Bool) (w : Nat) (rm : Rm) (rnd : Nat) (x : FVal) : Nat × Nat :=
  let lo : Int := if sg then -((2 ^ (w - 1) : Nat) : Int) else 0
  let hi : Int := if sg then ((2 ^ (w - 1) : Nat) : Int) - 1 else ((2 ^ w : Nat) : Int) - 1
  let bits := fun (v : Int) => (v % ((2 ^ w : Nat) : Int)).toNat
  match x with
  | .nan _ => (0, fNV)
  | .inf n => (bits (if n then lo else hi), fNV)
  | .fin n m e =>
    let r := roundAt rm n m e 0 rnd
    let v : Int := if n then -(r.1 : Int) else (r.1 : Int)
    if v < lo then (bits lo, fNV) else if hi < v then (bits hi, fNV) else (bits v, if r.2 then fNX else 0)

/-- Convert an exact value to an element format (R111). FTZ acts on FP16, BF16, FP32 and binary64 alone (R116). -/
def Elem.convert (k : Elem) (rm : Rm) (sat ftz : Bool) (rnd : Nat) (x : FVal) : Nat × Nat :=
  match k with
  | .int sg w => roundInt sg w rm rnd x
  | .flt f => f.round rm sat (ftz && (f == fF16 || f == fBF16 || f == fF32 || f == fF64)) rnd x

/-- Flush a subnormal input under FTZ (R116). -/
def Flt.flush (f : Flt) (ftz : Bool) (x : FVal) : FVal :=
  match x with
  | .fin n m e => if ftz && decide (m < 2 ^ f.mb) then .fin n 0 e else x
  | _ => x

/-- FP32 with RNE, no flags: the engine's rne32 (R120), as a value. -/
def rne32 (x : FVal) : FVal := fF32.unpack (fF32.round .rne false false 0 x).1

/-! ## Stochastic rounding (R110) -/

/-- The mix step M on 32 bits. -/
def srMix (h : Nat) : Nat :=
  let h1 := Nat.xor h (h / 2 ^ 16)
  let h2 := h1 * 0x7FEB352D % 2 ^ 32
  let h3 := Nat.xor h2 (h2 / 2 ^ 15)
  let h4 := h3 * 0x846CA68B % 2 ^ 32
  Nat.xor h4 (h4 / 2 ^ 16)

/-- The 32 random bits of an element (R110). -/
def srBits (seed count : W64) (idx : Nat) : Nat :=
  let h0 := srMix (fld count 63 32)
  let h1 := srMix (Nat.xor h0 (fld count 31 0))
  let h2 := srMix (Nat.xor h1 idx)
  let h3 := srMix (Nat.xor h2 (fld seed 31 0))
  srMix (Nat.xor h3 (fld seed 63 32))

end Sys2Proof.Machine
end

