-- ==== Sys2Proof/Machine/Flags.lean ====
section
/-! DEFINITION. Flag and rounding-mode handling of FCSR and MSTAT (06: R109, R114, R115). -/
namespace Sys2Proof.Machine

/-- A rounding code as a mode; reserved codes have none. -/
def rmOfCode (c : Nat) : Option Rm :=
  match c with
  | 0 => some .rne | 1 => some .rtz | 2 => some .rdn | 3 => some .rup | 4 => some .rmm | 5 => some .sr | _ => none

/-- FCSR.RM (R114). -/
def Arch.rmField (a : Arch) : Nat := fld a.fcsr 10 8
/-- FCSR.FTZ. -/
def Arch.ftz (a : Arch) : Bool := bit a.fcsr 12

/-- The mode of an instruction's rounding field; none where R109 raises ILLEGAL. -/
def Arch.modeOf (a : Arch) (srOk : Bool) (r : Nat) : Option Rm :=
  match rmOfCode (if r = 7 then a.rmField else r) with
  | some .sr => if srOk then some .sr else none
  | o => o

/-- The dynamic mode FCSR.RM. -/
def Arch.dynMode (a : Arch) (srOk : Bool) : Option Rm := a.modeOf srOk 7

/-- OR flags into FCSR (R114). -/
def Arch.raiseFlags (a : Arch) (f : Nat) : Arch := { a with fcsr := a.fcsr ||| BitVec.ofNat 64 (f % 32) }

/-- The OR of flag sets. -/
def orFlags (fs : List Nat) : Nat := fs.foldl Nat.lor 0

/-- The SR count after an instruction of a mode (R110). -/
def Arch.srStep (a : Arch) (rm : Rm) : Arch := if rm = .sr then { a with srcount := a.srcount + 1 } else a

/-- Does a conversion set MSTAT.SATF (R115): overflow, integer saturation, NaN to +0? -/
def satf (k : Elem) (flags : Nat) : Bool :=
  Nat.testBit flags 2 || (Nat.testBit flags 0 && match k with | .int _ _ => true | .flt f => f.special == 0)

end Sys2Proof.Machine
end

