-- ==== Sys2Proof/Machine/FpScalar.lean ====
section
/-! DEFINITION. Scalar floating point (06: R109 to R117; R312 to R321). -/
namespace Sys2Proof.Machine

/-! ## One operation on encodings: result bits and flags, used by scalar and vector instructions -/

/-- The value of an operand's bits, a subnormal read as zero under FTZ (R116). -/
def Flt.read (f : Flt) (ftz : Bool) (bits : Nat) : FVal := f.flush ftz (f.unpack bits)

/-- NV for an invalid operation or a signalling operand. -/
def nvIf (b : Bool) : Nat := if b then fNV else 0

/-- Round a result once, adding NV where the operation is invalid (R313). -/
def Flt.result (f : Flt) (rm : Rm) (ftz invalid : Bool) (x : FVal) : Nat × Nat :=
  let r := f.round rm false ftz 0 x
  (r.1, Nat.lor r.2 (nvIf invalid))

/-- a + b. -/
def Flt.addOp (f : Flt) (rm : Rm) (ftz : Bool) (a b : Nat) : Nat × Nat :=
  let x := f.read ftz a
  let y := f.read ftz b
  f.result rm ftz (x.isSig || y.isSig || x.addInvalid y) (x.add (rm == .rdn) y)

/-- a − b. -/
def Flt.subOp (f : Flt) (rm : Rm) (ftz : Bool) (a b : Nat) : Nat × Nat :=
  let x := f.read ftz a
  let y := (f.read ftz b).neg
  f.result rm ftz (x.isSig || y.isSig || x.addInvalid y) (x.add (rm == .rdn) y)

/-- a × b. -/
def Flt.mulOp (f : Flt) (rm : Rm) (ftz : Bool) (a b : Nat) : Nat × Nat :=
  let x := f.read ftz a
  let y := f.read ftz b
  f.result rm ftz (x.isSig || y.isSig || x.mulInvalid y) (x.mul y)

/-- a ÷ b: 0 ÷ 0 and ∞ ÷ ∞ are invalid, a finite nonzero value over zero sets DZ. -/
def Flt.divOp (f : Flt) (rm : Rm) (ftz : Bool) (a b : Nat) : Nat × Nat :=
  let x := f.read ftz a
  let y := f.read ftz b
  let inv := (x.isZero && y.isZero) || (!x.isFin && !x.isNan && !y.isFin && !y.isNan)
  let dz := x.isFin && !x.isZero && y.isZero
  let r := f.result rm ftz (x.isSig || y.isSig || inv) (x.div y)
  (r.1, Nat.lor r.2 (if dz then fDZ else 0))

/-- √a: invalid below −0. -/
def Flt.sqrtOp (f : Flt) (rm : Rm) (ftz : Bool) (a : Nat) : Nat × Nat :=
  let x := f.read ftz a
  f.result rm ftz (x.isSig || (x.isNeg && !x.isZero)) x.sqrt

/-- ±(a × b) ± c, rounded once; ∞ × 0 is invalid even beside a quiet NaN (R319). -/
def Flt.fmaOp (f : Flt) (rm : Rm) (ftz negP negC : Bool) (a b c : Nat) : Nat × Nat :=
  let x := f.read ftz a
  let y := f.read ftz b
  let z0 := f.read ftz c
  let z := if negC then z0.neg else z0
  let p0 := x.mul y
  let p := if negP then p0.neg else p0
  let inv := x.isSig || y.isSig || z.isSig || x.mulInvalid y || p.addInvalid z
  f.result rm ftz inv (p.add (rm == .rdn) z)

/-- Below in the order of minimumNumber, where −0 stands below +0 (R116). -/
def FVal.below (a b : FVal) : Bool := a.lt b || (a.isZero && b.isZero && a.isNeg && !b.isNeg)

/-- An operand as minimumNumber returns it: unchanged, or the zero FTZ reads (R320). -/
def Flt.kept (f : Flt) (ftz : Bool) (bits : Nat) : Nat :=
  let x := f.read ftz bits
  if x.isZero then f.pack x.isNeg 0 else bits

/-- minimumNumber or maximumNumber (R320). -/
def Flt.pick (f : Flt) (ftz max : Bool) (a b : Nat) : Nat × Nat :=
  let x := f.read ftz a
  let y := f.read ftz b
  let fl := nvIf (x.isSig || y.isSig)
  if x.isNan && y.isNan then (f.pack false f.nanEnc, fl)
  else if x.isNan then (f.kept ftz b, fl)
  else if y.isNan then (f.kept ftz a, fl)
  else if (if max then y.below x else x.below y) then (f.kept ftz a, fl) else (f.kept ftz b, fl)

/-- Comparison: equality is quiet, the orders signal on any NaN (R318). -/
def Flt.cmpEq (f : Flt) (ftz : Bool) (a b : Nat) : Bool × Nat :=
  let x := f.read ftz a
  let y := f.read ftz b
  (x.eq y, nvIf (x.isSig || y.isSig))
/-- a < b. -/
def Flt.cmpLt (f : Flt) (ftz : Bool) (a b : Nat) : Bool × Nat :=
  let x := f.read ftz a
  let y := f.read ftz b
  (!x.isNan && !y.isNan && x.lt y, nvIf (x.isNan || y.isNan))
/-- a ≤ b. -/
def Flt.cmpLe (f : Flt) (ftz : Bool) (a b : Nat) : Bool × Nat :=
  let x := f.read ftz a
  let y := f.read ftz b
  (!x.isNan && !y.isNan && !(y.lt x), nvIf (x.isNan || y.isNan))

/-- The class word of R314. -/
def Flt.classWord (f : Flt) (bits : Nat) : W64 :=
  let neg := decide (2 ^ (f.eb + f.mb) ≤ bits % 2 ^ f.width)
  let kind := match f.unpack bits with
    | .nan sig => if sig then 5 else 4
    | .inf _ => 3
    | .fin _ m _ => if m = 0 then 0 else if m < 2 ^ f.mb then 1 else 2
  let ex : Int := match f.unpack bits with
    | .fin _ m e => if m = 0 then 0 else e + Nat.log2 m
    | _ => 0
  BitVec.ofInt 64 (ex * 65536) ||| BitVec.ofNat 64 ((if neg then 8 else 0) + kind)

/-! ## Operands and results of FPR instructions (R312) -/

/-- The format of a precision field. -/
def fmtP (p : BitVec 1) : Flt := if p = 0#1 then fF32 else fF64
/-- The operand's bits: the low word for .s. -/
def State.xf (s : State) (p : BitVec 1) (r : Reg) : Nat := (s.x r).toNat % 2 ^ (fmtP p).width

/-- Write a result and its flags. -/
def State.fpResult (s : State) (d : Reg) (r : Nat × Nat) : State :=
  s.plain (fun k => (k.setX d (BitVec.ofNat 64 r.1)).updArch (fun a => a.raiseFlags r.2))

/-- An instruction that rounds: ILLEGAL for a rounding field R109 refuses. -/
def State.fpRounded (s : State) (i : Instr) (r : BitVec 3) (d : Reg) (f : Rm → Nat × Nat) : State :=
  match s.th.arch.modeOf false r.toNat with
  | none => s.illegalOf i
  | some rm => s.fpResult d (f rm)

/-- FADD (R313): the sum, rounded once. -/
def execFadd (d : BitVec 5) (a : BitVec 5) (b : BitVec 5) (p : BitVec 1) (r : BitVec 3) (st : State) : Ans :=
  .next (st.fpRounded (.fadd d a b p r) r d (fun rm => (fmtP p).addOp rm st.th.arch.ftz (st.xf p a) (st.xf p b)))

/-- FSUB (R313): the difference, rounded once. -/
def execFsub (d : BitVec 5) (a : BitVec 5) (b : BitVec 5) (p : BitVec 1) (r : BitVec 3) (st : State) : Ans :=
  .next (st.fpRounded (.fsub d a b p r) r d (fun rm => (fmtP p).subOp rm st.th.arch.ftz (st.xf p a) (st.xf p b)))

/-- FMUL (R313): the product, rounded once. -/
def execFmul (d : BitVec 5) (a : BitVec 5) (b : BitVec 5) (p : BitVec 1) (r : BitVec 3) (st : State) : Ans :=
  .next (st.fpRounded (.fmul d a b p r) r d (fun rm => (fmtP p).mulOp rm st.th.arch.ftz (st.xf p a) (st.xf p b)))

/-- FDIV (R313): the quotient, rounded once. -/
def execFdiv (d : BitVec 5) (a : BitVec 5) (b : BitVec 5) (p : BitVec 1) (r : BitVec 3) (st : State) : Ans :=
  .next (st.fpRounded (.fdiv d a b p r) r d (fun rm => (fmtP p).divOp rm st.th.arch.ftz (st.xf p a) (st.xf p b)))

/-- FSQRT (R313): the square root, rounded once. -/
def execFsqrt (d : BitVec 5) (a : BitVec 5) (p : BitVec 1) (r : BitVec 3) (st : State) : Ans :=
  .next (st.fpRounded (.fsqrt d a p r) r d (fun rm => (fmtP p).sqrtOp rm st.th.arch.ftz (st.xf p a)))

/-- FMIN (R320): minimumNumber. -/
def execFmin (d : BitVec 5) (a : BitVec 5) (b : BitVec 5) (p : BitVec 1) (st : State) : Ans :=
  .next (st.fpResult d ((fmtP p).pick st.th.arch.ftz false (st.xf p a) (st.xf p b)))

/-- FMAX (R320): maximumNumber. -/
def execFmax (d : BitVec 5) (a : BitVec 5) (b : BitVec 5) (p : BitVec 1) (st : State) : Ans :=
  .next (st.fpResult d ((fmtP p).pick st.th.arch.ftz true (st.xf p a) (st.xf p b)))

/-- FEQ (R318): equal, quiet. -/
def execFeq (d : BitVec 5) (a : BitVec 5) (b : BitVec 5) (p : BitVec 1) (st : State) : Ans :=
  .next (let r := (fmtP p).cmpEq st.th.arch.ftz (st.xf p a) (st.xf p b)
    st.fpResult d ((w64 r.1).toNat, r.2))

/-- FLT (R318): less than, signalling. -/
def execFlt (d : BitVec 5) (a : BitVec 5) (b : BitVec 5) (p : BitVec 1) (st : State) : Ans :=
  .next (let r := (fmtP p).cmpLt st.th.arch.ftz (st.xf p a) (st.xf p b)
    st.fpResult d ((w64 r.1).toNat, r.2))

/-- FLE (R318): less or equal, signalling. -/
def execFle (d : BitVec 5) (a : BitVec 5) (b : BitVec 5) (p : BitVec 1) (st : State) : Ans :=
  .next (let r := (fmtP p).cmpLe st.th.arch.ftz (st.xf p a) (st.xf p b)
    st.fpResult d ((w64 r.1).toNat, r.2))

/-- FCLASS (R314): the class word; no flag. -/
def execFclass (d : BitVec 5) (a : BitVec 5) (p : BitVec 1) (st : State) : Ans :=
  .next (st.setResult d ((fmtP p).classWord (st.xf p a)))

/-- The magnitude bits of a with a new sign (R321). -/
def Flt.withSign (f : Flt) (a : Nat) (neg : Bool) : W64 :=
  BitVec.ofNat 64 (a % 2 ^ (f.eb + f.mb) + (if neg then 2 ^ (f.eb + f.mb) else 0))
/-- The sign bit of an encoding. -/
def Flt.signBit (f : Flt) (a : Nat) : Bool := Nat.testBit a (f.eb + f.mb)

/-- FSGNJ (R321): rs1 with rs2's sign. -/
def execFsgnj (d : BitVec 5) (a : BitVec 5) (b : BitVec 5) (p : BitVec 1) (st : State) : Ans :=
  .next (st.setResult d ((fmtP p).withSign (st.xf p a) ((fmtP p).signBit (st.xf p b))))

/-- FSGNJN (R321): rs1 with rs2's sign inverted. -/
def execFsgnjn (d : BitVec 5) (a : BitVec 5) (b : BitVec 5) (p : BitVec 1) (st : State) : Ans :=
  .next (st.setResult d ((fmtP p).withSign (st.xf p a) (!(fmtP p).signBit (st.xf p b))))

/-- FSGNJX (R321): rs1 with the XOR of both signs. -/
def execFsgnjx (d : BitVec 5) (a : BitVec 5) (b : BitVec 5) (p : BitVec 1) (st : State) : Ans :=
  .next (st.setResult d ((fmtP p).withSign (st.xf p a) ((fmtP p).signBit (st.xf p a) != (fmtP p).signBit (st.xf p b))))

/-- What an FCVT word reads: the value of x[rs1] as its source code says (R315, R316). -/
def State.cvtSource (s : State) (a : Reg) (t : BitVec 5) (c : BitVec 2) : FVal :=
  let ftz := s.th.arch.ftz
  let v := (s.x a).toNat
  match (if 2 ≤ c.toNat then t.toNat % 8 else t.toNat) with
  | 0 => fF32.read ftz (v % 2 ^ 32)
  | 1 => fF64.read ftz v
  | 2 => Elem.unpack (.int true 32) v
  | 3 => Elem.unpack (.int false 32) v
  | 4 => Elem.unpack (.int true 64) v
  | _ => Elem.unpack (.int false 64) v

/-- The register value and flags of an FCVT (R316): a 32-bit integer is sign-extended for w, zero-extended for wu. -/
def cvtResult (t : BitVec 5) (c : BitVec 2) (rm : Rm) (ftz : Bool) (x : FVal) : Nat × Nat :=
  match c.toNat with
  | 0 => fF32.round rm false ftz 0 x
  | 1 => fF64.round rm false ftz 0 x
  | 2 => if t.toNat < 8 then (let r := roundInt true 32 rm 0 x; ((sext64 r.1 32).toNat, r.2)) else roundInt true 64 rm 0 x
  | _ => if t.toNat < 8 then roundInt false 32 rm 0 x else roundInt false 64 rm 0 x

/-- FCVT (R316): conversion between floating and integer types; an unassigned pair raises ILLEGAL. -/
def execFcvt (d : BitVec 5) (a : BitVec 5) (t : BitVec 5) (c : BitVec 2) (r : BitVec 3) (st : State) : Ans :=
  .next (if !fcvtOk t c then st.illegalOf (.fcvt d a t c r)
    else st.fpRounded (.fcvt d a t c r) r d (fun rm => cvtResult t c rm st.th.arch.ftz (st.cvtSource a t c)))

/-- FMA (R319): a × b + c, rounded once. -/
def execFma (d : BitVec 5) (a : BitVec 5) (b : BitVec 5) (c : BitVec 5) (p : BitVec 1) (r : BitVec 3) (st : State) : Ans :=
  .next (st.fpRounded (.fma d a b c p r) r d (fun rm => (fmtP p).fmaOp rm st.th.arch.ftz false false (st.xf p a) (st.xf p b) (st.xf p c)))

/-- FMS (R319): a × b − c, rounded once. -/
def execFms (d : BitVec 5) (a : BitVec 5) (b : BitVec 5) (c : BitVec 5) (p : BitVec 1) (r : BitVec 3) (st : State) : Ans :=
  .next (st.fpRounded (.fms d a b c p r) r d (fun rm => (fmtP p).fmaOp rm st.th.arch.ftz false true (st.xf p a) (st.xf p b) (st.xf p c)))

/-- FNMA (R319): −(a × b) + c, rounded once. -/
def execFnma (d : BitVec 5) (a : BitVec 5) (b : BitVec 5) (c : BitVec 5) (p : BitVec 1) (r : BitVec 3) (st : State) : Ans :=
  .next (st.fpRounded (.fnma d a b c p r) r d (fun rm => (fmtP p).fmaOp rm st.th.arch.ftz true false (st.xf p a) (st.xf p b) (st.xf p c)))

end Sys2Proof.Machine
end

