-- ==== Sys2Proof/Machine/Faults.lean ====
section
/-! DEFINITION. Address ranges and what firmware does about a page fault (05: R92, R93). -/
namespace Sys2Proof.Machine

/-- The moves of a page in the last 64 ms (05: R93). -/
def PageRec.recent (r : PageRec) (now : Nat) : List Nat :=
  r.times.filter (fun t => decide (now < t + 64000 * Config.usUnits))

/-! ## Ranges and their pages (R92) -/

/-- The range holds the address for the address space. -/
def rangeHolds (r : AddrRange) (asid : BitVec 16) (va : Nat) : Bool :=
  r.asid == asid && decide (r.base ≤ va) && decide (va < r.base + r.len)

/-- The range grants the right an access needs. -/
def rangeGrants (r : AddrRange) (acc : Access) : Bool :=
  leafAllows (BitVec.ofNat 64 (r.rights.toNat * 4)) acc

/-- Zero a stretch of memory. -/
def zeroRange (mem : List Host.Cell) (lo n : Nat) : List Host.Cell := mem.filter (fun c => !(decide (lo ≤ c.1) && decide (c.1 < lo + n)))

/-- Pages of 64 KiB that hold page tables: the root monitor alone writes them (13: R225). -/
def State.addTables (s : State) (pa n : Nat) : State :=
  { s with service := { s.service with tables := dedup (s.service.tables ++ countFrom (pa / 65536) ((pa + n + 65535) / 65536 - pa / 65536)) } }

/-- The table an entry names, or a fresh empty one placed there. -/
def State.tableAt (s : State) (entry fresh size : Nat) : State × Nat :=
  let w := Memory.read64 s.mem entry
  if bit w 0 then (s, fld w 43 8 * 256)
  else (State.addTables { s with mem := Memory.write64 (zeroRange s.mem fresh size) entry (BitVec.ofNat 64 (fresh + 1)) } fresh size, fresh)

/-- Drop look-aside entries that meet a test (R90). -/
def State.dropTlb (s : State) (p : TlbEntry → Bool) : State :=
  { s with tlbs := Map.mapAll [] (fun es => es.filter (fun e => !p e)) s.tlbs }

/-- The record key of the page behind a leaf: its location, host port and frame (R89, R93). -/
def frameKey (w : W64) : Nat := (leafLoc w * 2 + (if (leafLoc w == 1 || leafLoc w == 2) && bit w 11 then 1 else 0)) * 2 ^ 44 + leafFrame w / 65536

/-- Lines of a stretch of memory: an engine commit invalidates them at every holder (03: R48, R51). -/
def State.invalidate (s : State) (lo n : Nat) : State :=
  let lines := countFrom (lo / 64) (n / 64)
  let hit := fun (t : Thread) => t.uncommitted && lines.any (fun l => Sig.holds t.chunk.rsig (64 * l) || Sig.holds t.chunk.wsig (64 * l))
  let s1 := (s.allThreads.filter hit).foldl (fun k t => k.squashTid t.tid 0) s
  let s2 := (s1.dropCopies lines).unhold lines
  lines.foldl State.countWrite { s2 with position := s2.position + 1 }

/-- Where the tables of a range lie: after its frames, those of level 2, then 1, then 0 (assumption 21). -/
def rangeTables (r : AddrRange) : Nat × Nat × Nat :=
  let t2 := (r.frames + r.len + 4095) / 4096 * 4096
  let last := r.base + r.len - 1
  let t1 := t2 + 4096 * (last / 2 ^ 39 - r.base / 2 ^ 39 + 1)
  (t2, t1, t1 + 4096 * (last / 2 ^ 30 - r.base / 2 ^ 30 + 1))

/-- The 64 KiB frame a range sets aside for a page. -/
def rangeFrame (r : AddrRange) (va : Nat) : Nat := r.frames + (va / 65536 * 65536 - r.base)

/-- The leaf of a page of a range: its rights, the placement of its frame, LOCAL (R76, R89). -/
def State.rangeLeaf (s : State) (r : AddrRange) (va : Nat) : W64 :=
  let f := rangeFrame r va
  BitVec.ofNat 64 (f + (if s.service.ibnd ≤ f % Config.dieWindow then 128 else 0) + r.rights.toNat * 4 + 3)

/-- What a range backs a page with (R92; assumption 21). A host's page is the one at the same virtual address, another module's the one of the same
frame address there (assumption 74). -/
def State.backing (s : State) (r : AddrRange) (va : Nat) : List Host.Cell :=
  let f := rangeFrame r va
  match r.backing with
  | .demandZero => []
  | .fromHost port => ((s.host port).mem.filter (fun c => decide (va / 65536 * 65536 ≤ c.1) && decide (c.1 < va / 65536 * 65536 + 65536))).map
      (fun c => (c.1 - va / 65536 * 65536 + f, c.2))
  | .fromModule home => (s.farMem.filter (fun c => decide (farKey home f ≤ c.1) && decide (c.1 < farKey home f + 65536))).map
      (fun c => (c.1 - farKey home f + f, c.2))

/-- The line key at which what backs a page begins: uncorrectable data is marked there (14: R258). -/
def backingLine (s : State) (r : AddrRange) (va : Nat) : Option Nat :=
  match r.backing with
  | .demandZero => none
  | .fromHost port => some (lineOf (hostKey port (va / 65536 * 65536)))
  | .fromModule home => some (if home = s.moduleId then lineOf (rangeFrame r va) else 2 ^ 64 + lineOf (farKey home (rangeFrame r va)))

/-- The lines of a page's frame whose source holds uncorrectable data. -/
def State.backingMarks (s : State) (r : AddrRange) (va : Nat) : List Nat :=
  match backingLine s r va with
  | none => []
  | some l => ((countFrom 0 1024).filter (fun i => s.poisoned.contains (l + i))).map (fun i => rangeFrame r va / 64 + i)

/-- The root of an address space's page tables. -/
def State.rootFor (s : State) (asid : BitVec 16) : Nat := fld (Map.get 0 s.service.roots asid.toNat) 43 21 * 2 ^ 21

/-- Map a page of a range: the tables on the way down, the frame's contents, the leaf. What another module or a host backs is copied as an engine
commit (03: R51), with the marks of its uncorrectable data (14: R258). -/
def State.mapPage (s : State) (r : AddrRange) (va : Nat) : State × Nat :=
  let t := rangeTables r
  let p2 := s.tableAt (s.rootFor r.asid + 8 * nbits va 56 39) (t.1 + 4096 * (va / 2 ^ 39 - r.base / 2 ^ 39)) 4096
  let p1 := p2.1.tableAt (p2.2 + 8 * nbits va 38 30) (t.2.1 + 4096 * (va / 2 ^ 30 - r.base / 2 ^ 30)) 4096
  let p0 := p1.1.tableAt (p1.2 + 8 * nbits va 29 21) (t.2.2 + 256 * (va / 2 ^ 21 - r.base / 2 ^ 21)) 256
  let leafPa := p0.2 + 8 * nbits va 20 16
  let f := rangeFrame r va
  let q := if r.backing = .demandZero then p0.1 else p0.1.invalidate f 65536
  let mem := Memory.writeCells (zeroRange q.mem f 65536) (s.backing r va)
  ({ q with
      mem := Memory.write64 mem leafPa (s.rangeLeaf r va)
      poisoned := q.poisoned.filter (fun l => !(decide (f / 64 ≤ l) && decide (l < f / 64 + 1024))) ++ s.backingMarks r va }, leafPa)

/-! ## The leaves of the page tables (R88, R89) -/

/-- Nonzero doublewords of a stretch of memory, by address. -/
def entriesIn (mem : List Host.Cell) (lo n : Nat) : List Nat :=
  dedup ((mem.filter (fun c => decide (lo ≤ c.1) && decide (c.1 < lo + n))).map (fun c => c.1 / 8 * 8))

/-- Bytes of a table of a level. -/
def tableBytes (level : Nat) : Nat := if level = 3 then 2097152 else if level = 0 then 256 else 4096

/-- The leaf entries under a table, each with its level; the argument counts the levels left. -/
def leavesUnder (mem : List Host.Cell) : Nat → Nat → List (Nat × Nat)
  | 0, _ => []
  | k + 1, table =>
    ((entriesIn mem table (tableBytes k)).map (fun pa =>
      let w := Memory.read64 mem pa
      if !bit w 0 then []
      else if bit w 1 then [(pa, k)]
      else leavesUnder mem k (fld w 43 8 * 256))).flatten

/-- The same page stands behind two leaves: location, frame and host port (R89). -/
def samePage (v w : W64) : Bool := leafLoc v == leafLoc w && leafFrame v == leafFrame w && bit v 11 == bit w 11

/-- Every leaf entry of this module's page tables, with its level. -/
def State.leaves (s : State) : List (Nat × Nat) := dedup (s.service.roots.map (fun p => leavesUnder s.mem 4 (fld p.2 43 21 * 2 ^ 21))).flatten

/-- Every leaf entry of this module's page tables that maps the page a leaf names. -/
def State.mappings (s : State) (w : W64) : List Nat := (s.leaves.map (·.1)).filter (fun pa => samePage (Memory.read64 s.mem pa) w)

/-! ## Moves between modules (R93) -/

/-- Count a move of the page with a key; the fourth within 64 ms pins it in every mapping. A pinning that a core's fault triggered counts
there. -/
def State.noteMove (s : State) (key leafPa : Nat) (core : Option Nat) : State :=
  let r := Map.get PageRec.reset s.pages key
  let times := r.recent s.time.up ++ [s.time.up]
  let pins := decide (4 ≤ times.length) && !r.pin
  let r1 : PageRec := { r with
    times := times
    leafPa := leafPa
    pin := r.pin || pins
    pinnedAt := if pins then s.time.up else r.pinnedAt
    migpin := if pins then Nat.min (r.migpin + 1) (2 ^ 32 - 1) else r.migpin }
  let s1 := { s with pages := Map.set PageRec.reset s.pages key r1 }
  if pins then
    let all := (s1.mappings (Memory.read64 s1.mem leafPa)).filter (· != leafPa) ++ [leafPa]
    let s2 : State := State.dropTlb { s1 with mem := all.foldl (fun m pa => Memory.write64 m pa (Memory.read64 m pa ||| 0x400)) s1.mem }
      (fun e => all.contains e.leafPa)
    match core with | some c => s2.perf c 0x19 1 | none => s2
  else s1

/-! ## Fault service (R92) -/

/-- Treat a fault record: whether it is resolved. -/
def State.treat (s : State) (f : FaultRec) : State × Bool :=
  match s.service.ranges.find? (fun r => rangeHolds r f.asid f.va) with
  | none => (s, false)
  | some r =>
    match f.reason with
    | .notPresent =>
      (match s.walk (s.rootFor f.asid) f.va with
       | .error .notPresent =>
         let p := s.mapPage r f.va
         (match r.backing with
          | .fromModule _ => (p.1.noteMove (frameKey (s.rangeLeaf r f.va)) p.2 ((s.findTid f.tid).map (·.core)), true)
          | _ => (p.1, true))
       | .error _ => (s, false)
       | .ok _ => (s, true))
    | .rights =>
      if rangeGrants r f.acc then
        (match s.walk (s.rootFor f.asid) f.va with
         | .ok (pa, w, _) =>
           (State.dropTlb { s with mem := Memory.write64 s.mem pa (w ||| BitVec.ofNat 64 (r.rights.toNat * 4)) } (fun e => e.leafPa == pa), true)
         | .error _ => (s, false))
      else (s, false)
    | _ => (s, false)

/-- Treat a page fault of a firmware access on behalf of an address space, as part of the access: whether it is
resolved (R92; 09: R159, R167). -/
def State.treatFor (s : State) (asid : BitVec 16) (va : Nat) (acc : Access) (r : FaultReason) : State × Bool :=
  s.treat { tid := s.nextTid, gang := 0, rank := 0, asid := asid, va := va, acc := acc, reason := r, engine := none }

/-- Translate for such an access, a resolvable page fault being resolved first. -/
def State.translateFor (s : State) (asid : BitVec 16) (root cluster va : Nat) (acc : Access) : State × Except FaultReason TlbEntry :=
  match s.translate asid root cluster va acc with
  | (s1, .error r) =>
    let q := s1.treatFor asid va acc r
    if q.2 then q.1.translate asid root cluster va acc else (q.1, .error r)
  | x => x

/-! ## Regions (04: R78 to R80) -/

/-- The regions of a stretch of physical memory. -/
def regionsOf (lo n : Nat) : List Nat := countFrom (lo / 2097152) ((lo + n + 2097151) / 2097152 - lo / 2097152)

/-- Change a region. -/
def State.updRegion (s : State) (region : Nat) (f : Region → Region) : State := { s with regions := Map.upd Region.reset s.regions region f }

/-- Firmware allocates the regions of a range's frames: their counters are cleared, and the degree is the lower limit (R79, R80). -/
def State.allocRegions (s : State) (r : AddrRange) : State :=
  (regionsOf r.frames r.len).foldl (fun k i => (k.narrowMoons i r.fwmin.toNat).updRegion i (fun g =>
    { g with deg := r.fwmin.toNat, dmin := r.fwmin.toNat, dmax := r.fwmax.toNat, fwmin := r.fwmin.toNat, fwmax := r.fwmax.toNat,
             hits := 0, fills := 0, collapses := 0, changes := 0 })) s

/-- A region that holds kernel image lines has degree 32 for all its limits (R80; assumption 72). -/
def State.codeRegion (s : State) (region : Nat) : State :=
  s.updRegion region (fun g => { g with deg := 4, dmin := 4, dmax := 4, fwmin := 4, fwmax := 4, changes := if g.deg = 4 then g.changes else sat48 g.changes 1 })

end Sys2Proof.Machine
end

