-- ==== Sys2Proof/Machine/Sync.lean ====
section
/-! DEFINITION. The SYNC group: CUT, FENCE, waits on words, time, barriers, semaphores, producers and tasks, safe points
and step marks (09: R164 to R175; 11: R209; 13: R235; R291, R292, R303, R317, R353, R358, R359, R365 to R370, R386 to
R388, R391). -/
namespace Sys2Proof.Machine

/-! ## Deferring -/

/-- A deferred instruction whose checks have passed: its effects enter the queue (R37, R46). -/
def State.deferPlain (s : State) (items : List Item) : State :=
  match s.deferOr items with
  | .stop s1 w => s.endWith s1 w
  | .ok s1 _ _ => s1.retire

/-! ## CUT and FENCE -/

/-- CUT (R303): the chunk is cut before it; at the boundary it does nothing else. -/
def execCut (st : State) : Ans := .next (st.boundary State.retireBoundary)

/-- The effect is part of a finished or running engine command, which no fence waits for (R60). -/
def Item.ofEngine (i : Item) : Bool := match i with | .adds _ _ _ _ _ _ _ => true | _ => false

/-- A released effect holds up a fence of a scope (R60): before its performance in the inner world, and under the wider
scopes until its acknowledgement. -/
def Released.blocks (r : Released) (scope : Nat) : Bool :=
  !r.item.ofEngine &&
  (r.stage == .waiting || (r.stage == .refused && !r.item.travelsFar) ||
   (decide (1 ≤ scope) && r.item.travelsFar) || (decide (2 ≤ scope) && r.item.isHostStore))

/-- Contributions that key registers hold and have not applied (11: R200). -/
def State.buffered (s : State) : List Released := (s.keyRegs.map (fun k => k.buffered.map (·.2))).flatten

/-- The condition of a fence of a scope holds for a thread (R60). -/
def State.fenceHolds (s : State) (tid scope : Nat) : Bool :=
  (s.released ++ s.buffered).all (fun r => !(r.tid == tid && r.blocks scope))

/-- Fences whose condition now holds are complete, at once: what is reported later meets the instruction after them (R60, R317). -/
def State.settle (s : State) : State :=
  (s.allThreads.filter (fun t => t.st == .dataWait && (match t.pend with | .fence k => s.fenceHolds t.tid k | _ => false))).foldl
    (fun k t => k.onThread t.tid State.retireBoundary) s

/-- FENCE (R60, R317): at its boundary it holds the thread in DATA-WAIT until its scope's condition holds. -/
def execFence (s : BitVec 5) (st : State) : Ans :=
  .next (if 2 < s.toNat then st.illegalOf (.fence s)
    else st.boundary (fun k =>
      if k.fenceHolds k.th.tid s.toNat then k.retireBoundary
      else k.updTh (fun t => { t with st := .dataWait, pend := .fence s.toNat })))

/-! ## Waiting on memory words -/

/-- Resolve an access that a RING segment may not serve (R369, R370, R388). -/
def State.resolveMem (s : State) (ea : W64) (n align : Nat) (acc : Access) : State × Except Halt Place :=
  match segCheck s.th.seg ea n align acc with
  | .ok (.inl _) => (s, .error (.trap .segrights ea))
  | _ => s.resolve ea n align acc

/-- Map the word of a comet or TSEMSIG, which no watchpoint matches (14: R249). -/
def State.placeMem (s : State) (ea : W64) (n align : Nat) : State × Except Halt Place :=
  match segCheck s.th.seg ea n align .store with
  | .ok (.inl _) => (s, .error (.trap .segrights ea))
  | _ => s.mapAccess ea n align .store

/-- Home slice of a key, as die and slice. -/
def State.homeSlice (s : State) (key : Nat) : Nat × Nat :=
  (s.keyDie key, sliceOf (if isHostKey key then keyAddr key else key))

/-- Wait-list entries in use at a home slice (R175). -/
def State.entriesAt (s : State) (slice : Nat × Nat) : Nat :=
  (s.allThreads.filter (fun t => t.waitEntry &&
    match t.wait with
    | .word l _ _ => l.home.isNone && s.homeSlice l.pa == slice
    | .timeline l _ => l.home.isNone && s.homeSlice l.pa == slice
    | _ => false)).length

/-- Park on a memory word (R175): a LOCAL word takes a wait-list entry of its home slice, or sends the thread to the run
queue when none is free; any other word is re-checked. -/
def State.parkOn (s : State) (p : Place) (w : Loc → Wait) : State :=
  match p with
  | .inner key _ _ _ =>
    let s1 := s.park (w { home := none, pa := key })
    if isHostKey key then s1
    else if s.entriesAt (s.homeSlice key) < 64 then s1.updTh (fun t => { t with waitEntry := true })
    else s1.toQueue
  | .hostPcie port a => s.park (w { home := none, pa := hostKey port a })
  | .far home pa _ => s.park (w { home := some home, pa := pa })
  | .mmio pa => s.park (w { home := none, pa := pa })
  | .ring _ => s

/-- Read the word of a waiting instruction at its boundary, and complete or park. -/
def State.waitOn (s : State) (ea : W64) (holds : W64 → Bool) (w : Loc → Wait) (done : W64 → State → State) : State :=
  s.boundary (fun k =>
    match k.resolveMem ea 8 8 .load with
    | (k1, .error h) => k1.haltWith h
    | (_, .ok p) =>
      match k.withHits [(ea, 8, 8)] (k.loadAs ea 8 8 true) with
      | .stop k1 c => k.endWith k1 c
      | .ok k1 bs _ =>
        let v := BitVec.ofNat 64 (leNat bs)
        if holds v then (done v k1).retireBoundary else k1.parkOn p w)

/-- WAITW (R175, R388): rd receives the value that satisfied the comparison. -/
def execWaitw (d : BitVec 5) (a : BitVec 5) (b : BitVec 5) (c : BitVec 2) (st : State) : Ans :=
  .next (st.waitOn (st.x a) (waitHolds c (st.x b)) (fun l => .word l c (st.x b)) (fun v k => k.setX d v))

/-- TSEMWAIT (R173, R370): until the word holds at least v. -/
def execTsemwait (a : BitVec 5) (b : BitVec 5) (st : State) : Ans :=
  .next (st.waitOn (st.x a) (fun v => decide ((st.x b).toNat ≤ v.toNat)) (fun l => .timeline l (st.x b)) (fun _ k => k))

/-- TSEMSIG (R174, R369): TIMELINE for v = 0 after the address checks. -/
def execTsemsig (a : BitVec 5) (b : BitVec 5) (st : State) : Ans :=
  let ea := st.x a
  let v := st.x b
  .next (match st.placeMem ea 8 8 with
    | (s1, .error h) => st.endWith s1 (.halt h)
    | (s1, .ok p) =>
      if v = 0 then s1.raise .timeline ea
      else match p with
        | .inner key _ _ _ => s1.deferPlain [.tsemSig { home := none, pa := key } v .a ea]
        | .far home pa cls => s1.deferPlain [.tsemSig { home := some home, pa := pa } v cls ea]
        | _ => s1.raise .farerr ea)

/-- WAITT (R209, R387): until the timebase reaches x[rs1]. -/
def execWaitt (a : BitVec 5) (st : State) : Ans :=
  .next (st.boundary (fun k =>
    if (k.x a).toNat ≤ k.time.now.toNat then k.retireBoundary else k.park (.time (k.x a))))

/-! ## Barriers -/

/-- The issuing thread is a member of barrier `n` of its gang (R169). -/
def State.memberOf (s : State) (n : Nat) : Option Gang :=
  match s.myGang with
  | some g => if g.member s.th.core n then some g else none
  | none => none

/-- BARRIVE (R170, R291): the arrival takes effect at the chunk's commit. -/
def execBarrive (d : BitVec 5) (n : BitVec 3) (st : State) : Ans :=
  .next (match st.memberOf n.toNat with
    | none => st.illegalOf (.barrive d n)
    | some _ => st.plain (fun k =>
        let c := Map.get 0 k.th.arch.arrivals n.toNat
        ((k.setX d (BitVec.ofNat 64 c)).updArch (fun a => { a with arrivals := Map.set 0 a.arrivals n.toNat (c + 1) })).updChunk
          (fun ch => { ch with arrived := ch.arrived ++ [(n.toNat, c)] })))

/-- BARWAIT (R170, R292): TOKEN for a phase in which the thread has not arrived. -/
def execBarwait (d : BitVec 5) (a : BitVec 5) (n : BitVec 3) (st : State) : Ans :=
  .next (match st.memberOf n.toNat with
    | none => st.illegalOf (.barwait d a n)
    | some _ => st.boundary (fun k =>
        let p := (k.x a).toNat
        match k.myGang with
        | none => k
        | some g =>
          let b := g.barrier n.toNat
          if Map.get 0 k.th.arch.arrivals n.toNat ≤ p then k.raise .token (k.x a)
          else if b.done ≤ p then k.park (.barrier n.toNat p)
          else (k.setX d (BitVec.ofNat 64 (b.done - p - 1 + (if b.poison.contains p then 2 ^ 63 else 0)))).retireBoundary))

/-! ## Cell semaphores -/

/-- SEMSIG (R171, R358): a count above 65,535 raises ILLEGAL at issue. -/
def execSemsig (a : BitVec 5) (n : BitVec 4) (st : State) : Ans :=
  .next (if 65535 < (st.x a).toNat then st.illegalOf (.semsig a n)
    else st.deferPlain [.semSig st.myCell n.toNat (st.x a).toNat])

/-- SEMWAIT (R171, R359): waiters are served in parking order. -/
def execSemwait (a : BitVec 5) (n : BitVec 4) (st : State) : Ans :=
  .next (if 65535 < (st.x a).toNat then st.illegalOf (.semwait a n)
    else st.boundary (fun k =>
      let need := (k.x a).toNat
      let cell := k.cell k.myCell
      let ahead := match (cell.semq.filter (k.semWaits n.toNat)).head? with | some p => p.2 != k.th.tid | none => false
      let count := Map.get 0 cell.sems n.toNat
      if need = 0 then k.retireBoundary
      else if !ahead && decide (need ≤ count) then
        (k.updCell k.myCell (fun c => { c with
          sems := Map.set 0 c.sems n.toNat (count - need)
          semq := c.semq.filter (fun p => p.2 != k.th.tid) })).semServe k.myCell n.toNat |>.retireBoundary
      else
        let q := if k.th.woken then cell.semq else cell.semq.filter (fun p => p.2 != k.th.tid) ++ [(n.toNat, k.th.tid)]
        (k.updCell k.myCell (fun c => { c with semq := q })).park (.sem n.toNat need)))

/-! ## Launches and tasks -/

/-- TRIGGER (R168, R368). -/
def execTrigger (st : State) : Ans :=
  .next (st.deferPlain [.trigger (st.th.gang.getD 0) (match st.myGang with | some g => g.launch.inst | none => 0)])

/-- A producer has triggered or completed (R168). -/
def Dep.done (d : Dep) : Bool := d.triggered || d.code.isSome

/-- A producer completed by TRAP or KILLED without having triggered (R168). -/
def Dep.bad (d : Dep) : Bool := (d.code == some 1 || d.code == some 2) && !d.triggered

/-- WAITDEP (R168, R386). -/
def execWaitdep (d : BitVec 5) (st : State) : Ans :=
  .next (st.boundary (fun k =>
    let ps := match k.myGang with | some g => g.launch.deps | none => []
    if ps.all Dep.done then (k.setX d (w64 (ps.any Dep.bad))).retireBoundary else k.park .producers))

/-- Bounds of field `f` of the work identifiers (R164), fields being given by their widths from bit `lo` up. -/
def widFields (first last : W64) : Nat → List Nat → List (Nat × Nat × Nat)
  | _, [] => []
  | lo, w :: ws =>
    if w = 0 then (lo, 0, 0) :: widFields first last lo ws
    else (lo, fld first (lo + w - 1) lo, fld last (lo + w - 1) lo) :: widFields first last (lo + w) ws

/-- The identifier of an enumeration index, field 0 varying fastest (R164). -/
def widAt : Nat → List (Nat × Nat × Nat) → Nat
  | _, [] => 0
  | e, (lo, a, b) :: fs => (a + e % (b - a + 1)) * 2 ^ lo + widAt (e / (b - a + 1)) fs

/-- The state as accesses begin to be made for firmware under a number. -/
def State.asking (s : State) (key : Nat) : State := { s with fabric := { s.fabric with asker := key, held := false } }

/-- A step that makes accesses for firmware under a number: where routing holds one at its port, the step has no effect and is tried again; 100 µs
after the access came to the port it fails (12: R214). -/
def State.asFront (s : State) (key : Nat) (f : State → State) : State :=
  let after := f (s.asking key)
  let since := Map.get none s.fabric.heldAt key
  if after.fabric.held then { s with fabric := { s.fabric with heldAt := Map.set none s.fabric.heldAt key (some (since.getD s.time.up)) } }
  else { after with fabric := { after.fabric with
    asker := s.fabric.asker
    held := s.fabric.held
    heldAt := if since.isNone then after.fabric.heldAt else Map.set none after.fabric.heldAt key none } }

/-- The numbers under which firmware makes its accesses: for the packet at the head of a ring, for placements, for a checkpoint of an address space, and
for the completion of a gang; a thread's TASKGET has the thread's. -/
def frontKey (q : CmdSource) : Nat := match q with | .ring port ring => 2 ^ 41 + 64 * port + ring | .mctp _ => 2 ^ 41 + 2 ^ 16
def placeKey : Nat := 2 ^ 42
def gatherKey (asid : BitVec 16) : Nat := 2 ^ 42 + 1 + asid.toNat
def completeKey (gang : Nat) : Nat := 2 ^ 72 + gang

/-- The place, and its class, of `n` bytes of one line of an address space that firmware accesses. -/
def State.frontPlace (s : State) (asid : BitVec 16) (root cluster : Nat) (acc : Access) (va n : Nat) : State × Option (Loc × FabClass) :=
  if 2 ^ 57 < va + n then (s, none)
  else match s.translateFor asid root cluster va acc with
  | (s1, .error _) => (s1, none)
  | (s1, .ok e) => (s1, match s1.placeOf 0 asid cluster va e with
      | .inner key _ _ _ => some ({ home := none, pa := key }, .a)
      | .hostPcie port a => some ({ home := none, pa := hostKey port a }, .a)
      | .far home pa cls => some ({ home := some home, pa := pa }, cls)
      | _ => none)

/-- The same for an access made as an initiator: none also where the home denies it, which is logged, does not answer, or holds uncorrectable data (12:
R212 to R214; 13: R226; 14: R258). A read that a far moon serves does not go to its home (04: R83). -/
def State.frontLoc (s : State) (asid : BitVec 16) (root cluster : Nat) (i : Initiator) (acc : Access) (va n : Nat) : State × Option (Loc × FabClass) :=
  match s.frontPlace asid root cluster acc va n with
  | (s1, none) => (s1, none)
  | (s1, some (l, cls)) =>
    if acc == .load && (s1.farMoonBytes l n).isSome then (s1, some (l, cls))
    else match l.home with
      | none =>
        if !isHostKey l.pa && !s1.permits i l.pa (acc == .store) then (s1.logDenied i l.pa n (acc == .store), none)
        else if acc == .load && s1.poisonedAt l n then (s1, none)
        else (s1, some (l, cls))
      | some h =>
        let since := Map.get none s1.fabric.heldAt s1.fabric.asker
        if s1.holds h cls since then ({ s1 with fabric := { s1.fabric with held := true } }, none)
        else if (s1.homeFail l .wounoLink cls since).isSome then (s1.logHome l .wounoLink, none)
        else if acc == .load && s1.poisonedAt l n then (s1, none)
        else (s1, some (l, cls))

/-- A doubleword of committed state at a virtual address of an address space; none where the read fails. The answer to a core's read brings its
delay (12: R216). -/
def State.readVirt (s : State) (asid : BitVec 16) (root cluster : Nat) (core : Option Nat) (va : Nat) : State × Option W64 :=
  match s.frontLoc asid root cluster .serviceColumn .load va 8 with
  | (s1, none) => (s1, none)
  | (s1, some (l, cls)) =>
    let s2 := match core with
      | some c => if (s1.farMoonBytes l 8).isSome then s1 else s1.replyDelay c l cls
      | none => s1
    (s2.seeFar l 8, some (BitVec.ofNat 64 (leNat (s1.farBytes l 8))))

/-- Several doublewords at rising virtual addresses. -/
def State.readVirts (s : State) (asid : BitVec 16) (root cluster : Nat) (core : Option Nat) : Nat → Nat → State × Option (List W64)
  | _, 0 => (s, some [])
  | va, n + 1 =>
    match s.readVirt asid root cluster core va with
    | (s1, none) => (s1, none)
    | (s1, some w) =>
      match s1.readVirts asid root cluster core (va + 8) n with
      | (s2, none) => (s2, none)
      | (s2, some ws) => (s2, some (w :: ws))

/-- The work packet of enumeration index `e` (R165); none ends the gang. A doubleword goes by the translation of its first byte (assumption 75). -/
def State.packetOf (s : State) (g : Gang) (e : Nat) : State × Option (List W64) :=
  let l := g.launch
  let wid := BitVec.ofNat 64 (widAt e (widFields l.widFirst l.widLast 0 l.ww))
  if l.wtab = 0 then (s, some ([wid, g.kernel.fmtdef, 0, 0] ++ l.args))
  else
    let core := s.th.core
    match s.readVirts (s.asidOf core) (s.rootOf core) (clusterOf (cellOf core)) (some core) (l.wtab.toNat + 64 * e + 8) 7 with
    | (s1, some (f :: ws)) => (s1, if f &&& ~~~0x0FFF0FFF0FFF0FFF = 0 then some (wid :: f :: ws) else none)
    | (s1, _) => (s1, none)

/-- FMTCTX0 to FMTCTX3 from four slots of 16 bits (R132, R165). -/
def Arch.setSlots (a : Arch) (w : W64) : Arch :=
  [0, 1, 2, 3].foldl (fun k n => k.setFmt n (BitVec.ofNat 64 (fld w (16 * n + 11) (16 * n)))) a

/-- A thread of the gang is live. -/
def State.hasLive (s : State) (g : Nat) : Bool :=
  s.allThreads.any (fun t => t.gang == some g && t.st != .exited && t.st != .vacant)

/-- The gang takes items from a surrogate of a guarded launch, or is one (R192). -/
def Gang.surrogate (g : Gang) : Bool := g.launch.guarded && !g.exact

/-- Inn bytes in use on a die: staged lines and reservations of guarded items (10: R183, R194). -/
def State.innUsed (s : State) (die : Nat) : Nat :=
  let lines := fun (d : CvDest) => (linesOf (d.inn.map (·.1))).filter (fun l => s.homeDie (64 * l) == die)
  (s.cvDests.map (fun d => 64 * (lines d).length)).foldl (· + ·) 0 +
  ((s.allThreads.filter (fun t => t.item.inItem && !t.item.checked && dieOf (cellOf t.core) == die)).map
    (fun t => match t.gang.bind s.findGang with | some g => g.launch.gbudget | none => 0)).foldl (· + ·) 0

/-- Give the issuing thread a packet: WID, FMTCTX0 to FMTCTX3 and x10 to x15 (R166). -/
def State.takePacket (s : State) (ws : List W64) (guarded : Bool) : State :=
  let w := fun (i : Nat) => ws.getD i 0
  let regs := fun (a : Arch) => (((((((a.setSlots (w 1)).setX 10 (w 4)).setX 11 (w 5)).setX 12 (w 6)).setX 13 (w 7)).setX 14 (w 2)).setX 15 (w 3))
  s.updTh (fun t => { t with
    arch := { regs t.arch with gCharge := 0 }
    wid := w 0
    packet := some ws
    item := { inItem := guarded, checked := false, staged := [] } })

/-- The thread exits once the fence.sys condition holds (R166). -/
def State.leave (s : State) : State :=
  s.retireBoundary.updTh (fun t => if t.st = .exited then t else { t with st := .exiting })

/-- Hand out the packet of the next enumeration index of gang `k`; a failed read ends the gang (R165). While its read is held at its port the
TASKGET waits, and issues again (12: R214). -/
def State.handOut (s : State) (k : Gang) (guarded : Bool) : State :=
  s.asFront s.th.tid (fun q => match q.packetOf k k.nextItem with
    | (s1, none) => match q.th.gang with | some g => (s1.updTh Thread.gone).endGang g 2 3 0 8#8 | none => s1
    | (s1, some ws) => ((s1.updGang k.ident (fun h => { h with nextItem := h.nextItem + 1 })).takePacket ws guarded).retireBoundary)

/-- What TASKGET does at its boundary (R166, R194, R196). -/
def State.taskget (s : State) (g : Gang) : State :=
  if g.exact then
    match g.queue with
    | p :: ps => ((s.updGang g.ident (fun h => { h with queue := ps })).takePacket p false).retireBoundary
    | [] =>
      match g.mate.bind s.findGang with
      | none => s.leave
      | some m =>
        -- the surrogate gang may not have been released yet (R192, R196)
        if s.hasLive m.ident || !(m.released || m.ended) then s.park .task
        else if m.nextItem < m.items then s.handOut m false
        else s.leave
  else if g.nextItem < g.items then
    (if g.surrogate && decide (Config.innBytes < s.innUsed (dieOf s.myCell) + g.launch.gbudget) then s.park .task
     else s.handOut g g.surrogate)
  else s.leave

/-- TASKGET (R166, R366): ILLEGAL while a packet is held, and outside a gang, which alone has a queue. -/
def execTaskget (st : State) : Ans :=
  .next (match st.myGang with
    | none => st.illegalOf .taskget
    | some _ =>
      if st.th.packet.isSome then st.illegalOf .taskget
      else st.boundary (fun k => match k.myGang with | none => k | some g => k.taskget g))

/-- The issuing thread's guarded item ends without publishing: its staged bytes and staging effects are discarded, and its
packet goes to the exact gang (R195, R365). -/
def State.failItem (s : State) : State :=
  let s1 := { s with released := s.released.filter (fun r => !(r.tid == s.th.tid && (match r.item with | .gstage _ => true | _ => false))) }
  let s2 := s1.updMyGang (fun g => { g with failed := g.failed + 1 })
  let s3 := match s.th.gang, s.th.packet with | some g, some p => s2.queueExact g p | _, _ => s2
  (s3.updTh (fun t => { t with item := { t.item with checked := true, staged := [] }, arch := { t.arch with gCharge := 0 } })).wakeTasks

/-- TASKEND (R166, R365): retires the held packet; an unchecked guarded item fails first. -/
def execTaskend (st : State) : Ans :=
  .next (if st.th.packet.isNone then st.illegalOf .taskend
    else st.boundary (fun k =>
      let k1 := if k.inItem then k.failItem else k
      let fmt := match k1.myGang with | some g => g.kernel.fmtdef | none => 0
      ((k1.updMyGang (fun g => { g with retired := g.retired + 1 })).updTh (fun t => { t with
        packet := none
        item := { inItem := false, checked := false, staged := [] }
        arch := t.arch.setSlots fmt })).retireBoundary))

/-! ## Safe points, steps and YIELD -/

/-- The request that applies to the issuing thread at a SAFEPT (R353, R238). -/
def State.safeApplies (s : State) (g : Gang) : Bool :=
  !s.inItem && !s.th.inh &&
  match g.req with
  | .none => false
  | .preempt => true
  | .checkpoint target => s.th.arch.step == 0 || decide (target.toNat ≤ s.th.arch.step.toNat)

/-- SAFEPT (R177, R353): plain with 0 unless a request applies; at wake, what the wake left. -/
def execSafept (d : BitVec 5) (i : BitVec 8) (st : State) : Ans :=
  .next (match st.myGang with
    | none => st.illegalOf (.safept d i)
    | some g =>
      if !g.kernel.safepts.any (fun p => p.ident == i.toNat) then st.illegalOf (.safept d i)
      -- a handler's SAFEPT leaves the value for the one it has interrupted
      else match (if st.th.inh then none else st.th.safeResult) with
        | some v => st.boundary (fun k => ((k.setX d v).updTh (fun t => { t with safeResult := none })).retireBoundary)
        | none =>
          if st.safeApplies g then st.boundary (fun k => k.park (.safept i.toNat))
          else st.setResult d 0)

/-- CKPTSTEP (R235, R295): ILLEGAL unless the step rises. -/
def execCkptstep (a : BitVec 5) (st : State) : Ans :=
  .next (if (st.x a).toNat ≤ st.th.arch.step.toNat then st.illegalOf (.ckptstep a)
    else st.plain (fun k => k.updArch (fun r => { r with step := st.x a, stepped := true })))

/-- YIELD (R391): the thread takes no borrowed cycle until its next issue. -/
def execYieldI (st : State) : Ans := .next ((st.plain id).updTh (fun t => { t with yielded := true }))

end Sys2Proof.Machine
end

