-- ==== Sys2Proof/Machine/Effects.lean ====
section
/-! DEFINITION. Effects at their homes: read-modify-writes, the order of released effects, failures, and the key
registers of ordered contributions (03: R51, R52, R56; 05: R99; 11: R198 to R200; R284, R297). -/
namespace Sys2Proof.Machine

/-! ## Read-modify-writes -/

/-- The signed value of `n` bytes. -/
def signedOf (n v : Nat) : Int := sextInt v (8 * n)

/-- f(old, src) on `n` bytes (R284, R285): fadd rounds to nearest even and ignores FTZ. -/
def RmwOp.apply (op : RmwOp) (n old src : Nat) : Nat :=
  let m := 2 ^ (8 * n)
  match op with
  | .add => (old + src) % m
  | .and => Nat.land old src
  | .or => Nat.lor old src
  | .xor => Nat.xor old src
  | .min => if signedOf n src < signedOf n old then src else old
  | .max => if signedOf n old < signedOf n src then src else old
  | .minu => if src < old then src else old
  | .maxu => if old < src then src else old
  | .swap => src
  | .faddO => ((if n = 4 then fF32 else fF64).addOp .rne false old src).1
  | .faddU => ((if n = 4 then fF32 else fF64).addOp .rne false old src).1

/-- One read-modify-write engine commit at a home: the state after it, and the old value. None of f writes nothing. -/
def State.rmwAt (s : State) (l : Loc) (n : Nat) (f : Nat → Option Nat) : State × Nat :=
  let old := leNat (s.homeBytes l n)
  match f old with
  | none => (s, old)
  | some v => (s.homePut l (mcellsAt l.pa (leBytes n v)), old)

/-! ## Released effects -/

/-- Remove a released effect that has been performed, acknowledged or has failed; fences look again. -/
def State.clearRel (s : State) (n : Nat) : State := State.settle { s with released := dropAt s.released n }

/-- Set how far a released effect has come. -/
def State.stageRel (s : State) (n : Nat) (st : Stage) : State :=
  match s.released[n]? with
  | none => s
  | some r => State.settle { s with released := setAt s.released n { r with stage := st } }

/-- The ASYNCERR source of an effect, and the address it records (R99, R100). -/
def Item.errSource (i : Item) : Nat × W64 :=
  match i with
  | .farStore _ _ _ ea => (1, ea)
  | .comet l _ _ _ _ ea => (if l.home.isSome then 2 else 4, ea)
  | .hostStore _ _ ea => (3, ea)
  | .semSig _ n _ => (5, BitVec.ofNat 64 n)
  | .tsemSig _ _ _ ea => (6, ea)
  | .adds e _ _ _ _ _ ea => (if e.matrix then 8 else 7, ea)
  | .radv _ q => (11, BitVec.ofNat 64 q)
  | .trigger _ _ => (10, 0)
  | _ => (0, 0)

/-- The number that stands for the front end among the sources of released effects (09: R159). -/
def frontTid : Nat := 2 ^ 40

/-- Change how the head command of an engine of a cell has ended. -/
def State.updEnded (s : State) (cell : Nat) (matrix : Bool) (f : DrainEnd → DrainEnd) (g : CopyEnd → CopyEnd) : State :=
  s.updCell cell (fun c =>
    if matrix then { c with matq := match c.matq with | m :: ms => { m with ended := m.ended.map f } :: ms | [] => [] }
    else { c with copyq := match c.copyq with | m :: ms => { m with ended := m.ended.map g } :: ms | [] => [] })

/-- The copy status code of an ASYNCERR code (08: R153). -/
def copyStatus (code : Nat) : Nat := if code = 1 then 8 else if code = 4 then 7 else if code = 3 then 5 else 6

/-- A contribution of an engine command fails at its home: the command's later contributions are not sent, and it ends with that failure (07:
R138; 08: R153). -/
def State.addsFailed (s : State) (e : AddsFrom) (code : Nat) (ea : W64) : State :=
  let rest : State := { s with released := s.released.filter (fun r => match r.item with
    | .adds d _ _ _ _ _ _ => !(d.cell == e.cell && d.matrix == e.matrix) | _ => true) }
  rest.updEnded e.cell e.matrix (fun d => { d with fail := some (code, ea) })
    (fun d => match d.fail with
      | some (_, _, _, k, _) => if k ≤ e.first then d else { d with fail := some (true, copyStatus code, code, e.first, ea) }
      | none => { d with fail := some (true, copyStatus code, code, e.first, ea) })

/-- The core whose far effect's answer comes back adds its delay (12: R215, R216). -/
def State.ackDelay (s : State) (r : Released) (to_ : Option (BitVec 16 × FabClass)) : State :=
  match s.findTid r.tid, to_ with
  | some t, some h => s.replyDelay t.core { home := some h.1, pa := 0 } h.2
  | _, _ => s

/-- A released effect fails with a code: it is recorded in its thread's ASYNCERR and is gone (R99); a failed signal of
the front end is logged (09: R159), and a contribution of an engine command ends that command (07: R138; 08: R153). -/
def State.failRel (s : State) (n code : Nat) : State :=
  match s.released[n]? with
  | none => s
  | some r =>
    if r.tid = frontTid then (s.clearRel n).logAddr r.item.errSource.2.toNat
    else match r.item with
      | .adds e _ _ _ _ _ ea => (s.clearRel n).addsFailed e code ea
      | _ => (s.clearRel n).asyncErr r.tid r.item.errSource.1 code r.item.errSource.2

/-- The bytes lie in the entries of a configured ring (R127). -/
def Ring.touches (r : Ring) (cs : List MCell) : Bool :=
  let base := fld r.word 20 0
  let size := (fld r.word 53 48 + 1) * fld r.word 40 32 * 256
  r.word != 0 && cs.any (fun c => decide (base ≤ c.1) && decide (c.1 < base + size))

/-- The target of an effect within which release order holds (R52, R56): a kind and two numbers. -/
def Item.target (i : Item) : Option (Nat × Nat × Nat) :=
  match i with
  | .semSig c n _ => some (1, c, n)
  | .radv c q => some (2, c, q)
  | .rpop c q _ _ => some (2, c, q)
  | .rcfg c q _ _ => some (2, c, q)
  | .matrix c _ => some (3, c, 0)
  | .copy c _ => some (4, c, 0)
  | .comet l _ _ _ cls _ => match l.home with
    | none => some (5, lineOf l.pa, 0)
    | some h => if cls = .a then none else some (8, h.toNat, 0)
  | .tsemSig l _ cls _ => match l.home with
    | none => some (6, l.pa, 0)
    | some h => if cls = .a then none else some (8, h.toNat, 0)
  | .farStore h _ cls _ => if cls = .a then none else some (8, h.toNat, 0)
  | .hostStore p _ _ => some (7, p, 0)
  | .gstage _ => some (9, 0, 0)
  | _ => none

/-- Two effects go to one target. -/
def State.sameTarget (s : State) (a b : Item) : Bool :=
  let ring := fun (c q : Nat) (cs : List MCell) => (Map.get Ring.reset (s.cell c).rings q).touches cs
  match a, b with
  | .ringStore c cs, .ringStore c2 ds =>
    c == c2 && ((countFrom 0 16).any (fun q => ring c q cs && ring c q ds) || cs.any (fun x => ds.any (fun y => x.1 == y.1)))
  | .ringStore c cs, _ => (match b.target with | some (2, c2, q) => c == c2 && ring c q cs | _ => false)
  | _, .ringStore c cs => (match a.target with | some (2, c2, q) => c == c2 && ring c q cs | _ => false)
  | _, _ => (match a.target, b.target with | some x, some y => x == y | _, _ => false)

/-- The line that an effect of a thread writes at its home, for what a refused comet holds back (R200). -/
def State.effectLine (s : State) (i : Item) : Option Loc :=
  let line := fun (l : Loc) => some (s.here { l with pa := l.pa / 64 * 64 })
  match i with
  | .comet l _ _ _ _ _ => line l
  | .tsemSig l _ _ _ => line l
  | .farStore h cs _ _ => line { home := some h, pa := (cs.headD (0, 0, 0)).1 }
  | _ => none

/-- The module an effect travels to as an access of memory, and its class (12: R213). -/
def Item.farTo (i : Item) : Option (BitVec 16 × FabClass) :=
  match i with
  | .farStore h _ cls _ => some (h, cls)
  | .comet l _ _ _ cls _ => l.home.map (fun h => (h, cls))
  | .tsemSig l _ cls _ => l.home.map (fun h => (h, cls))
  | .amo l _ _ cls _ => l.home.map (fun h => (h, cls))
  | .adds e l _ _ _ _ _ => l.home.map (fun h => (h, e.cls))
  | _ => none

/-- The contribution is ordered by a key (R198). -/
def Item.ordered (i : Item) : Bool :=
  match i with
  | .comet _ .faddO _ _ _ _ => true
  | .amo _ _ _ _ _ => true
  | .adds _ _ _ _ _ _ _ => true
  | _ => false

/-- The line a contribution goes to. -/
def State.contribLoc (s : State) (i : Item) : Option Loc :=
  let line := fun (l : Loc) => some (s.here { l with pa := l.pa / 64 * 64 })
  match i with
  | .comet l _ _ _ _ _ => line l
  | .amo l _ _ _ _ => line l
  | .adds _ l _ _ _ _ _ => line l
  | _ => none

/-- Two contributions of one engine command. -/
def Item.sameCommand (i j : Item) : Bool :=
  match i, j with
  | .adds d _ _ _ _ _ _, .adds e _ _ _ _ _ _ => d.cell == e.cell && d.matrix == e.matrix
  | _, _ => false

/-- An earlier effect of the same thread must be performed first (R52, R56, R168, R200). A contribution that its home has buffered is not
performed yet, so it holds back later effects to its target, but for contributions to its own line, which its key register orders. The
contributions of one engine command go out in its order, so that none after a failing one has gone (07: R138; 08: R153). -/
def State.heldBack (s : State) (n : Nat) : Bool :=
  match s.released[n]? with
  | none => true
  | some r =>
    let before := (s.released.take n).filter (fun q => q.tid == r.tid && q.stage != .performed)
    let buffered := s.buffered.filter (fun q => q.tid == r.tid)
    before.any (fun q => s.sameTarget q.item r.item || q.item.sameCommand r.item ||
      (q.stage == .refused && (s.effectLine q.item).isSome && s.effectLine q.item == s.effectLine r.item)) ||
    buffered.any (fun q => s.sameTarget q.item r.item && !(r.item.ordered && s.contribLoc q.item == s.contribLoc r.item)) ||
    (match r.item with
     | .trigger _ _ => before.any (fun q => q.blocks 0) || buffered.any (fun q => q.blocks 0)
     | _ => false)

/-- Finish an atomic at its boundary with the value for rd; a reply from an outer address is a value source (R204). -/
def State.finishAtomic (s : State) (d : Reg) (v : W64) (outer : Bool) : State :=
  if outer then
    match s.valueSource [v] with
    | (s1, some (w :: _)) => (s1.setX d w).retireBoundary
    | (s1, _) => s1.disagree
  else (s.setX d v).retireBoundary

/-- The old value as an atomic of `n` bytes returns it: floating addition zero-extends, every other one sign-extends (R284). -/
def rmwResult (op : Option RmwOp) (n old : Nat) : W64 :=
  match op with
  | some .faddO | some .faddU => BitVec.ofNat 64 old
  | _ => sext64 old (8 * n)

/-- What an atomic without key order writes over the old value; without an operation it is AMOCAS, which writes on equality (R284, R287). -/
def rmwNew (op : Option RmwOp) (n : Nat) (src cmp : W64) (old : Nat) : Option Nat :=
  match op with
  | some f => some (f.apply n old (src.toNat % 2 ^ (8 * n)))
  | none => if old = cmp.toNat then some src.toNat else none

/-- The reply of a performed atomic completes its instruction, before anything else is taken at that boundary (R58, R284; 05: R101). -/
def State.finishRmw (s : State) (tid old : Nat) : State :=
  match s.findTid tid with
  | some t => (match t.pend with
    | .rmw l op n _ _ cls d => (s.onThread tid (fun k => k.finishAtomic d (rmwResult op n old) l.home.isSome)).replyDelay t.core l cls
    | _ => s)
  | none => s

/-- A reply to a waiting thread (R28). -/
def State.replyTo (s : State) (tid : Nat) (l : Loc) (bs : List Byte) : State :=
  s.updTid tid (fun t => { t with
    replies := t.replies ++ [(l, bs)]
    st := if t.st = .dataWait then .runnable else t.st
    pend := .none })

/-- The place of the outer access that a context waits on, and its class. -/
def Pending.far (p : Pending) : Option (Loc × FabClass) :=
  match p with
  | .outer l _ cls => some (l, cls)
  | .rmw l _ _ _ _ cls _ => some (l, cls)
  | .key l _ cls _ => some (l, cls)
  | .pageWord l _ _ cls _ => some (l, cls)
  | _ => Option.none

/-- A reply from a far module brings its delay to the waiting thread's core, an error response or poison as well (12: R216). -/
def State.farDelay (s : State) (tid : Nat) : State :=
  match s.findTid tid with
  | some t => (match t.pend.far with | some (l, cls) => if l.home.isSome then s.replyDelay t.core l cls else s | none => s)
  | none => s

/-- An error response or uncorrectable data for a waiting thread. -/
def State.replyFail (s : State) (tid : Nat) (poison : Bool) : State :=
  s.updTid tid (fun t => { t with
    replyBad := t.replyBad || !poison
    replyPoison := t.replyPoison || poison
    st := if t.st = .dataWait then .runnable else t.st
    pend := .none })

/-! ## Ordered contributions (R200) -/

/-- The element sums of an engine contribution, read through what it has written so far: bytes and flags (R138, R151). -/
def State.addAll (s : State) (e : Elem) (rm : Rm) (sat : Bool) : List AddEl → List (Loc × Byte × Byte) → Nat → List (Loc × Byte × Byte) × Nat
  | [], ps, f => (ps, f)
  | x :: xs, ps, f =>
    let byte := fun (l : Loc) => match ps.reverse.find? (fun p => p.1 == l) with
      | some p => p.2.2
      | none => s.homeByte l 0
    let d := leNat (x.at_.map byte)
    let r := e.convert rm sat false x.rnd ((e.unpack d).add false x.y)
    let new := (x.at_.zip (leBytes x.at_.length r.1)).map (fun p => (p.1, BitVec.allOnes 8, p.2))
    s.addAll e rm sat xs (ps ++ new) (Nat.lor f (if satf e r.2 then 1 else 0))

/-- What an engine command's contribution leaves for the command's end: SATF, which is merged when the command finishes (06: R115). -/
def State.addsFlags (s : State) (e : AddsFrom) (f : Nat) : State :=
  if f = 0 then s
  else s.updEnded e.cell e.matrix (fun d => { d with flags := Nat.lor d.flags (4 * f) }) (fun d => { d with flags := Nat.lor d.flags (4 * f) })

/-- Apply one contribution at its home as one engine commit (R198); a line that an engine's takes the stash path to is then the stash's (04:
R74). -/
def State.applyContrib (s : State) (r : Released) : State :=
  match r.item with
  | .comet l op n src _ ea =>
    if s.poisonedAt l n then s.asyncErr r.tid (if l.home.isSome then 2 else 4) 4 ea
    else
      let s1 := (s.rmwAt l n (fun old => some (op.apply n old (src.toNat % 2 ^ (8 * n))))).1
      if l.home.isSome then { s1 with released := s1.released ++ [{ r with stage := .performed }] } else s1
  | .amo l n src _ _ =>
    if s.poisonedAt l n then s.replyFail r.tid true
    else
      let p := s.rmwAt l n (fun old => some (RmwOp.faddO.apply n old (src.toNat % 2 ^ (8 * n))))
      p.1.finishRmw r.tid p.2
  | .adds e _ fmt rm sat els ea =>
    if els.any (fun x => x.at_.any (fun l => s.poisonedAt l 1)) then s.addsFailed e 4 ea
    else
      let p := s.addAll (fmtElem fmt) rm sat els [] 0
      ((s.putLocs p.1).ownStash e.cell e.held).addsFlags e p.2
  | _ => s

/-- The key register of a line. -/
def State.keyReg (s : State) (l : Loc) : Option KeyReg := s.keyRegs.find? (fun k => k.loc == l)

/-- Replace, or with none free, the key register of a line. -/
def State.setKeyReg (s : State) (l : Loc) (k : Option KeyReg) : State :=
  let rest := s.keyRegs.filter (fun q => q.loc != l)
  { s with keyRegs := match k with | some r => rest ++ [r] | none => rest }

/-- Key registers in use at the home slice of a line (R199). -/
def State.keyRegsAt (s : State) (l : Loc) : Nat :=
  (s.keyRegs.filter (fun k => k.loc.home == l.home && s.homeSlice k.loc.pa == s.homeSlice l.pa)).length

/-- The word of a key register: V, AK, FIRST, LAST, NEXT (R199). -/
def keyWord (ak : Bool) (first last next : Nat) : W64 :=
  BitVec.ofNat 64 (2 ^ 63 + (if ak then 2 ^ 61 else 0) + first % 2 ^ 18 * 2 ^ 36 + last % 2 ^ 18 * 2 ^ 18 + next % 2 ^ 18)

/-- Apply buffered contributions while one has round position 0; at most `fuel` of them (R200). -/
def State.drainKeys (s : State) (l : Loc) : Nat → State
  | 0 => s
  | fuel + 1 =>
    match s.keyReg l with
    | none => s
    | some k =>
      let next := fld k.word 17 0
      match k.buffered.find? (fun p => p.1 == next) with
      | none => s
      | some p =>
        let new := if next = fld k.word 35 18 then fld k.word 53 36 else next + 1
        let k1 := { k with word := setFld k.word 17 0 new, buffered := k.buffered.erase p }
        ((s.setKeyReg l (some k1)).applyContrib p.2).drainKeys l fuel

/-- Free an implicit register whose round is complete (R200). -/
def State.freeKeys (s : State) (l : Loc) : State :=
  match s.keyReg l with
  | none => s
  | some k =>
    if bit k.word 61 = false ∧ fld k.word 17 0 = fld k.word 53 36 ∧ k.buffered = [] then s.setKeyReg l none else s

/-- An ordered contribution reaches its home (R200): the state, and whether the home has taken it. It refuses one that is 64 or more places
from its turn, whose key register stays, and one for which it has no free register. -/
def State.contribute (s : State) (r : Released) : State × Bool :=
  match s.contribLoc r.item with
  | none => (s, false)
  | some l =>
    let fresh := (s.keyReg l).isNone
    if fresh && decide (Config.keyLimit ≤ s.keyRegsAt l) then (s, false)
    else
      let k := (s.keyReg l).getD { loc := l, word := keyWord false 0 (r.gangSize - 1) 0, buffered := [] }
      let first := fld k.word 53 36
      let last := fld k.word 35 18
      let next := fld k.word 17 0
      let n := last + 1 - first
      if r.rank < first ∨ last < r.rank then
        (((s.setKeyReg l (some { k with word := setFld k.word 62 62 1 })).applyContrib r).settle, true)
      else
        let p := (r.rank + n - next) % n + n * (k.buffered.filter (fun q => q.1 == r.rank)).length
        if 64 ≤ p then (s.setKeyReg l (some k), false)
        else
          let k1 := { k with buffered := k.buffered ++ [(r.rank, r)] }
          ((((s.setKeyReg l (some k1)).drainKeys l (k1.buffered.length)).freeKeys l).settle, true)

/-! ## AMOKEY (R201) -/

/-- Insert a buffered contribution by its key. -/
def insertByKey (p : Nat × Released) : List (Nat × Released) → List (Nat × Released)
  | [] => [p]
  | q :: qs => if p.1 < q.1 then p :: q :: qs else q :: insertByKey p qs

/-- AMOKEY's operation at the home of a line: the state and the value for rd. What is buffered when a register is replaced stays buffered under
the new fields, also where its turn has come (assumption 65). -/
def State.amokeyAt (s : State) (l : Loc) (w : W64) : State × W64 :=
  let old := s.keyReg l
  let first := fld w 53 36
  let last := fld w 35 18
  let next := fld w 17 0
  if bit w 63 then
    if fld w 60 54 ≠ 0 ∨ last < first ∨ next < first ∨ last < next then (s, BitVec.allOnes 64)
    else if old.isNone && decide (Config.keyLimit ≤ s.keyRegsAt l) then (s, BitVec.allOnes 64)
    else
      let buf := match old with | some k => k.buffered | none => []
      (s.setKeyReg l (some { loc := l, word := keyWord true first last next, buffered := buf }), match old with | some k => k.word | none => 0)
  else
    match old with
    | none => (s, 0)
    | some k =>
      let order := k.buffered.foldl (fun acc p => insertByKey p acc) []
      let s1 := order.foldl (fun a p => a.applyContrib p.2) (s.setKeyReg l none)
      (s1.settle, if k.buffered = [] then k.word else setFld k.word 62 62 1)

end Sys2Proof.Machine
end

