-- ==== Sys2Proof/Machine/Atomic.lean ====
section
/-! DEFINITION. AMOs with return, AMOCAS, AMOKEY and comets (R201, R284, R285, R287, R288, R297). -/
namespace Sys2Proof.Machine

/-- Bytes of an atomic's operand. -/
def amoBytes (w : BitVec 1) : Nat := if w = 1#1 then 4 else 8

/-- Check and map the word of an atomic, or of a comet, which matches no watchpoint (R284, R297; 14: R249): a G segment inside a guarded item
raises CARAVAN, a host page that it may not touch or an MMIO frame FARERR. -/
def State.atomicPlace (s : State) (ea : W64) (n align : Nat) (acc : Access) (coherentOk guarded : Bool) : State × Except Halt Place :=
  match (if acc == .store then s.placeMem ea n align else s.resolveMem ea n align acc) with
  | (s1, .error h) => (s1, .error h)
  | (s1, .ok p) =>
    if guarded && s1.inItem && segG (segOf s1.th.seg ea) then (s1, .error (.trap .caravan ea))
    else match p with
      | .hostPcie _ _ => (s1, .error (.trap .farerr ea))
      | .mmio _ => (s1, .error (.trap .farerr ea))
      | .inner key l st c =>
        if isHostKey key && !coherentOk then (s1, .error (.trap .farerr ea)) else (s1, .ok (.inner key l st c))
      | q => (s1, .ok q)

/-- What an inner atomic meets at its line before it is performed: the wait for its line from the boundary on (R28, R284), for a lock, a host that
holds it (12: R221), the priority token (R44) or room in the dirty log (05: R91), an error response, uncorrectable data. -/
def State.innerBar (s : State) (ea : W64) (key n : Nat) (leaves : List Nat) : Option (State × Stop) :=
  let ls := linesAt key n
  if !ls.all s.th.got.contains || s.commitBarred ls leaves then some (s, .wait (.direct ls))
  else if !s.mayRmw (s.coreInit s.th.core) key then some (s.logHome { home := none, pa := key } (s.coreInit s.th.core), .halt (.trap .farerr ea))
  else if s.poisonedAt { home := none, pa := key } n then some (s, .halt (.trap .poison ea))
  else none

/-- A far atomic: an error, or a wait in DATA-WAIT for the reply that completes it (R58). -/
def State.farAtomic (s : State) (ea : W64) (p : Pending) : State :=
  if s.th.replyBad then s.raise .farerr ea
  else if s.th.replyPoison then s.raise .poison ea
  else s.updTh (fun t => { t with st := .dataWait, pend := p, waitAt := s.time.up })

/-- An inner atomic is performed: one event of the commit order, its page logged when it writes (R284; 05: R91). -/
def State.innerRmw (s : State) (key n leaf : Nat) (f : Nat → Option Nat) : State × Nat :=
  let r := s.rmwAt { home := none, pa := key } n f
  let s1 := if (f r.2).isSome then r.1.logDirty [leaf] else r.1
  (s1.replyDelay s.th.core { home := none, pa := key } .a, r.2)

/-- An AMO with return (R284): one event at the home of its line; rd receives the old value. -/
def State.amo (s : State) (op : RmwOp) (d a b : Reg) (w : BitVec 1) : State :=
  s.boundary (fun k =>
    let n := amoBytes w
    let ea := k.x a
    let src := (k.x b).toNat % 2 ^ (8 * n)
    match k.atomicPlace ea n n .rmw true true with
    | (k1, .error h) => k1.haltWith h
    | (k1, .ok (.inner key leaf _ _)) =>
      (match k1.innerBar ea key n [leaf] with
       | some w => k.endWith w.1 w.2
       | none =>
         let r := k1.innerRmw key n leaf (rmwNew (some op) n (BitVec.ofNat 64 src) 0)
         r.1.finishAtomic d (rmwResult (some op) n r.2) false)
    | (k1, .ok (.far home pa cls)) => k1.farAtomic ea (.rmw { home := some home, pa := pa } (some op) n (BitVec.ofNat 64 src) 0 cls d)
    | (k1, .ok _) => k1)

/-- AMOFADD.O (R285): an ordered contribution of the issuing thread's RANK; the thread is in DATA-WAIT until its turn has come, which
completes it. -/
def State.amoOrdered (s : State) (d a b : Reg) (w : BitVec 1) : State :=
  s.boundary (fun k =>
    let n := amoBytes w
    let ea := k.x a
    let src := BitVec.ofNat 64 ((k.x b).toNat % 2 ^ (8 * n))
    match k.atomicPlace ea n n .rmw true true with
    | (k1, .error h) => k1.haltWith h
    | (k1, .ok (.inner key leaf _ _)) =>
      let l : Loc := { home := none, pa := key }
      if k1.th.replyPoison then k1.raise .poison ea
      else (match k1.innerBar ea key n [leaf] with
       | some w => k.endWith w.1 w.2
       | none =>
         let r := k1.releasedBy (.amo l n src .a ea) .waiting
         let k2 := (k1.logDirty [leaf]).updTh (fun t => { t with st := .dataWait, pend := .rmw l (some .faddO) n src 0 .a d, waitAt := k1.time.up })
         let p := k2.contribute r
         if p.2 then p.1 else { p.1 with released := p.1.released ++ [{ r with stage := .refused }] })
    | (k1, .ok (.far home pa cls)) => k1.farAtomic ea (.rmw { home := some home, pa := pa } (some .faddO) n src 0 cls d)
    | (k1, .ok _) => k1)

/-- AMOADD (R284). -/
def execAmoadd (d : BitVec 5) (a : BitVec 5) (b : BitVec 5) (w : BitVec 1) (st : State) : Ans := .next (st.amo .add d a b w)
/-- AMOAND (R284). -/
def execAmoand (d : BitVec 5) (a : BitVec 5) (b : BitVec 5) (w : BitVec 1) (st : State) : Ans := .next (st.amo .and d a b w)
/-- AMOOR (R284). -/
def execAmoor (d : BitVec 5) (a : BitVec 5) (b : BitVec 5) (w : BitVec 1) (st : State) : Ans := .next (st.amo .or d a b w)
/-- AMOXOR (R284). -/
def execAmoxor (d : BitVec 5) (a : BitVec 5) (b : BitVec 5) (w : BitVec 1) (st : State) : Ans := .next (st.amo .xor d a b w)
/-- AMOMIN (R284): signed. -/
def execAmomin (d : BitVec 5) (a : BitVec 5) (b : BitVec 5) (w : BitVec 1) (st : State) : Ans := .next (st.amo .min d a b w)
/-- AMOMAX (R284): signed. -/
def execAmomax (d : BitVec 5) (a : BitVec 5) (b : BitVec 5) (w : BitVec 1) (st : State) : Ans := .next (st.amo .max d a b w)
/-- AMOMINU (R284). -/
def execAmominu (d : BitVec 5) (a : BitVec 5) (b : BitVec 5) (w : BitVec 1) (st : State) : Ans := .next (st.amo .minu d a b w)
/-- AMOMAXU (R284). -/
def execAmomaxu (d : BitVec 5) (a : BitVec 5) (b : BitVec 5) (w : BitVec 1) (st : State) : Ans := .next (st.amo .maxu d a b w)
/-- AMOSWAP (R284). -/
def execAmoswap (d : BitVec 5) (a : BitVec 5) (b : BitVec 5) (w : BitVec 1) (st : State) : Ans := .next (st.amo .swap d a b w)
/-- AMOFADD.O (R285). -/
def execAmofaddO (d : BitVec 5) (a : BitVec 5) (b : BitVec 5) (w : BitVec 1) (st : State) : Ans := .next (st.amoOrdered d a b w)
/-- AMOFADD.U (R285): applied on arrival. -/
def execAmofaddU (d : BitVec 5) (a : BitVec 5) (b : BitVec 5) (w : BitVec 1) (st : State) : Ans := .next (st.amo .faddU d a b w)

/-- AMOCAS (R287): an unequal comparison writes nothing. -/
def execAmocas (d : BitVec 5) (a : BitVec 5) (b : BitVec 5) (c : BitVec 5) (w : BitVec 1) (st : State) : Ans :=
  .next (st.boundary (fun k =>
    let n := amoBytes w
    let ea := k.x a
    let new := (k.x b).toNat % 2 ^ (8 * n)
    let cmp := (k.x c).toNat % 2 ^ (8 * n)
    match k.atomicPlace ea n n .rmw true true with
    | (k1, .error h) => k1.haltWith h
    | (k1, .ok (.inner key leaf _ _)) =>
      (match k1.innerBar ea key n [leaf] with
       | some w => k.endWith w.1 w.2
       | none =>
         let r := k1.innerRmw key n leaf (rmwNew none n (BitVec.ofNat 64 new) (BitVec.ofNat 64 cmp))
         r.1.finishAtomic d (rmwResult none n r.2) false)
    | (k1, .ok (.far home pa cls)) => k1.farAtomic ea (.rmw { home := some home, pa := pa } none n (BitVec.ofNat 64 new) (BitVec.ofNat 64 cmp) cls d)
    | (k1, .ok _) => k1))

/-- AMOKEY (R201, R288): acts on the key register of the line at its home; it never raises ALIGN. -/
def execAmokey (d : BitVec 5) (a : BitVec 5) (b : BitVec 5) (st : State) : Ans :=
  .next (st.boundary (fun k =>
    let ea := k.x a
    match k.atomicPlace ea 1 1 .rmw true false with
    | (k1, .error h) => k1.haltWith h
    | (k1, .ok (.inner key _ _ _)) =>
      if !k1.th.got.contains (lineOf key) || k1.commitBarred [lineOf key] [] then k.endWith k1 (.wait (.direct [lineOf key]))
      else
        let r := k1.amokeyAt { home := none, pa := key / 64 * 64 } (k.x b)
        ((State.setX r.1 d r.2).replyDelay k1.th.core { home := none, pa := key } .a).retireBoundary
    | (k1, .ok (.far home pa cls)) => k1.farAtomic ea (.key { home := some home, pa := pa } (k.x b) cls d)
    | (k1, .ok _) => k1))

/-! ## Comets (R297) -/

/-- A comet: checked and mapped at issue, deferred with its operand. -/
def State.comet (s : State) (op : RmwOp) (a b : Reg) (w : BitVec 1) : State :=
  let n := amoBytes w
  let ea := s.x a
  let src := BitVec.ofNat 64 ((s.x b).toNat % 2 ^ (8 * n))
  match s.atomicPlace ea n n .store false true with
  | (s1, .error h) => s.endWith s1 (.halt h)
  | (s1, .ok (.inner key _ _ _)) => s1.deferPlain [.comet { home := none, pa := key } op n src .a ea]
  | (s1, .ok (.far home pa cls)) => s1.deferPlain [.comet { home := some home, pa := pa } op n src cls ea]
  | (s1, .ok _) => s1

/-- CMADD (R297). -/
def execCmadd (a : BitVec 5) (b : BitVec 5) (w : BitVec 1) (st : State) : Ans := .next (st.comet .add a b w)
/-- CMFADD.O (R297): applied in key order (R200). -/
def execCmfaddO (a : BitVec 5) (b : BitVec 5) (w : BitVec 1) (st : State) : Ans := .next (st.comet .faddO a b w)
/-- CMFADD.U (R297). -/
def execCmfaddU (a : BitVec 5) (b : BitVec 5) (w : BitVec 1) (st : State) : Ans := .next (st.comet .faddU a b w)
/-- CMMIN (R297): signed. -/
def execCmmin (a : BitVec 5) (b : BitVec 5) (w : BitVec 1) (st : State) : Ans := .next (st.comet .min a b w)
/-- CMMAX (R297): signed. -/
def execCmmax (a : BitVec 5) (b : BitVec 5) (w : BitVec 1) (st : State) : Ans := .next (st.comet .max a b w)
/-- CMOR (R297). -/
def execCmor (a : BitVec 5) (b : BitVec 5) (w : BitVec 1) (st : State) : Ans := .next (st.comet .or a b w)

end Sys2Proof.Machine
end

