-- ==== Sys2Proof/Machine/Rings.lean ====
section
/-! DEFINITION. Operand rings and the stash map as threads use them (04: R72, R73; 07: R127 to R129; R342 to R346, R361). -/
namespace Sys2Proof.Machine

/-! ## Rings -/

/-- Ring `q` of a cell. -/
def State.ringOf (s : State) (cell q : Nat) : Ring := Map.get Ring.reset (s.cell cell).rings q
/-- Change a ring. -/
def State.updRing (s : State) (cell q : Nat) (f : Ring → Ring) : State :=
  s.updCell cell (fun c => { c with rings := Map.upd Ring.reset c.rings q f })
/-- The ring is configured (R128). -/
def Ring.on (r : Ring) : Bool := r.word != 0
/-- Entries of a ring. -/
def Ring.depth (r : Ring) : Nat := fld r.word 53 48 + 1
/-- Bytes of an entry. -/
def Ring.entryBytes (r : Ring) : Nat := fld r.word 40 32 * 256
/-- Ring-area offset of entry `e` (R127): entry numbers are counters, kept modulo 128. -/
def Ring.entryAt (r : Ring) (e : Nat) : Nat := fld r.word 20 0 + e % 128 % r.depth * r.entryBytes

/-- Own publications of the open chunk. -/
def State.ownRadvs (s : State) (q : Nat) : Nat := Map.get 0 s.th.chunk.radvs q
/-- Own claims of the open chunk. -/
def State.ownClaims (s : State) (q : Nat) : Nat := Map.get 0 s.th.chunk.claims q
/-- The claim position of the issuing thread (R127). -/
def State.claimPos (s : State) (q : Nat) : Nat := (s.ringOf s.myCell q).c + s.ownClaims q
/-- A published entry stands at the claim position, `extra` claims further on (R135). -/
def State.hasEntry (s : State) (q : Nat) : Bool :=
  decide (s.claimPos q < (s.ringOf s.myCell q).t + s.ownRadvs q)

/-- Enter tracking lines into the chunk's signatures and go on, once no commit in progress holds one locked (R42 step 2); a signature that
would saturate cuts the chunk first (R37, R39). -/
def State.tracked (s : State) (reads writes : List Nat) (f : State → State) : State :=
  let r := Sig.enterAll s.th.chunk.rsig reads
  let w := Sig.enterAll s.th.chunk.wsig writes
  if s.locked ((reads ++ writes).map lineOf) then s.endWith s (.wait (.direct ((reads ++ writes).map lineOf)))
  else if s.th.chunk.isOpen && (r.saturated || w.saturated) then s.cut .reissue
  else f (s.openChunk.updChunk (fun c => { c with rsig := Sig.enterAll c.rsig reads, wsig := Sig.enterAll c.wsig writes }))

/-- Wait for a ring's producer: the chunk is cut before the instruction, and the thread parks (R128, R345). The instruction is no boundary
instruction, so the wait is no event of the commit order and of no recorded turn (11: R203). -/
def State.waitRing (s : State) (q : Nat) : State := if s.th.chunk.isOpen then s.cut .reissue else s.park (.ring q)

/-- Claim the entry at the claim position. -/
def State.claim (s : State) (q : Nat) : State := s.updChunk (fun c => { c with claims := Map.upd 0 c.claims q (· + 1) })

/-- The status of a configuration word for a ring area of `area` bytes (R128). -/
def rcfgStatus (w : W64) (area : Nat) : Nat :=
  if w = 0 then 0
  else if fld w 63 54 ≠ 0 ∨ fld w 47 41 ≠ 0 ∨ fld w 31 21 ≠ 0 ∨ fld w 53 48 = 0 ∨ fld w 40 32 = 0 ∨ 256 < fld w 40 32 ∨
      fld w 20 0 % 256 ≠ 0 then 1
  else if area < fld w 20 0 + (fld w 53 48 + 1) * fld w 40 32 * 256 then 2
  else 0

/-- RCFG (R128, R344): the status at issue; with status 0 the configuration is queued. -/
def execRcfg (d : BitVec 5) (a : BitVec 5) (q : BitVec 4) (st : State) : Ans :=
  let c := rcfgStatus (st.x a) (st.cell st.myCell).area
  .next (if c = 0 then
      match st.deferOr [.rcfg st.myCell q.toNat (st.x a) none] with
      | .stop s1 w => st.endWith s1 w
      | .ok s1 _ _ => (s1.setX d 0).retire
    else st.setResult d (BitVec.ofNat 64 c))

/-- RADV (R128, R343): publishes entry T when performed; RING when the ring is unconfigured. -/
def execRadv (q : BitVec 4) (st : State) : Ans :=
  .next (if (st.ringOf st.myCell q.toNat).on then
      match st.deferOr [.radv st.myCell q.toNat] with
      | .stop s1 w => st.endWith s1 w
      | .ok s1 _ _ => (s1.updChunk (fun c => { c with radvs := Map.upd 0 c.radvs q.toNat (· + 1) })).retire
    else st.raise .ring (q.setWidth 64))

/-- RPOP (R128, R345): claims the entry at position C, or waits for one. -/
def execRpop (q : BitVec 4) (st : State) : Ans :=
  let n := q.toNat
  let r := st.ringOf st.myCell n
  .next (if !r.on then st.raise .ring (q.setWidth 64)
    else if !st.hasEntry n then st.waitRing n
    else st.tracked [ringLine st.myCell n] [ringLine st.myCell n] (fun k =>
      match k.deferOr [.rpop k.myCell n (k.claimPos n) r.epoch] with
      | .stop s1 w => st.endWith s1 w
      | .ok s1 _ _ => (s1.claim n).retire))

/-- The RSTAT word (R128): the thread's own open-chunk publications and claims count. PUB reads 0 while C stands above T
(assumption 75). -/
def State.rstatWord (s : State) (q : Nat) : W64 :=
  let r := s.ringOf s.myCell q
  let t := r.t + s.ownRadvs q
  let c := s.claimPos q
  if r.on then
    BitVec.ofNat 64 (2 ^ 63 + (t - c) % 128 * 2 ^ 56 + (r.depth + r.h + 128 - t) % 128 * 2 ^ 49 + (c - r.h) % 128 * 2 ^ 42 +
      r.entryAt c % 2 ^ 21 * 2 ^ 21 + r.entryAt t % 2 ^ 21)
  else 0

/-- A plain instruction whose value is a value source (R204, R205). -/
def State.sourceResult (s : State) (d : Reg) (v : W64) : State :=
  match s.openChunk.valueSource [v] with
  | (s1, some (w :: _)) => (s1.setX d w).retire
  | (s1, _) => s1.disagree

/-- RSTAT (R128, R346). -/
def execRstat (d : BitVec 5) (q : BitVec 4) (st : State) : Ans :=
  .next (st.tracked [ringLine st.myCell q.toNat] [] (fun k => k.sourceResult d (k.rstatWord q.toNat)))

/-! ## The stash map -/

/-- The virtual range of a stash instruction (R361): no right is needed, and it is not translated. -/
def State.stashRange (s : State) (a b : Reg) : Except Cause (Nat × Nat) :=
  let ea := s.x a
  let len := (s.x b).toNat
  let g := segOf s.th.seg ea
  let off := fld ea 60 0
  if segLimit g < off + len then .error .seglimit
  else if segRing g then .error .segrights
  else if 2 ^ 57 < segBase g + off + len then .error .seglimit
  else .ok (segBase g + off, len)

/-- Bytes of a cell's stash (04: R70). -/
def stashBytes : Nat := 3145728

/-- The first free run of `len` bytes of the data area, of the places where one can begin (assumption 20). -/
def freeRun (m : List MapEntry) (area len : Nat) : Option Nat :=
  ((area :: m.map (fun e => e.run + e.len)).filter (fun p => decide (p + len ≤ stashBytes) &&
    m.all (fun e => decide (p + len ≤ e.run) || decide (e.run + e.len ≤ p)))).min?

/-- Ranges of two mappings meet. -/
def MapEntry.meets (e : MapEntry) (base len : Nat) : Bool := decide (e.base < base + len) && decide (base < e.base + e.len)

/-- SMAP's status and the new table (R73), in the order of the status numbers where several apply (assumption 74). -/
def smapTable (m : List MapEntry) (area : Nat) (asid : BitVec 16) (base len : Nat) : Nat × List MapEntry :=
  if base % 4096 ≠ 0 ∨ len % 4096 ≠ 0 ∨ len = 0 then (1, m)
  else if m.any (fun e => e.meets base len) then (2, m)
  else match (if stashBytes - area < len then none else freeRun m area len) with
    | none => (3, m)
    | some p => if 8 ≤ m.length then (4, m) else (0, m ++ [{ base := base, len := len, run := p, asid := asid }])

/-- A stash instruction on its range, reading and perhaps writing the map's tracking line (R72). -/
def State.stashOp (s : State) (a b : Reg) (wr : Bool) (f : Nat → Nat → State → State) : State :=
  match s.stashRange a b with
  | .error c => s.raise c (s.x a)
  | .ok (base, len) => s.tracked [mapLine s.myCell] (if wr then [mapLine s.myCell] else []) (fun k => (f base len k).retire)

/-- SMAP (R73, R361). -/
def execSmap (d : BitVec 5) (a : BitVec 5) (b : BitVec 5) (st : State) : Ans :=
  .next (st.stashOp a b true (fun base len k =>
    let r := smapTable k.stashMap (k.cell k.myCell).area (k.asidOf k.th.core) base len
    (if r.1 = 0 then k.updChunk (fun c => { c with smap := some r.2 }) else k).setX d (BitVec.ofNat 64 r.1)))

/-- SUNMAP (R73, R361): the entry whose base and length equal the operands. -/
def execSunmap (d : BitVec 5) (a : BitVec 5) (b : BitVec 5) (st : State) : Ans :=
  .next (st.stashOp a b true (fun base len k =>
    let hit := k.stashMap.any (fun e => e.base == base && e.len == len)
    let gone := k.stashMap.filter (fun e => e.base == base && e.len == len)
    let rest := k.stashMap.filter (fun e => !(e.base == base && e.len == len))
    (if hit then k.updChunk (fun c => { c with smap := some rest, unmapped := c.unmapped ++ gone }) else k).setX d (if hit then 0 else 5)))

/-- SFLUSH (R73, R361). -/
def execSflush (d : BitVec 5) (a : BitVec 5) (b : BitVec 5) (st : State) : Ans :=
  .next (st.stashOp a b false (fun base len k =>
    let bad := decide (base % 4096 ≠ 0) || decide (len % 4096 ≠ 0) || decide (len = 0)
    (if bad then k else k.updChunk (fun c => { c with sflush := c.sflush ++ [(base, len)] })).setX d (w64 bad)))

end Sys2Proof.Machine
end

