-- ==== Sys2Proof/Machine/CaravanOps.lean ====
section
/-! DEFINITION. Caravan instructions and GCHK (10: R179 to R189, R195; R304 to R309, R322). -/
namespace Sys2Proof.Machine

/-- CVH names a live record (R179). -/
def State.cvLive (s : State) : Bool := bit s.th.cvh 63 && s.liveCv s.th.cvh
/-- The record number in CVH. -/
def State.cvId (s : State) : Nat := fld s.th.cvh 15 0
/-- CVH names a live record that the issuing thread opened. -/
def State.cvMine (s : State) : Bool := s.cvLive && (s.caravan s.cvId).owner == s.th.tid

/-- Free the thread's DONE records (R179). -/
def State.freeDone (s : State) (tid : Nat) : State :=
  (s.caravans.filter (fun p => p.2.owner == tid && p.2.st == .done)).foldl
    (fun k p => k.updCaravan p.1 (fun c => { Caravan.reset with gen := c.gen })) s

/-- The rounded budget of CVOPEN; none where it is refused (R181). -/
def cvBudget (b : Nat) : Option Nat :=
  let r := (if b = 0 then 1048576 else b + 63) / 64 * 64
  if 67108864 < r then none else some r

/-- LEAD and TMO in µs; none where a reserved bit is set or a value is out of range (R181). -/
def cvParams (w : W64) : Option (Nat × Nat) :=
  let lead := if fld w 47 32 = 0 then 20 else fld w 47 32
  let tmo := if fld w 31 0 = 0 then 2000000 else fld w 31 0
  if fld w 63 48 ≠ 0 ∨ tmo < 1000 ∨ 60000000 < tmo then none else some (lead, tmo)

/-- This module still has to publish for the identifier, since T comes after CVCOMMIT's return at D (R187). -/
def State.cvOwes (s : State) (cid : BitVec 32) : Bool := s.cvDests.any (fun d => d.cid == cid && !d.gone && d.commit.isSome)

/-- The lowest free record whose last caravan has been published here (assumption 20). -/
def State.freeRecord (s : State) : Option Nat :=
  (countFrom 0 (s.caravans.length + s.cvDests.length + 1)).find? (fun i =>
    decide (i < Config.poolLimit) && s.cvFreed (s.caravan i) && !s.cvOwes (s.cidOf i))

/-- A handle word (R179). -/
def State.handleOf (s : State) (id : Nat) (gen : BitVec 16) : W64 :=
  BitVec.ofNat 64 (2 ^ 63 + gen.toNat * 2 ^ 32 + s.moduleId.toNat * 2 ^ 16 + id)

/-- Allocate a record for an owner (R181). -/
def State.openCaravan (s : State) (owner id budget lead : Nat) (d : W64) : State :=
  let cid := s.cidOf id
  let s1 := s.updCaravan id (fun c => { Caravan.reset with
    st := .opened, gen := c.gen + 1, owner := owner, d := d, lead := lead, budget := budget })
  { s1 with cvDests := s1.cvDests.filter (fun e => e.cid != cid) }

/-- CVOPEN (R181, R306): 1 NOPOOL, 2 BADPARAM. -/
def execCvopen (d : BitVec 5) (a : BitVec 5) (b : BitVec 5) (st : State) : Ans :=
  .next (if st.cvLive && (st.caravan st.cvId).st == .opened then st.raise .caravan st.th.cvh
    else st.boundary (fun k0 =>
      let k := k0.freeDone k0.th.tid
      match cvBudget (k.x a).toNat, cvParams (k.x b) with
      | some budget, some (lead, tmo) =>
        (match k.freeRecord with
         | none => (k.setX d 1).retireBoundary
         | some id =>
           let k1 := k.openCaravan k.th.tid id budget lead (satAdd k.time.now (tmo * Config.usUnits))
           let h := k1.handleOf id (k1.caravan id).gen
           ((k1.setX d h).updTh (fun t => { t with cvh := h })).retireBoundary)
      | _, _ => (k.setX d 2).retireBoundary))

/-- Stage bytes (R182, R307): the checks, the charge against the budget, the overflow mark. -/
def State.cvStage (s : State) (ea : W64) (n : Nat) (cells : List MCell) : State :=
  match s.resolveMem ea n n .store with
  | (s1, .error h) => s.endWith s1 (.halt h)
  | (s1, .ok p) =>
    let loc : Option Loc := match p with
      | .inner key _ _ _ => if isHostKey key then none else some { home := none, pa := key }
      | .far home pa _ => some { home := some home, pa := pa }
      | .mmio pa => some { home := none, pa := pa }
      | _ => none
    match loc with
    | none => s1.raise .caravan ea
    | some l =>
      let c := s1.caravan s1.cvId
      let dests := dedup (c.dests.map (·.1) ++ s1.th.arch.cvDests)
      let home := s1.homeOf l
      if !s1.cvMine || c.st != .opened then s1.raise .caravan ea
      else if cells.isEmpty then s1.plain id
      else if c.ovf || s1.th.arch.cvOvf || decide (c.budget < c.charge + s1.th.arch.cvCharge + 64) ||
          (!dests.contains home && decide (Config.destLimit ≤ dests.length)) then
        s1.plain (fun k => k.updArch (fun a => { a with cvOvf := true }))
      else
        match s1.deferOr [.stage (s1.cidOf s1.cvId) c.gen 0 l (cells.map (fun x => (l.pa + x.1, x.2))) c.d] with
        | .stop s2 w => s.endWith s2 w
        | .ok s2 _ _ => (s2.updArch (fun a => { a with
            cvCharge := a.cvCharge + 64
            cvDests := if a.cvDests.contains home then a.cvDests else a.cvDests ++ [home] })).retire

/-- CVST (R182, R307). -/
def execCvst (b : BitVec 5) (a : BitVec 5) (i : BitVec 15) (st : State) : Ans :=
  .next (st.cvStage (st.ea a i) 8 (mcellsAt 0 (leBytes 8 (st.x b).toNat)))

/-- CVSTV (R182, R309): the bytes whose mask bits are set. -/
def execCvstv (v : BitVec 5) (a : BitVec 5) (k : BitVec 3) (o : BitVec 12) (st : State) : Ans :=
  .next (st.cvStage (st.ea12 a o) 64 ((mcellsAt 0 (vbytes (st.v v))).filter (fun c => bit (st.m k) c.1)))

/-- The entries of a destination as bytes to write. -/
def CvDest.cells (d : CvDest) : List MCell := d.inn.map (fun p => (p.1, BitVec.allOnes 8, p.2.2))

/-- A destination's current entry of an identifier. -/
def State.cvDest (s : State) (cid : BitVec 32) : Option CvDest := s.cvDests.find? (fun d => d.current cid)

/-- The lines that an entry writes. -/
def CvDest.lines (d : CvDest) : List Nat := linesOf (d.inn.map (·.1))

/-- Publish a destination's entries as one engine commit and release their locks (R187). -/
def State.cvPublishEntry (s : State) (d : CvDest) : State :=
  let s1 := if d.inn.isEmpty then s else s.engineCommit d.cells
  if d.old then { s1 with
    cvDests := s1.cvDests.filter (fun e => e != d), locks := s1.locks.filter (fun p => !(p.2 == d.owner && d.lines.contains p.1)) }
  else s1.cvDiscard d.cid

/-- Publish a caravan's current entries of this module (R187). -/
def State.cvPublishHere (s : State) (cid : BitVec 32) : State :=
  match s.cvDest cid with
  | none => s
  | some d => s.cvPublishEntry d

/-- A caravan of the pool ends with the outcome COMMITTED at a time, which is a publish time when it has published (R185, R189). -/
def State.cvCommitted (s : State) (id : Nat) (t : W64) (published : Bool) : State :=
  s.updCaravan id (fun c => { c with st := .done, outcome := 0, t := t, tlast := if published && decide (c.tlast.toNat < t.toNat) then t else c.tlast })

/-- Stages of a record that have not yet been placed in an inn of this module or handed to the fabric. -/
def State.unplaced (s : State) (id : Nat) : Bool :=
  s.released.any (fun r => match r.item with
    | .stage cid gen _ loc _ _ => cid == s.cidOf id && gen == (s.caravan id).gen && (r.stage == .waiting || s.isHere loc)
    | _ => false)

/-- This module's answer to PREPARE for a caravan whose stages here have all been placed or refused (R185). -/
def State.cvAnswerHere (s : State) (cid : BitVec 32) : CvAnswer :=
  match s.cvDest cid with
  | some d => if d.refused then .overflow else if d.bad then .fault else .ok
  | none => .ok

/-- Start the protocol: PREPARE to every remote destination; this module confirms to itself, and discards its entries at once when it cannot (R185,
R190). -/
def State.cvPrepareAll (s : State) (id : Nat) : State :=
  let c := s.caravan id
  let cid := s.cidOf id
  let parts := c.dests.map (·.1)
  let here := parts.contains s.moduleId
  let msgs := (c.dests.filter (fun p => p.1 != s.moduleId)).map (fun p => CvMsg.prepare cid p.1 parts p.2 c.d)
  let mine := s.cvAnswerHere cid
  let s1 := s.updCaravan id (fun c => { c with st := .preparing, answers := (if here then [(s.moduleId, mine)] else []) ++ c.answers })
  let s2 : State := { s1 with
    fabric := { s1.fabric with sent := s1.fabric.sent ++ msgs }
    cvDests := s1.cvDests.map (fun d => if d.current cid then { d with parts := parts, d := c.d, confirmed := (mine == .ok) } else d) }
  if here && mine != .ok then (s2.cvDiscard cid).wakeTasks else s2

/-- The outcome of a caravan that does not commit (R185): the lowest code that applies, 4 when none does. -/
def Caravan.failCode (c : Caravan) : Nat :=
  if c.answers.any (fun a => a.2 == .overflow) then 2
  else if !c.undelivered.isEmpty then 3
  else if c.answers.any (fun a => a.2 == .fault) then 5
  else 4

/-- Every destination has answered, or is known not to be reached. -/
def Caravan.answered (c : Caravan) : Bool :=
  c.dests.all (fun p => c.answers.any (fun a => a.1 == p.1) || c.undelivered.contains p.1)

/-- COMMIT is sent: T is chosen, recorded and held here too when this module is a destination (R185). -/
def State.cvGo (s : State) (id : Nat) : State :=
  let c := s.caravan id
  let cid := s.cidOf id
  let t := satAdd s.time.now (c.lead * Config.usUnits)
  let msgs := (c.dests.filter (fun d => d.1 != s.moduleId)).map (fun d => CvMsg.commit cid d.1 t)
  let s1 := (s.updCaravan id (fun c => { c with st := .publishing, t := t })).cvDecided cid c.d (some t)
  { s1 with
    fabric := { s1.fabric with sent := s1.fabric.sent ++ msgs }
    cvDests := s1.cvDests.map (fun e => if e.current cid then { e with commit := some t } else e) }

/-- The coordinator decides once every answer is in, or, `late`, when the cut-off D - 200 µs has passed (R184, R185). -/
def State.cvDecide (s : State) (id : Nat) (late : Bool) : State :=
  let c := s.caravan id
  if c.st ≠ .preparing ∨ (c.answered = false ∧ late = false) then s
  else if c.undelivered.isEmpty && c.answers.all (fun a => a.2 == .ok) && c.answered && decide (s.time.now.toNat + 200 * Config.usUnits < c.d.toNat)
  then s.cvGo id
  else s.cvEnd id c.failCode

/-- Give CVCOMMIT's outcome to rd; it is a value source (R204). -/
def State.cvReturn (s : State) (d : Reg) (code : Nat) : State :=
  match s.valueSource [BitVec.ofNat 64 code] with
  | (s1, some (w :: _)) => (s1.setX d w).retireBoundary
  | (s1, _) => s1.disagree

/-- A line of an entry is locked by another owner, so that a publish waits. -/
def State.cvHeld (s : State) (d : CvDest) : Bool := s.locks.any (fun p => p.2 != d.owner && d.lines.contains p.1)

/-- Another publish of this module that writes one of the lines comes first, its T being no later than `t` (R191). -/
def State.cvFirst (s : State) (lines : List Nat) (t : Nat) (mine : CvDest → Bool) : Bool :=
  s.cvDests.any (fun e => !mine e && !e.gone && (match e.commit with | some u => decide (u.toNat ≤ t) | none => false) && e.lines.any lines.contains)

/-- The publish of this module's current entries at once, without a COMMIT to wait for, has to wait: a line is locked, a thread holds the commit
token, or the publish of a COMMIT that is due goes first (R191; 02: R42, R44). -/
def State.cvWaits (s : State) (tid : Nat) (cid : BitVec 32) : Bool :=
  match s.cvDest cid with
  | some d => !d.inn.isEmpty && (s.cvHeld d || s.tokenBars tid || s.cvFirst d.lines s.time.now.toNat (fun e => e.current cid))
  | none => false

/-- What one turn of CVCOMMIT comes to: an outcome, a wait for answers or stages, or what holds its publish. -/
inductive CvTurn where
  | ended (outcome : Nat)
  | waits
  | held
  deriving DecidableEq, Repr

/-- One turn of CVCOMMIT on a record (R185). -/
def State.cvTurn (s : State) (id : Nat) : State × CvTurn :=
  let c := s.caravan id
  let cid := s.cidOf id
  match c.st with
  | .done => (s, .ended c.outcome)
  | .opened =>
    if c.d.toNat ≤ s.time.now.toNat then (s.cvEnd id 4, .ended 4)
    else if c.ovf then (s.cvEnd id 2, .ended 2)
    else if s.unplaced id then (s, .waits)
    else if c.seq = 0 then (s.cvCommitted id s.time.now false, .ended 0)
    else if c.dests.all (fun p => p.1 == s.moduleId) then
      (match s.cvAnswerHere cid with
       | .overflow => (s.cvEnd id 2, .ended 2)
       | .fault => (s.cvEnd id 5, .ended 5)
       | .ok =>
         if s.cvWaits c.owner cid then (s, .held)
         else (((s.cvPublishHere cid).wakeTasks.cvCommitted id s.time.now true).updCaravan id (fun c => { c with skew := s.time.st != .locked }), .ended 0))
    else
      let s1 := (s.cvPrepareAll id).cvDecide id false
      (s1, if (s1.caravan id).st = .done then .ended (s1.caravan id).outcome else .waits)
  | _ => (s, .waits)

/-- CVCOMMIT at its boundary (R185). -/
def State.cvcommit (s : State) (d : Reg) : State :=
  match s.cvTurn s.cvId with
  | (s1, .ended outcome) => s1.cvReturn d outcome
  | (s1, .waits) => s1.park .caravan
  | (s1, .held) => s1

/-- CVCOMMIT (R185, R305). -/
def execCvcommit (d : BitVec 5) (st : State) : Ans :=
  .next (if st.cvMine then st.boundary (fun k => k.cvcommit d) else st.raise .caravan st.th.cvh)

/-- CVABORT (R186, R304). -/
def execCvabort (st : State) : Ans :=
  .next (if st.cvMine && (st.caravan st.cvId).st == .opened then st.boundary (fun k => (k.cvEnd k.cvId 1).retireBoundary)
    else st.raise .caravan st.th.cvh)

/-- The code of a record's state (R189). -/
def CvState.code : CvState → Nat | .free => 0 | .opened => 1 | .preparing => 2 | .publishing => 3 | .done => 4

/-- The state word of a record (R189). -/
def Caravan.word (c : Caravan) : W64 :=
  let unack := if c.st = .publishing ∨ (c.st = .done ∧ c.outcome = 0 ∧ c.answers ≠ []) then
    (c.dests.filter (fun p => !c.acked.contains p.1)).length else 0
  BitVec.ofNat 64 (c.st.code * 2 ^ 60 + unack % 512 * 2 ^ 45 + c.dests.length % 512 * 2 ^ 36 + (if c.skew then 16 else 0) +
    (if c.ovf then 8 else 0) + (if c.st = .done then c.outcome % 8 else 0))

/-- The item CVSTAT returns (R189); a record of the thread's current handle counts its open chunk. -/
def State.cvItem (s : State) (h : W64) (sel : W64) : W64 :=
  let id := fld h 15 0
  let cur := s.cvLive && id == s.cvId
  let c0 := s.caravan id
  let c := if cur then { c0 with charge := c0.charge + s.th.arch.cvCharge, ovf := c0.ovf || s.th.arch.cvOvf } else c0
  if 4 < sel.toNat then BitVec.allOnes 64
  else if !s.liveCv h then 0
  else match sel.toNat with
    | 0 => c.word
    | 1 => c.t
    | 2 => c.tlast
    | 3 => c.d
    | _ => BitVec.ofNat 64 c.charge

/-- CVSTAT (R189, R308). -/
def execCvstat (d : BitVec 5) (a : BitVec 5) (b : BitVec 5) (st : State) : Ans :=
  .next (st.sourceResult d (st.cvItem (if st.x a = 0 then st.th.cvh else st.x a) (st.x b)))

/-- GCHK's comparison (R195): exact, FTZ not applied. -/
def gchkPass (r g : Nat) : Bool :=
  (fF32.unpack r).isFin && (fF32.unpack g).isFin && !(fF32.cmpLt false g 0).1 && (fF32.cmpLe false (r % 2 ^ 31) g).1

/-- GCHK at its boundary (R195). -/
def State.gchk (s : State) (d a : Reg) : State :=
  if s.released.any (fun r => r.tid == s.th.tid && (match r.item with | .gstage _ => true | _ => false)) then s.park .guard
  else if gchkPass (fld (s.x a) 31 0) (fld s.gtol 31 0) then
    let lines := linesOf (s.th.item.staged.map (·.1))
    if !lines.isEmpty && (s.barred s.th.tid lines || s.cvFirst lines s.time.now.toNat (fun _ => false)) then s else
    let s1 := if s.th.item.staged.isEmpty then s else s.engineCommit s.th.item.staged
    let s2 := (s1.updMyGang (fun g => { g with passed := g.passed + 1 })).updTh (fun t =>
      { t with item := { t.item with checked := true, staged := [] }, arch := { t.arch with gCharge := 0 } })
    (s2.wakeTasks.setX d 0).retireBoundary
  else (s.failItem.setX d 1).retireBoundary

/-- GCHK (R195, R322). -/
def execGchk (d : BitVec 5) (a : BitVec 5) (st : State) : Ans :=
  .next (if st.inItem then st.boundary (fun k => k.gchk d a) else st.raise .caravan st.th.cvh)

end Sys2Proof.Machine
end

