-- ==== Sys2Proof/Machine/Moons.lean ====
section
/-! DEFINITION. Replication hints and queries (04: R80 to R82; 05: R94; R335, R336). -/
namespace Sys2Proof.Machine

/-- Check and translate the address of MOONHINT and MOONQRY as a one-byte load (R335): the page and the address. -/
def State.pageOf (s : State) (ea : W64) : State × Except Halt (TlbEntry × Nat) :=
  match segCheck s.th.seg ea 1 1 .load with
  | .error c => (s, .error (.trap c ea))
  | .ok (.inl _) => (s, .error (.trap .segrights ea))
  | .ok (.inr va) =>
    let core := s.th.core
    match s.translate (s.asidOf core) (s.rootOf core) (clusterOf (cellOf core)) va .load with
    | (s1, .error r) => (s1, .error (.fault (BitVec.ofNat 64 va) r .load))
    | (s1, .ok e) => (s1, .ok (e, va))

/-- The physical address a page gives: its frame and the offset in it. -/
def TlbEntry.phys (e : TlbEntry) (va : Nat) : Nat := leafFrame e.leaf + va % pageSize e.size
/-- The frame lies in MMIO or unpopulated space (R335). -/
def TlbEntry.offHbm (e : TlbEntry) (va : Nat) : Bool :=
  (leafLoc e.leaf == 0 || leafLoc e.leaf == 3) && decide (Config.hbmEnd ≤ e.phys va % 2 ^ 44)
/-- The key of the 2 MiB region, of this module or of another. -/
def TlbEntry.region (e : TlbEntry) (va : Nat) : Nat := e.phys va / 2097152

/-- A hint word's form (R80). -/
def hintForm (w : W64) : Nat := fld w 7 6

/-- The word is a legal hint. -/
def hintOk (w : W64) : Bool :=
  fld w 63 8 == 0 &&
  (if hintForm w = 0 then decide (fld w 5 3 ≤ 4) && decide (fld w 2 0 ≤ fld w 5 3) else fld w 5 0 == 0)

/-- Regions with a subscription pending or active. -/
def State.subCount (s : State) : Nat := (s.subs.filter (fun p => p.2 == 1 || p.2 == 2)).length

/-- MOONHINT's status (R80). SUBSCRIBE of a region whose subscription is pending or active is OK, also with a full table (assumption 74). -/
def State.hintStatus (s : State) (w : W64) (e : TlbEntry) (va : Nat) : Nat :=
  let r := e.region va
  let g := Map.get Region.reset s.regions r
  let sub := Map.get 0 s.subs r
  if !hintOk w then 1
  else if e.offHbm va then 3
  else match hintForm w with
    | 0 =>
      if leafLoc e.leaf ≠ 0 then 3
      else if clampNat (fld w 2 0) g.fwmin g.fwmax = fld w 2 0 ∧ clampNat (fld w 5 3) g.fwmin g.fwmax = fld w 5 3 then 0 else 2
    | 1 =>
      if leafLoc e.leaf ≠ 3 then 3
      else if !(sub == 1 || sub == 2) && decide (Config.subLimit ≤ s.subCount) then 4 else 0
    | 2 => if leafLoc e.leaf ≠ 3 then 3 else if sub == 1 || sub == 2 then 0 else 5
    | _ => if leafLoc e.leaf ≠ 0 then 3 else 0

/-- MOONHINT (R80, R335): the status at issue; the hint takes effect when the chunk commits. -/
def execMoonhint (d : BitVec 5) (a : BitVec 5) (b : BitVec 5) (st : State) : Ans :=
  .next (match st.pageOf (st.x a) with
    | (s1, .error h) => st.endWith s1 (.halt h)
    | (s1, .ok (e, va)) =>
      let w := st.x b
      let c := s1.hintStatus w e va
      let h : Hint := { region := e.region va, far := leafLoc e.leaf == 3, word := w }
      s1.plain (fun k => (if c = 0 ∨ c = 2 then k.updChunk (fun ch => { ch with hints := ch.hints ++ [h] }) else k).setX d
        (BitVec.ofNat 64 c)))

/-- The region word (R81): a far region has its subscription state alone. -/
def State.regionWord (s : State) (e : TlbEntry) (va : Nat) : W64 :=
  let r := e.region va
  if leafLoc e.leaf = 3 then BitVec.ofNat 64 (Map.get 0 s.subs r * 2 ^ 62)
  else
    let g := Map.get Region.reset s.regions r
    BitVec.ofNat 64 (g.fwmax * 2 ^ 12 + g.fwmin * 2 ^ 9 + g.dmax * 2 ^ 6 + g.dmin * 2 ^ 3 + g.deg)

/-- The page word from a page's record (R94). -/
def pageWordOf (r : PageRec) (now : Nat) (loc psz : Nat) (home : BitVec 16) : W64 :=
  BitVec.ofNat 64 ((if r.pin then 2 ^ 63 else 0) + loc * 2 ^ 58 + psz * 2 ^ 56 + Nat.min (r.recent now).length 4 * 2 ^ 48 + home.toNat * 2 ^ 32 +
    Nat.min r.migpin (2 ^ 32 - 1))

/-- The page word of an own page. -/
def State.pageWord (s : State) (e : TlbEntry) : W64 :=
  pageWordOf (Map.get PageRec.reset s.pages (frameKey e.leaf)) s.time.up (leafLoc e.leaf) e.size s.moduleId

/-- A counter of a region (R79). -/
def Region.counter (g : Region) (sel : Nat) : Nat :=
  if sel = 1 then g.hits else if sel = 2 then g.fills else if sel = 3 then g.collapses else g.changes

/-- MOONQRY (R81, R336). A far region's counters, which its home keeps, are free values of 48 bits here (assumption 5). Selector 5 alone asks a far
home, so that it alone meets FARERR for a frame of the home that is not HBM (01: R24; assumption 68). -/
def execMoonqry (d : BitVec 5) (a : BitVec 5) (b : BitVec 5) (st : State) : Ans :=
  .next (match st.pageOf (st.x a) with
    | (s1, .error h) => st.endWith s1 (.halt h)
    | (s1, .ok (e, va)) =>
      let sel := (st.x b).toNat
      let loc := leafLoc e.leaf
      if (e.offHbm va && !(sel == 5 && loc == 3)) || decide (5 < sel) then s1.sourceResult d (BitVec.allOnes 64)
      else if sel = 5 ∧ loc = 3 then
        let l : Loc := { home := some (BitVec.ofNat 16 (e.phys va / 2 ^ 44)), pa := e.phys va % 2 ^ 44 }
        if st.replaying then s1.sourceResult d 0
        else if st.th.replyBad then s1.raise .farerr (st.x a)
        else match s1.th.replies.find? (fun r => r.1 == l) with
          | some r => s1.sourceResult d (setFld (BitVec.ofNat 64 (leNat r.2)) 59 58 3)
          | none => s1.updTh (fun t => { t with st := .dataWait, pend := .pageWord l e.leaf e.size (s1.farClass (segO (segOf st.th.seg (st.x a))) (BitVec.ofNat 16 (e.phys va / 2 ^ 44))) d, waitAt := s1.time.up })
      else if sel = 5 then s1.sourceResult d (s1.pageWord e)
      else if loc = 1 ∨ loc = 2 then s1.sourceResult d 0
      else if sel = 0 then s1.sourceResult d (s1.regionWord e va)
      else if loc = 3 then State.sourceResult { s1 with free := s1.free + 1 } d (BitVec.ofNat 64 (fld (Config.freeWord s1.free) 47 0))
      else s1.sourceResult d (BitVec.ofNat 64 ((Map.get Region.reset s1.regions (e.region va)).counter sel)))

end Sys2Proof.Machine
end

