-- ==== Sys2Proof/Machine/LoadStore.lean ====
section
/-! DEFINITION. Scalar loads, stores and PREF (R326, R327, R341, R354, R355). -/
namespace Sys2Proof.Machine

/-- A scalar load of `n` bytes (R327): x[rd] := f of the loaded value; a load to x0 is performed and discarded. -/
def State.scalarLoad (s : State) (d a : Reg) (i : BitVec 15) (n : Nat) (f : Nat → W64) : Ans :=
  match s.load (s.ea a i) n n with
  | .stop s1 w => .next (s.endWith s1 w)
  | .ok s1 bs atB => .next ((s1.setX d (f (leNat bs))).finish atB)

/-- A scalar store of the low `n` bytes of x[rs2] (R354). -/
def State.scalarStore (s : State) (b a : Reg) (i : BitVec 15) (n : Nat) : Ans :=
  match s.store n [Elt.ofBytes (s.ea a i) (leBytes n (s.x b).toNat)] with
  | .stop s1 w => .next (s.endWith s1 w)
  | .ok s1 _ atB => .next (s1.finish atB)

/-- LB (R327): 1 byte, sign-extended. -/
def execLb (d : BitVec 5) (a : BitVec 5) (i : BitVec 15) (st : State) : Ans := st.scalarLoad d a i 1 (fun v => sext64 v 8)

/-- LBU (R327): 1 byte, zero-extended. -/
def execLbu (d : BitVec 5) (a : BitVec 5) (i : BitVec 15) (st : State) : Ans := st.scalarLoad d a i 1 (fun v => BitVec.ofNat 64 v)

/-- LH (R327): 2 bytes, sign-extended. -/
def execLh (d : BitVec 5) (a : BitVec 5) (i : BitVec 15) (st : State) : Ans := st.scalarLoad d a i 2 (fun v => sext64 v 16)

/-- LHU (R327): 2 bytes, zero-extended. -/
def execLhu (d : BitVec 5) (a : BitVec 5) (i : BitVec 15) (st : State) : Ans := st.scalarLoad d a i 2 (fun v => BitVec.ofNat 64 v)

/-- LW (R327): 4 bytes, sign-extended. -/
def execLw (d : BitVec 5) (a : BitVec 5) (i : BitVec 15) (st : State) : Ans := st.scalarLoad d a i 4 (fun v => sext64 v 32)

/-- LWU (R327): 4 bytes, zero-extended. -/
def execLwu (d : BitVec 5) (a : BitVec 5) (i : BitVec 15) (st : State) : Ans := st.scalarLoad d a i 4 (fun v => BitVec.ofNat 64 v)

/-- LD (R327): 8 bytes, whole. -/
def execLd (d : BitVec 5) (a : BitVec 5) (i : BitVec 15) (st : State) : Ans := st.scalarLoad d a i 8 (fun v => BitVec.ofNat 64 v)

/-- SB (R354): the low 1 byte of x[rs2]. -/
def execSb (b : BitVec 5) (a : BitVec 5) (i : BitVec 15) (st : State) : Ans := st.scalarStore b a i 1

/-- SH (R354): the low 2 bytes of x[rs2]. -/
def execSh (b : BitVec 5) (a : BitVec 5) (i : BitVec 15) (st : State) : Ans := st.scalarStore b a i 2

/-- SW (R354): the low 4 bytes of x[rs2]. -/
def execSw (b : BitVec 5) (a : BitVec 5) (i : BitVec 15) (st : State) : Ans := st.scalarStore b a i 4

/-- SD (R354): the low 8 bytes of x[rs2]. -/
def execSd (b : BitVec 5) (a : BitVec 5) (i : BitVec 15) (st : State) : Ans := st.scalarStore b a i 8

/-- What PREF does (R341): where every check passes, fill the line; a walk that would fault is abandoned. -/
def State.prefetch (s : State) (ea : W64) : State :=
  match segCheck s.th.seg ea 1 1 .load with
  | .ok (.inr va) =>
    let core := s.th.core
    match s.mapVa (segOf s.th.seg ea) va 1 .load with
    | (s1, .ok p) =>
      (match p with
       | .inner key _ via _ =>
         if s1.locked [lineOf key] || s1.poisoned.contains (lineOf key) || !(isHostKey key || s1.permits (s1.coreInit core) key false) then s1
         else if s1.present via.stash via.tag (lineOf key) then s1.touch [lineOf key]
         else if !via.stash && (s1.core core).dcache.any (fun h => h.line == lineOf key) then s1.fillLine false (lineOf key) via.tag
         else ((s1.serveRead (dieOf s1.myCell) (lineOf key)).1).fillLine via.stash (lineOf key) via.tag
       | _ => s1)
    | _ => s
  | _ => s

/-- PREF (R341): a hint; it counts towards the chunk's instruction limit and enters no signature. -/
def execPref (a : BitVec 5) (i : BitVec 15) (st : State) : Ans :=
  .next (st.plain (fun s => s.prefetch (s.ea a i)))

end Sys2Proof.Machine
end

