-- ==== Sys2Proof/Machine/ThreadEvents.lean ====
section
/-! DEFINITION. Replies, spills and context swaps (02: R28 to R33; 03: R55; 04: R67, R74, R77; 12: R216). -/
namespace Sys2Proof.Machine

/-! ## Replies (R28, R55) -/

/-- Fill one line that the issuing context waits for. A physical line that the data cache holds under another virtual tag is retagged, and
nothing is read (R67). -/
def State.fillOne (s : State) (line tag : Nat) (stash : Bool) : State :=
  let die := dieOf s.myCell
  let s2 :=
    if !stash && (s.core s.th.core).dcache.any (fun h => h.line == line) then s
    else
      let p := s.serveRead die line
      let s1 := if p.2 ≠ die then p.1.addDelay s.th.core p.2 else p.1
      if !isHostKey (64 * line) && p.2 != s.homeDie (64 * line) then s1.perf s.th.core 0x11 1 else s1
  (s2.fillLine stash line tag).updTh (fun t => { t with got := t.got ++ [line] })

/-- Fill lines in turn, under their virtual tags. -/
def State.fillAll (s : State) (stash : Bool) : List Nat → List Nat → State
  | [], _ => s
  | l :: ls, tags => (s.fillOne l (tags.headD 0) stash).fillAll stash ls (tags.drop 1)

/-- A context's wait for data ends. -/
def Thread.dataCame (t : Thread) : Thread := { t with st := .runnable, pend := .none }

/-- DATA_REPLY (R28, R55): the lines of a miss or of an access that fills no cache, unless one is locked, which a host gives up (12: R221), the
bytes of a host, or those of a far moon of this module (R59). A commit waits for the priority token (R44). The firewall's denial is an error
response (13: R226); uncorrectable data is met when the instruction issues again. -/
def execDataReply (tid : Nat) (st : State) : Ans :=
  .next (match st.findTid tid with
    | some t =>
      if t.st ≠ .dataWait then st
      else match t.pend with
        | .lines ls tags stash =>
          let core := st.coreInit t.core
          let s0 := st.unhold ls
          if st.locked ls then st
          else if ls.any (fun l => !isHostKey (64 * l) && !st.permits core (64 * l) false) then
            (ls.foldl (fun k l => k.logAddr (64 * l)) s0).replyFail tid false
          else s0.onThread tid (fun k => (if ls.any (fun l => k.poisoned.contains l) then k else k.fillAll stash ls tags).updTh Thread.dataCame)
        | .direct ls =>
          if st.locked ls || st.tokenBars tid then st
          else (st.unhold ls).updTid tid (fun u => { u.dataCame with got := u.got ++ ls })
        | .turn => if st.turnOf t then st.updTid tid Thread.dataCame else st
        | .outer l n _ =>
          if l.home.isNone then st.replyTo tid l (st.bytesAt l.pa n)
          else (match l.home, st.farMoonBytes l n with
            | some h, some bs =>
              -- a far moon on another die answers with its delay (12: R216; 14: R254)
              let die := farMoonDie (farLineKey h l.pa)
              let s1 := st.perf t.core 0x11 1
              (if die = dieOf (cellOf t.core) then s1 else s1.addDelay t.core die).replyTo tid l bs
            | _, _ => st)
        | _ => st
    | none => st)

/-- SPILL_FILL_COMPLETE (R33): the frame is written to or read from the spill area and the thread issues again; a place
that fails a check now, or whose home has turned the frame away, is met there; while routing holds the transfer, the thread waits (12: R214). -/
def execSpillFillComplete (tid : Nat) (st : State) : Ans :=
  .next (match st.findTid tid with
    | some t =>
      if t.st ≠ .spillWait then st
      else
        let run := fun (acc : Access) (f : Nat) (p : State × Bool) =>
          (if p.2 then p.1.perf t.core 0x13 1 else p.1.updTh (fun u => { u with replyBad := u.replyBad || p.1.frameDenied f acc })).updTh Thread.dataCame
        match t.pend with
        | .spill f => st.asFront tid (fun q => q.onThread tid (fun k => run .store f (k.spillFrame f)))
        | .fill f => st.asFront tid (fun q => q.onThread tid (fun k => run .load f (k.fillFrame f)))
        | _ => st
    | none => st)

/-! ## Context swaps (R31) -/

/-- The first runnable context of a core's run queue. -/
def firstQueued (core : Nat) (ts : List Thread) : Option Thread :=
  (ts.filter (fun t => t.core == core && t.slot.isNone && t.st == .runnable)).foldl
    (fun best t => match best with | none => some t | some b => if t.qpos < b.qpos then some t else some b) none

/-- Load a queued context into a slot. -/
def State.loadSlot (s : State) (tid slot : Nat) : State := s.updTid tid (fun t => { t with slot := some slot })

/-- CONTEXT_SWAP (R31): the slot's parked or faulted thread goes to the tail of the run queue and the first runnable
context takes the slot; a slot whose thread has exited is taken at once. None happens on a halted core (14: R244). -/
def execContextSwap (core slot : Nat) (st : State) : Ans :=
  .next (if (st.core core).dbg.halt || decide (16 ≤ slot) || decide (4096 ≤ core) then st
    else match firstQueued core st.allThreads with
      | none => st
      | some q =>
        match st.slotTid core slot with
        | none => (st.loadSlot q.tid slot).perf core 0x14 1
        | some t =>
          if (t.st = .parked ∨ t.st = .faultWait) ∧ t.swapBarred = false then
            st.asFront t.tid (fun k =>
              let s1 := k.onThread t.tid State.toQueue
              if s1.allThreads.any (fun u => u.tid == t.tid && u.slot.isSome) then s1
              else (s1.loadSlot q.tid slot).perf core 0x14 1)
          else st)

end Sys2Proof.Machine
end

