-- ==== Sys2Proof/Machine/EffectEvents.lean ====
section
/-! DEFINITION. Released effects performed at their homes, and the answers of far homes (03: R52, R55 to R58; 05: R99;
07: R127, R343 to R345; 09: R168, R171, R174; 11: R200). -/
namespace Sys2Proof.Machine

/-- Act on a released effect whose turn has come: it waits, and nothing before it holds it back (R52). -/
def State.onRel (s : State) (n : Nat) (f : Released → State) : State :=
  match s.released[n]? with
  | some r => if r.stage = .waiting ∧ s.heldBack n = false then f r else s
  | none => s

/-! ## Cell semaphores and rings -/

/-- Add to a cell semaphore (R171): the sum saturates at 65,535, waiters are served in order. The second part says
whether it saturated. -/
def State.signal (s : State) (cell n count : Nat) : State × Bool :=
  let sum := Map.get 0 (s.cell cell).sems n + count
  ((s.updCell cell (fun c => { c with sems := Map.set 0 c.sems n (Nat.min sum 65535) })).semServe cell n, decide (65535 < sum))

/-- SEMSIG_PERFORM (R171, R358). -/
def execSemsigPerform (n : Nat) (st : State) : Ans :=
  .next (st.onRel n (fun r =>
    match r.item with
    | .semSig cell k count =>
      let p := st.signal cell k count
      if p.2 then p.1.failRel n 5 else p.1.clearRel n
    | _ => st))

/-- Threads of a cell parked on a ring issue again: its producer has published (R128). -/
def State.wakeRing (s : State) (cell q : Nat) : State :=
  s.wakeIf (fun t => t.st == .parked && cellOf t.core == cell && t.wait == .ring q) false

/-- A free entry stands at the tail (R127). -/
def Ring.hasRoom (r : Ring) : Bool := decide (r.t - r.h < r.depth)

/-- Publish entry T of a ring (R127, R129). -/
def State.publish (s : State) (cell q : Nat) : State := (s.updRing cell q (fun r => { r with t := r.t + 1 })).wakeRing cell q

/-- RADV_PERFORM (R343): waits for a free entry; on an unconfigured ring it publishes nothing and fails. -/
def execRadvPerform (n : Nat) (st : State) : Ans :=
  .next (st.onRel n (fun r =>
    match r.item with
    | .radv cell q =>
      let ring := st.ringOf cell q
      if !ring.on then st.failRel n 2
      else if ring.hasRoom then (st.publish cell q).clearRel n
      else st
    | _ => st))

/-- The command names the ring (R128). -/
def MatOp.names (m : MatOp) (q : Nat) : Bool :=
  match m with
  | .mma _ qa qb _ _ _ _ _ _ _ _ => qa == q || qb == q
  | .mzero _ => false
  | .mdrain _ mode addr _ _ _ _ _ _ => mode == 1 && addr.toNat == q

/-- RCFG_PERFORM (R344): after the thread's earlier engine commands have been accepted, and the commands that can reach the ring and had been
accepted when the RCFG came have finished (R128). Chunks that hold the cursor line are squashed: the cursor is written (R39). -/
def execRcfgPerform (n : Nat) (st : State) : Ans :=
  .next (st.onRel n (fun r =>
    match r.item with
    | .rcfg cell q w upto =>
      let unaccepted := (st.released.take n).any (fun p => p.tid == r.tid && (match p.item with | .matrix _ _ => true | .copy _ _ => true | _ => false))
      let c := st.cell cell
      let k := upto.getD (c.matDone + c.matq.length, c.copyDone + c.copyq.length)
      let busy := (c.matq.take (k.1 - c.matDone)).any (fun m => m.op.names q) || decide (c.copyDone < k.2)
      if unaccepted then st
      else if busy || st.barred r.tid [lineOf (ringLine cell q)] then { st with released := setAt st.released n { r with item := .rcfg cell q w (some k) } }
      else
        let line := lineOf (ringLine cell q)
        let s1 := st.squashHits (Sig.enterAll 0 [ringLine cell q]) [line] none
        (s1.updRing cell q (fun g => { word := w, t := 0, h := 0, c := 0, freed := [], epoch := g.epoch + 1 })).clearRel n
    | _ => st))

/-- One of the first `k` accepted commands of a cell reads the entry (R345). -/
def Cell.entryRead (c : Cell) (q entry k : Nat) : Bool :=
  (c.matq.take k).any (fun m => match m.op with
    | .mma _ qa qb ea eb _ _ _ _ _ _ => (qa == q && ea == entry) || (qb == q && eb == entry)
    | _ => false)

/-- Advance H over the entries to be freed, in order; at most `fuel` of them (R345). -/
def Ring.advanceHead (reads : Nat → Nat → Bool) (r : Ring) : Nat → Ring
  | 0 => r
  | fuel + 1 =>
    match r.freed.find? (fun p => p.1 == r.h) with
    | some (e, k) =>
      if reads e k then r else Ring.advanceHead reads { r with h := r.h + 1, freed := r.freed.filter (fun p => p.1 != e) } fuel
    | none => r

/-- Free what a ring of a cell can free. -/
def Cell.settleRing (c : Cell) (q : Nat) (r : Ring) : Ring := Ring.advanceHead (c.entryRead q) r r.freed.length

/-- An entry is to be freed once the first `k` accepted commands that read it have finished, and in order. -/
def State.freeEntry (s : State) (cell q entry k : Nat) : State :=
  s.updRing cell q (fun r => (s.cell cell).settleRing q { r with freed := r.freed ++ [(entry, k)] })

/-- RPOP_FREE (R345): a released RPOP is performed; its entry is freed, now or as soon as every earlier claim has been
freed and the commands accepted by now that read it have finished. Nothing when the ring has been configured since. -/
def execRpopFree (n : Nat) (st : State) : Ans :=
  .next (st.onRel n (fun r =>
    match r.item with
    | .rpop cell q entry epoch =>
      let ring := st.ringOf cell q
      if ring.epoch ≠ epoch ∨ ring.on = false then st.clearRel n
      else (st.freeEntry cell q entry (st.cell cell).matq.length).clearRel n
    | _ => st))

/-- RING_AREA_STORE (R52, R63). -/
def execRingAreaStore (n : Nat) (st : State) : Ans :=
  .next (st.onRel n (fun r =>
    match r.item with
    | .ringStore cell cells =>
      (st.updCell cell (fun c => { c with ringMem := Memory.writeMasked c.ringMem cells })).clearRel n
    | _ => st))

/-! ## Signals, comets, triggers -/

/-- The firewall's class of the thread that released an effect; CKPT's are the service column's (13: R226, R228). -/
def State.initOf (s : State) (tid : Nat) : Initiator :=
  if ckptTid ≤ tid then .serviceColumn
  else match s.findTid tid with | some t => s.coreInit t.core | none => .userCore

/-- A timeline signal at its home (R174): the state after it, or none where the word is final. -/
def State.timelineAt (s : State) (l : Loc) (v : W64) : Option State :=
  let old := leNat (s.homeBytes l 8)
  if old = 2 ^ 64 - 1 then none
  else if old < v.toNat then some (s.homePut l (mcellsAt l.pa (leBytes 8 v.toNat)))
  else some s

/-- TSEMSIG_PERFORM (R174): at a word of this module. -/
def execTsemsigPerform (n : Nat) (st : State) : Ans :=
  .next (st.onRel n (fun r =>
    match r.item with
    | .tsemSig l v _ _ =>
      if l.home.isSome || st.barred r.tid (linesAt l.pa 8) then st
      else match st.homeFail l (st.initOf r.tid) with
        | some c => (st.logHome l (st.initOf r.tid)).failRel n c
        | none =>
          if st.poisonedAt l 8 then st.failRel n 4
          else match st.timelineAt l v with
            | none => st.failRel n 7
            | some s1 => s1.clearRel n
    | _ => st))

/-- COMET_PERFORM (R297): an unordered comet at a line of this module. -/
def execCometPerform (n : Nat) (st : State) : Ans :=
  .next (st.onRel n (fun r =>
    match r.item with
    | .comet l op k src _ _ =>
      if l.home.isSome || op == .faddO || st.barred r.tid (linesAt l.pa k) then st
      else match st.homeFail l (st.initOf r.tid) with
        | some c => (st.logHome l (st.initOf r.tid)).failRel n c
        | none =>
          if st.poisonedAt l k then st.failRel n 4
          else (st.rmwAt l k (rmwNew (some op) k src 0)).1.clearRel n
    | _ => st))

/-- Threads in WAITDEP whose producers have all triggered or completed run on (R168). -/
def State.wakeDeps (s : State) : State :=
  s.wakeIf (fun t => t.st == .parked && t.wait == .producers &&
    (match t.gang.bind s.findGang with | some g => g.launch.deps.all Dep.done | none => true)) true

/-- Change what a launch keeps of one producer. -/
def Launch.updDep (l : Launch) (inst : Nat) (f : Dep → Dep) : Launch :=
  { l with deps := l.deps.map (fun d => if d.inst = inst then f d else d) }

/-- Tell every dependant of a launch what has become of it, and wake those that waited for it (R168). -/
def State.tellDeps (s : State) (inst : Nat) (f : Dep → Dep) : State :=
  State.wakeDeps { s with
    gangs := s.gangs.map (fun (g : Gang) => { g with launch := g.launch.updDep inst f })
    waiting := s.waiting.map (fun (w : Waiting) => { w with launch := w.launch.updDep inst f }) }

/-- A launch's completion entry has been written: it counts as completed, among the last 4,096 (R161). -/
def State.launchEnded (s : State) (c : Completed) : State :=
  let all := s.completed ++ [c]
  State.tellDeps { s.logTx with completed := all.drop (all.length - 4096) } c.inst (fun d => { d with triggered := c.triggered, code := some c.code })

/-- TRIGGER_RECORD (R168, R368): of the very launch that executed it, while that is live. -/
def execTriggerRecord (n : Nat) (st : State) : Ans :=
  .next (st.onRel n (fun r =>
    match r.item with
    | .trigger g inst =>
      (match st.findGang g with
       | some k =>
         if k.launch.inst = inst then
           ((st.logTx.updGang g (fun k => { k with triggered := true })).tellDeps inst (fun d => { d with triggered := true })).clearRel n
         else st.clearRel n
       | none => st.clearRel n)
    | _ => st))

/-! ## Far homes -/

/-- Earlier class-O effects of a thread to a module are still to be performed: a load or atomic in class O travels behind
them (R57). -/
def State.behindO (s : State) (tid : Nat) (home : BitVec 16) (cls : FabClass) : Bool :=
  cls != .a && s.released.any (fun r => r.tid == tid && r.stage != .performed && r.item.target == some (8, home.toNat, 0))

/-- The page word a far home answers with (05: R94): HOME is its own, PSZ and PIN those of this module's mapping, since a page has one size and PIN
stands in every mapping of it (R93). MOVES and MIGPIN are those of this module's record of the page where it has one, which the home's agrees with,
and otherwise free values within the fields' limits (assumption 5). -/
def State.farPageWord (s : State) (home : BitVec 16) (leaf : W64) (size : Nat) : W64 :=
  let v := Config.freeWord s.free
  let counts := match s.pages.find? (fun p => p.1 == frameKey leaf) with
    | some p => Nat.min (p.2.recent s.time.up).length 4 * 2 ^ 48 + Nat.min p.2.migpin (2 ^ 32 - 1)
    | none => fld v 50 48 % 5 * 2 ^ 48 + fld v 31 0
  BitVec.ofNat 64 ((if bit leaf 10 then 2 ^ 63 else 0) + size * 2 ^ 56 + home.toNat * 2 ^ 32 + counts)

/-- Why a far transfer of a class is not performed (R214). -/
def State.farFail (s : State) (l : Loc) (cls : FabClass) : Option Nat := s.homeFail l .wounoLink cls

/-- A far home refuses the access of a waiting context: an error response, whose address a denial logs (13: R226), and which comes with its
delay; a home that is not reached answers nothing (12: R214, R216). -/
def State.farRefused (s : State) (tid : Nat) (l : Loc) (code : Nat) : State :=
  (if code = 1 then s else (s.logHome l .wounoLink).farDelay tid).replyFail tid false

/-- FAR_LOAD_SERVICE (R55, R62): the home answers the load of a context from its committed state, or with an error; a line with a far moon is
served from that (04: R83). -/
def execFarLoadService (n : Nat) (st : State) : Ans :=
  .next (match st.findTid n with
    | none => st
    | some t =>
      if t.st ≠ .dataWait then st
      else match t.pend with
        | .outer ⟨some home, pa⟩ k cls =>
          let l : Loc := { home := some home, pa := pa }
          if (st.farMoonBytes l k).isSome || st.behindO n home cls || st.routeHeld home cls || (home == st.moduleId && st.locked (linesAt pa k)) then st
          else match st.farFail l cls with
            | some c => st.farRefused n l c
            | none =>
              if st.poisonedAt l k then (st.farDelay n).replyFail n true
              else ((st.replyTo n l (st.homeBytes l k)).installMoon home pa).replyDelay t.core l cls
        | .pageWord ⟨some home, pa⟩ leaf size cls _ =>
          let l : Loc := { home := some home, pa := pa }
          if st.routeHeld home cls || st.behindO n home cls then st
          else match st.farFail l cls with
          | some c => st.farRefused n l c
          | none =>
            let w := st.farPageWord home leaf size
            (State.replyTo { st with free := st.free + 1 } n l (leBytes 8 w.toNat)).replyDelay t.core l cls
        | _ => st)

/-- A transfer may be sent: routing does not hold it (12: R214), and for class S a slot of its destination is open, or no
valid entry names it, so that it travels in class O (11: R210; 12: R217). -/
def State.maySend (s : State) (home : BitVec 16) (cls : FabClass) : Bool :=
  let entries := s.fabric.slots.filter (fun p => p.2.valid && p.2.dest == home)
  !s.routeHeld home cls && (cls != .s || entries.isEmpty || entries.any (fun p => p.2.openAt s.time.now))

/-- Act on an effect handed to the fabric whose turn at its home has come. -/
def State.onFar (s : State) (n : Nat) (f : Released → State) : State :=
  match s.released[n]? with
  | some r => if r.stage = .handed ∧ s.heldBack n = false then f r else s
  | none => s

/-- The commit of a thread's effect at a far place of this module waits for a commit in progress. -/
def State.farLocked (s : State) (tid : Nat) (home : BitVec 16) (pas : List Nat) : Bool := home == s.moduleId && s.barred tid (linesOf pas)

/-- A far effect fails at its home with a code, which a denial's address is logged for (13: R226); its answer brings its delay (12: R216). -/
def State.farFailed (s : State) (n : Nat) (r : Released) (l : Loc) (code : Nat) : State :=
  ((s.logHome l .wounoLink).failRel n code).ackDelay r (if code = 1 then none else r.item.farTo)

/-- FAR_STORE_ARRIVAL (R51, R56, R62): a far store, unordered far comet or far signal is performed at its home as one
engine commit. -/
def execFarStoreArrival (n : Nat) (st : State) : Ans :=
  .next (st.onFar n (fun r =>
    match r.item with
    | .farStore home cells cls _ =>
      let l : Loc := { home := some home, pa := (cells.headD (0, 0, 0)).1 }
      if !st.maySend home cls || st.farLocked r.tid home (cells.map (·.1)) then st
      else match st.farFail l cls with
        | some c => st.farFailed n r l c
        | none => (st.homePut l cells).stageRel n .performed
    | .comet ⟨some home, pa⟩ op k src cls _ =>
      let l : Loc := { home := some home, pa := pa }
      if op == .faddO || !st.maySend home cls || st.farLocked r.tid home (countFrom pa k) then st
      else match st.farFail l cls with
        | some c => st.farFailed n r l c
        | none =>
          if st.poisonedAt l k then st.farFailed n r l 4
          else (st.rmwAt l k (rmwNew (some op) k src 0)).1.stageRel n .performed
    | .tsemSig ⟨some home, pa⟩ v cls _ =>
      let l : Loc := { home := some home, pa := pa }
      if !st.maySend home cls || st.farLocked r.tid home (countFrom pa 8) then st
      else match st.farFail l cls with
        | some c => st.farFailed n r l c
        | none =>
          if st.poisonedAt l 8 then st.farFailed n r l 4
          else match st.timelineAt l v with
            | none => st.farFailed n r l 7
            | some s1 => s1.stageRel n .performed
    | _ => st))

/-- FAR_STORE_ACK (R56): the acknowledgement of a performed far effect reaches its source, with its delay for the issuing core (12: R215,
R216). -/
def execFarStoreAck (n : Nat) (st : State) : Ans :=
  .next (match st.released[n]? with
    | some r =>
      if r.stage = .performed ∧ r.item.travelsFar = true then (st.clearRel n).ackDelay r r.item.farTo else st
    | none => st)

/-- The ordered contribution of an atomic on its way or in a key register. -/
def State.amoUnderWay (s : State) (tid : Nat) : Bool :=
  (s.released ++ s.buffered).any (fun r => r.tid == tid && (match r.item with | .amo _ _ _ _ _ => true | _ => false))

/-- AMOFADD.O of a context at its far home (R200): applied or buffered there, or refused and held at this module's port. -/
def State.farOrdered (s : State) (t : Thread) (l : Loc) (n : Nat) (src : W64) (cls : FabClass) : State :=
  let size := match t.gang.bind s.findGang with | some g => g.size | none => 1
  let r : Released := { item := .amo l n src cls 0, tid := t.tid, gang := t.gang.getD 0, rank := t.rank, gangSize := size, stage := .handed, sentAt := s.time.up }
  let p := s.contribute r
  if p.2 then p.1 else { p.1 with released := p.1.released ++ [{ r with stage := .refused }] }

/-- FAR_AMO_SERVICE (R58): the far atomic of a context, one engine commit at its home, whose reply completes it; AMOFADD.O under R200, AMOKEY
under R201. -/
def execFarAmoService (n : Nat) (st : State) : Ans :=
  .next (match st.findTid n with
    | none => st
    | some t =>
      if t.st ≠ .dataWait then st
      else match t.pend with
        | .rmw ⟨some home, pa⟩ op k src cmp cls _ =>
          let l : Loc := { home := some home, pa := pa }
          if st.behindO n home cls || st.routeHeld home cls || st.farLocked n home (countFrom pa k) || st.amoUnderWay n then st
          else match st.farFail l cls with
            | some c => st.farRefused n l c
            | none =>
              if st.poisonedAt l k then (st.farDelay n).replyFail n true
              else if op = some .faddO then st.farOrdered t l k src cls
              else
                let p := st.rmwAt l k (rmwNew op k src cmp)
                p.1.finishRmw n p.2
        | .key ⟨some home, pa⟩ w cls d =>
          let l : Loc := { home := some home, pa := pa / 64 * 64 }
          if st.behindO n home cls || st.routeHeld home cls || st.farLocked n home [pa] then st
          else match st.farFail l cls with
            | some c => st.farRefused n l c
            | none =>
              let p := st.amokeyAt (st.here l) w
              (p.1.onThread n (fun k => (k.setX d p.2).retireBoundary)).replyDelay t.core l cls
        | _ => st)

/-! ## Host stores and failures -/

/-- HOST_STORE_ACK (R56): a flushing read behind them completes, so the host stores handed to the port are performed, in
release order, and acknowledged. -/
def execHostStoreAck (port : Nat) (st : State) : Ans :=
  .next (
    let mine := fun (r : Released) => r.stage == .handed && (match r.item with | .hostStore p _ _ => p == port | _ => false)
    let cells := ((st.released.filter mine).map (fun r => match r.item with | .hostStore p cs _ => cs.map (fun c => (hostKey p c.1, c.2)) | _ => [])).flatten
    let s1 := st.putCells cells
    State.settle { s1 with released := s1.released.filter (fun r => !mine r) })

/-- The first released effect of a thread with an error source and address. -/
def relOf (tid src : Nat) (addr : W64) : List Released → Nat → Option Nat
  | [], _ => none
  | r :: rs, n => if r.tid = tid ∧ r.item.errSource = (src, addr) then some n else relOf tid src addr rs (n + 1)

/-- ASYNC_ERROR (R99): the outside reports the failure of a released effect with a code: it fails so, and is gone. -/
def execAsyncError (tid : Nat) (src : BitVec 8) (code : BitVec 8) (addr : W64) (st : State) : Ans :=
  .next (match relOf tid src.toNat addr st.released 0 with
    | some n => st.failRel n code.toNat
    | none => st)

/-! ## Ordered contributions (11: R200) -/

/-- A contribution may go to its home: no earlier effect holds it back, and its class lets it be sent (03: R56; R200, R210; 12: R214). -/
def State.mayOffer (s : State) (n : Nat) (r : Released) : Bool :=
  r.item.ordered && !s.heldBack n &&
  (match r.item.farTo with | some h => s.maySend h.1 h.2 | none => true) &&
  (match s.contribLoc r.item with | some l => l.home.isSome || !s.barred r.tid [lineOf l.pa] | none => false)

/-- Offer an ordered contribution to its home: applied or buffered, or refused and held at its source; a denied one fails and is logged (13:
R226). -/
def State.offer (s : State) (n : Nat) (r : Released) : State :=
  match s.contribLoc r.item with
  | none => s
  | some l =>
    let i := if l.home.isNone then s.initOf r.tid else .wounoLink
    match s.homeFail l i ((r.item.farTo.map (·.2)).getD .a) with
    | some c => (match r.item with
      | .amo _ _ _ _ _ => (((s.logHome l i).clearRel n).farDelay r.tid).replyFail r.tid false
      | _ => ((s.logHome l i).failRel n c).ackDelay r (match r.item with | .comet _ _ _ _ _ _ => if c = 1 then none else r.item.farTo | _ => none))
    | none =>
      let p := s.contribute r
      if p.2 then p.1.clearRel n else p.1.stageRel n .refused

/-- ORDERED_CONTRIBUTION (R200): a released contribution reaches its home. -/
def execOrderedContribution (n : Nat) (st : State) : Ans :=
  .next (match st.released[n]? with
    | some r => if (r.stage = .waiting ∨ r.stage = .handed) ∧ st.mayOffer n r = true then st.offer n r else st
    | none => st)

/-- CONTRIBUTION_RETRY (R200): a refused contribution is sent again, as it may be sent the first time. -/
def execContributionRetry (n : Nat) (st : State) : Ans :=
  .next (match st.released[n]? with
    | some r => if r.stage = .refused ∧ st.mayOffer n r = true then st.offer n r else st
    | none => st)

end Sys2Proof.Machine
end

