-- ==== Sys2Proof/Machine/Csr.lean ====
section
/-! DEFINITION. CSR instructions (R273, R301, R302). -/
namespace Sys2Proof.Machine

/-- The word's own checks and the thread's right to the CSR (R301): the number is assigned, a supervisor CSR is out of
reach of a gang's thread, NORD has a zero rd, and a write reaches a writable CSR. -/
def State.csrAllowed (s : State) (d : Reg) (c : BitVec 12) (n : BitVec 1) (wr : Bool) : Bool :=
  csrFormOk d n c && !(csrSupervisor c && s.user) && (!wr || csrWritable c.toNat)

/-- rd := the old value unless NORD is set. -/
def State.csrOld (s : State) (d : Reg) (n : BitVec 1) (old : W64) : State := if n = 1#1 then s else s.setX d old

/-- A CSR write by the issuing thread (R301). The cutting ones act at the boundary; a write of REPCNT takes effect on the
next instruction (R36; assumption 19). -/
def State.csrUpdate (s : State) (d : Reg) (c : BitVec 12) (n : BitVec 1) (new : W64 → W64) : State :=
  if csrCutting c.toNat then
    s.boundary (fun k => ((k.csrWrite c.toNat (new (k.csrRead c.toNat))).csrOld d n (k.csrRead c.toNat)).retireBoundary)
  else
    let old := s.csrRead c.toNat
    if c.toNat = 0x060 ∧ s.th.inBody = false then
      ((s.openChunk.csrOld d n old).retire).csrWrite c.toNat (new old)
    else s.plain (fun k => (k.csrWrite c.toNat (new old)).csrOld d n old)

/-- A CSR instruction that writes: the value from the old one, and for ASYNCERR's W1C bits the word applied. -/
def State.csrOp (s : State) (i : Instr) (d : Reg) (c : BitVec 12) (n : BitVec 1) (new : W64 → W64) (applied : W64) : State :=
  if s.csrAllowed d c n true then s.csrUpdate d c n (if c.toNat = 0x024 then fun _ => applied else new)
  else s.illegalOf i

/-- The RO form: no write (R273). -/
def State.csrReadOnly (s : State) (i : Instr) (d : Reg) (c : BitVec 12) (n : BitVec 1) : State :=
  if s.csrAllowed d c n false then s.setResult d (s.csrRead c.toNat) else s.illegalOf i

/-- The immediate of CSRRWI, CSRRSI and CSRRCI. -/
def uimm (u : BitVec 5) : W64 := u.setWidth 64

/-- CSRRW (R301): the source replaces the CSR. -/
def execCsrrw (d : BitVec 5) (a : BitVec 5) (n : BitVec 1) (c : BitVec 12) (st : State) : Ans :=
  .next (st.csrOp (.csrrw d a n c) d c n (fun _ => st.x a) (st.x a))
/-- CSRRS (R301): old OR source; the RO form only reads. -/
def execCsrrs (d : BitVec 5) (a : BitVec 5) (n : BitVec 1) (o : BitVec 1) (c : BitVec 12) (st : State) : Ans :=
  .next (if o = 1#1 then
      (if a = 0#5 ∧ n = 0#1 then st.csrReadOnly (.csrrs d a n o c) d c n else st.illegalOf (.csrrs d a n o c))
    else st.csrOp (.csrrs d a n o c) d c n (fun old => old ||| st.x a) (st.x a))
/-- CSRRC (R301): old AND NOT source. -/
def execCsrrc (d : BitVec 5) (a : BitVec 5) (n : BitVec 1) (c : BitVec 12) (st : State) : Ans :=
  .next (st.csrOp (.csrrc d a n c) d c n (fun old => old &&& ~~~(st.x a)) 0)
/-- CSRRWI (R301). -/
def execCsrrwi (d : BitVec 5) (u : BitVec 5) (n : BitVec 1) (c : BitVec 12) (st : State) : Ans :=
  .next (st.csrOp (.csrrwi d u n c) d c n (fun _ => uimm u) (uimm u))
/-- CSRRSI (R301). -/
def execCsrrsi (d : BitVec 5) (u : BitVec 5) (n : BitVec 1) (c : BitVec 12) (st : State) : Ans :=
  .next (st.csrOp (.csrrsi d u n c) d c n (fun old => old ||| uimm u) (uimm u))
/-- CSRRCI (R301). -/
def execCsrrci (d : BitVec 5) (u : BitVec 5) (n : BitVec 1) (c : BitVec 12) (st : State) : Ans :=
  .next (st.csrOp (.csrrci d u n c) d c n (fun old => old &&& ~~~(uimm u)) 0)

end Sys2Proof.Machine
end

