-- ==== Sys2Proof/Machine/MemEvents.lean ====
section
/-! DEFINITION. Sharing windows, far subscriptions, host snoops and host accesses to device memory (04: R78, R82, R83; 12:
R218, R220 to R222). -/
namespace Sys2Proof.Machine

/-! ## Moons and subscriptions -/

/-- The degree code a window's counts lead to (R78). -/
def Region.next (g : Region) (cthr : Nat) : Nat :=
  if cthr ≤ g.c then (if g.dmin < g.deg then g.deg - 1 else g.deg)
  else if 256 ≤ g.rr ∧ 64 * g.w ≤ g.rr then (if g.deg < g.dmax then g.deg + 1 else g.deg)
  else g.deg

/-- Windows of the sharing monitor that have ended at the home slice of a region's first line (R78). -/
def State.windowsEnded (s : State) (region : Nat) : Nat :=
  let pa := 2097152 * region
  let island := 2 * s.homeDie pa + (if sliceOf pa / 2 < 4 then 0 else 1)
  Map.get 0 s.islandTicks island / 16000 / Config.moonWindow

/-- MOON_WINDOW_END (R78), due once a window of 65,536 cycles has ended: the degree moves at most one step, CHANGES with it;
on a fall, moons of dies that are no longer nearest go. -/
def execMoonWindowEnd (region : Nat) (st : State) : Ans :=
  .next (
    let g := Map.get Region.reset st.regions region
    let d := g.next st.service.cthr
    if st.windowsEnded region ≤ g.windows then st else
    let new : Region := { g with
      deg := d
      changes := if d = g.deg then g.changes else sat48 g.changes 1
      rr := 0
      w := 0
      c := 0
      windows := st.windowsEnded region }
    { st with
      regions := Map.set Region.reset st.regions region new
      moons := if d < g.deg then (st.narrowMoons region d).moons else st.moons })

/-- A missed push (R83): the region's far moons go and SUB becomes 3. -/
def State.loseSub (s : State) (region : Nat) : State :=
  { s with subs := Map.set 0 s.subs region 3, farMoons := s.farMoons.filter (fun p => 64 * p.1 / 2097152 != region) }

/-- SUBSCRIPTION_ANSWER (R82, R83): a pending subscription becomes active, or refused; an active one that its home drops is
lost. -/
def execSubscriptionAnswer (region : Nat) (accept : Bool) (st : State) : Ans :=
  .next (if Map.get 0 st.subs region = 1 then { st with subs := Map.set 0 st.subs region (if accept then 2 else 3) }
    else if Map.get 0 st.subs region = 2 ∧ accept = false then st.loseSub region else st)

/-- SUBSCRIPTION_PUSH (R83): a pushed value updates the far moon of its line unless the moon holds a later one; the home's commit position has
been seen. -/
def execSubscriptionPush (line : Nat) (pos : Nat) (data : V512) (st : State) : Ans :=
  .next (if Map.get 0 st.subs (64 * line / 2097152) ≠ 2 then st
    else
      let home := 64 * line / 2 ^ 44
      let s1 := if st.farMoons.any (fun p => p.1 == line) then st.placeMoon line pos data else st
      { s1 with fabric := { s1.fabric with pushPos := Map.upd 0 s1.fabric.pushPos home (fun p => Nat.max p pos) } })

/-- Another module subscribes to a region of this one, unless the region has 256 subscribers, or no longer does (R82). -/
def State.subscribe (s : State) (region : Nat) (module_ : BitVec 16) (on : Bool) : State :=
  let others := s.subscribers.filter (fun p => p != (region, module_))
  if !on then { s with subscribers := others }
  else if Config.subscriberLimit ≤ (others.filter (fun p => p.1 == region)).length then s
  else { s with subscribers := others ++ [(region, module_)] }

/-! ## Host snoops (R222) -/

/-- Squash every uncommitted chunk whose signatures hold a line, for a host's snoop, and drop the device's copies of it: the L2 holds it in I. -/
def State.snoop (s : State) (line : Nat) : State :=
  let hit := fun (t : Thread) => t.uncommitted && (Sig.holds t.chunk.rsig (64 * line) || Sig.holds t.chunk.wsig (64 * line))
  (((s.allThreads.filter hit).foldl (fun k t => k.squashTid t.tid 1) s).dropCopies [line]).setMesi [line] 0

/-- HOST_SNOOP (R222): the n-th line of a port's host memory; its answer waits while a granted commit writes the line. -/
def execHostSnoop (port : Nat) (line : Nat) (st : State) : Ans :=
  let l := lineOf (hostKey port (64 * line))
  .next (if 2 ≤ port ∨ st.locked [l] = true then st else st.snoop l)

/-- A host writes bytes of its own memory: it takes each line first (R222), when no commit that goes first stands in the way (02: R44). -/
def State.hostWrites (s : State) (port : Nat) (cells : List Host.Cell) : State :=
  let lines := linesOf (cells.map (fun c => hostKey port c.1))
  if s.barred frontTid lines then s
  else
    let s1 := lines.foldl State.snoop s
    s1.updHost port (fun h => { h with mem := Memory.writeCells h.mem cells })

/-! ## Host accesses to device memory (R218, R220, R221) -/

/-- The bytes lie in HBM and the firewall lets a host at them (R24, R226). -/
def State.hostMay (s : State) (pa n : Nat) (write : Bool) : Bool :=
  decide (pa + n ≤ Config.hbmEnd) && s.permits .host pa write && s.permits .host (pa + (n - 1)) write

/-- Answer a host's read: committed bytes, marked when they are uncorrectable, or an error response that is logged. -/
def State.hostRead (s : State) (port pa n : Nat) : State :=
  if s.hostMay pa n false then
    (s.recallAll (linesAt pa n)).updHost port (fun h => { h with readReply := some (s.bytesAt pa n), readPoison := (linesAt pa n).any (fun l => s.poisoned.contains l) })
  else (s.logAddr pa).updHost port (fun h => { h with readReply := none, readPoison := false })

/-- The bytes lie in the HDM range of a port in CXL mode (R221). -/
def State.cxlCovers (s : State) (port pa n : Nat) : Bool :=
  decide (port < 2) && s.service.cxl.any (fun r => r.1 == port && decide (r.2.1 ≤ pa) && decide (pa + n ≤ r.2.1 + r.2.2))

/-- Write bytes from a host as one engine commit, or log the refused access. -/
def State.hostPut (s : State) (cells : List MCell) : State :=
  let pa := (cells.headD (0, 0, 0)).1
  if s.hostMay pa cells.length true then s.engineCommit cells else s.logAddr pa

/-- CXL_MEM_WRITE (R221): one engine commit. -/
def execCxlMemWrite (port : Nat) (pa : Nat) (data : List Byte) (st : State) : Ans :=
  .next (if st.cxlCovers port pa data.length = true ∧ data ≠ [] ∧ st.barred frontTid (linesAt pa data.length) = false then st.hostPut (mcellsAt pa data) else st)

/-- CXL_MEM_READ (R221); with `keep` the host holds the lines it has read. -/
def execCxlMemRead (port : Nat) (pa : Nat) (len : Nat) (keep : Bool) (st : State) : Ans :=
  .next (if st.cxlCovers port pa len then
      let s1 := st.hostRead port pa len
      if keep && st.hostMay pa len false then { s1 with hostLines := s1.hostLines ++ (linesAt pa len).map (fun l => (port, l)) } else s1
    else st)

/-- The first byte of BAR2: BAR2BASE, whose bits below the BAR2 size are ignored (R220). -/
def HostPort.bar2start (h : HostPort) : Nat := h.bar2base.toNat / 2 ^ h.bar2log * 2 ^ h.bar2log

/-- The bytes lie in the BAR2 of one of the two ports (01: R23; R220). -/
def State.inBar2 (s : State) (port off n : Nat) : Bool := decide (port < 2) && decide (off + n ≤ 2 ^ (s.host port).bar2log)

/-- BAR2_WRITE (R220): one engine commit for each 64-byte-aligned piece; nothing answers beyond the BAR. -/
def execBar2Write (port : Nat) (off : Nat) (data : List Byte) (st : State) : Ans :=
  .next (
    let pa := (st.host port).bar2start + off
    if !st.inBar2 port off data.length || st.barred frontTid (linesAt pa data.length) then st else (pieces 64 (mcellsAt pa data)).foldl State.hostPut st)

/-- BAR2_READ (R220). -/
def execBar2Read (port : Nat) (off : Nat) (len : Nat) (st : State) : Ans :=
  .next (if st.inBar2 port off len then st.hostRead port ((st.host port).bar2start + off) len else st)

/-- BAR0 offsets that R218 lists. -/
def bar0Listed (off : Nat) : Bool :=
  (decide (off < 0x8000) && decide (off % 64 < 32)) || (decide (0x10000 ≤ off) && decide (off < 0x11000) && decide (off % 64 < 32)) ||
  (decide (0x30000 ≤ off) && decide (off < 0x30008)) || (decide (0x100000 ≤ off) && decide (off < 0x200000)) ||
  (decide (0x200000 ≤ off) && decide (off < 0x208100))

/-- BAR0_UNLISTED_ACCESS (R218): a read completes with all ones, a write is dropped, either is logged. -/
def execBar0UnlistedAccess (port : Nat) (off : Nat) (write : Bool) (st : State) : Ans :=
  .next (if 2 ≤ port ∨ bar0Listed off = true then st
    else
      let s1 := st.logAddr off
      if write then s1
      else s1.updHost port (fun h => { h with readReply := some (List.replicate 8 (BitVec.allOnes 8)), readPoison := false }))

end Sys2Proof.Machine
end

