-- ==== Sys2Proof/Machine/HostEvents.lean ====
section
/-! DEFINITION. Command rings, completion rings and register writes (05: R88; 09: R156 to R159; 12: R212, R218, R219; 13:
R225). -/
namespace Sys2Proof.Machine

/-! ## Command rings (R156 to R158) -/

/-- Bytes of a command ring. -/
def CmdRing.size (c : CmdRing) : Nat := 2 ^ (12 + c.szlog)
/-- The ring's base: a multiple of its size. -/
def CmdRing.start (c : CmdRing) : Nat := c.base.toNat / c.size * c.size
/-- CQCTL (R156). -/
def CmdRing.ctl (c : CmdRing) : W64 :=
  BitVec.ofNat 64 ((if c.en then 2 ^ 63 else 0) + (if c.err then 2 ^ 62 else 0) + (if c.loc then 2 ^ 11 else 0) + c.prio % 8 * 2 ^ 8 + c.szlog % 16)

/-- A command ring of a port. -/
def State.cmdRing (s : State) (port ring : Nat) : CmdRing := Map.get CmdRing.reset (s.host port).cmd ring
/-- Change a command ring. -/
def State.updCmd (s : State) (port ring : Nat) (f : CmdRing → CmdRing) : State :=
  s.updHost port (fun h => { h with cmd := Map.upd CmdRing.reset h.cmd ring f })

/-- A doubleword of ring memory at an offset: host memory, or committed state of this module. -/
def State.ringWord (s : State) (port : Nat) (c : CmdRing) (off : Nat) : W64 :=
  let a := c.start + off % c.size
  BitVec.ofNat 64 (leNat (s.bytesAt (if c.loc then a else hostKey port a) 8))

/-- Whole packets from an offset on, `left` 64-byte units being published; the packets and the units taken (R157, R159). -/
def State.takePackets (s : State) (port : Nat) (c : CmdRing) : Nat → Nat → Nat → List (List W64) × Nat
  | 0, _, _ => ([], 0)
  | fuel + 1, off, left =>
    if left = 0 then ([], 0)
    else
      let n := Nat.max (fld (s.ringWord port c off) 15 8) 1
      if left < n then ([], 0)
      else
        let p := (countFrom 0 (8 * n)).map (fun i => s.ringWord port c (off + 8 * i))
        let rest := s.takePackets port c fuel (off + 64 * n) (left - n)
        (p :: rest.1, n + rest.2)

/-- A doorbell is refused (R157, R158). -/
def CmdRing.refuses (c : CmdRing) (v : Nat) : Bool :=
  !c.en || decide (v % 64 ≠ 0) || decide (c.size ≤ v) || decide (65536 < (v + c.size - c.head) % c.size) ||
  (c.loc && decide (Config.hbmEnd < c.start + c.size))

/-- The first unpopulated address that a ring in device memory reaches, which a refused doorbell logs (01: R24). -/
def CmdRing.unpopulated (c : CmdRing) : Option Nat :=
  if c.en && c.loc && decide (Config.hbmEnd < c.start + c.size) && decide (c.start < Config.mmioBase) then some (Nat.max c.start Config.hbmEnd) else none

/-- CQ_DOORBELL (R157): every whole packet up to the new tail is copied at once, or ERR is set. -/
def State.doorbell (s : State) (port ring : Nat) (v : W64) : State :=
  let c := s.cmdRing port ring
  if c.refuses v.toNat then
    (match c.unpopulated with | some a => s.logAddr a | none => s).updCmd port ring (fun c => { c with err := true })
  else
    let left := (v.toNat + c.size - c.head) % c.size / 64
    let p := s.takePackets port c left c.head left
    let order := s.doorbells + 1
    State.updCmd { s with doorbells := order } port ring (fun c =>
      { c with tail := v.toNat, head := (c.head + 64 * p.2) % c.size, snap := c.snap ++ p.1.map (fun (w : List W64) => (order, w)) })

/-- CQ_DOORBELL (R157). -/
def execCqDoorbell (port : Nat) (ring : Nat) (v : W64) (st : State) : Ans := .next (if port < 2 ∧ ring < 512 then st.doorbell port ring v else st)

/-- EN rises: head and tail are set to 0 (R158). -/
def CmdRing.enable (c : CmdRing) : CmdRing := if c.en then c else { c with en := true, head := 0, tail := 0 }

/-- CQ_ENABLE (R158). -/
def execCqEnable (port : Nat) (ring : Nat) (st : State) : Ans := .next (if port < 2 ∧ ring < 512 then st.updCmd port ring CmdRing.enable else st)

/-- CQ_DISABLE (R158): snapshots stop; head, tail and the packets copied stay. -/
def execCqDisable (port : Nat) (ring : Nat) (st : State) : Ans :=
  .next (if port < 2 ∧ ring < 512 then st.updCmd port ring (fun c => { c with en := false }) else st)

/-- A write to CQCTL (R156, R158): ERR clears by 1; LOC and SZLOG change while EN = 0 alone, and a change refused sets ERR. -/
def CmdRing.writeCtl (c : CmdRing) (v : W64) : CmdRing :=
  let szlog := Nat.min (fld v 3 0) 12
  let c1 := { c with err := c.err && !bit v 62, prio := fld v 10 8 }
  let c2 := if c.en then (if bit v 11 ≠ c.loc ∨ szlog ≠ c.szlog then { c1 with err := true } else c1)
    else { c1 with loc := bit v 11, szlog := szlog }
  if bit v 63 then c2.enable else { c2 with en := false }

/-! ## MSI-X (12: R218, R219) -/

/-- Doubleword `k` of the MSI-X table: two per vector, whose mask bit, bit 32 of the second, is set at reset (assumption
60). -/
def HostPort.tableWord (h : HostPort) (k : Nat) : W64 := Map.get 0 h.mtable k ^^^ (if k % 2 = 1 then 0x100000000 else 0)
/-- A vector is masked. -/
def HostPort.masked (h : HostPort) (v : Nat) : Bool := bit (h.tableWord (2 * v + 1)) 32
/-- A vector is raised, or is pending while it is masked. -/
def HostPort.raise (h : HostPort) (v : Nat) : HostPort :=
  if h.masked v then { h with mpend := if h.mpend.contains v then h.mpend else v :: h.mpend } else { h with msix := v :: h.msix }
/-- Write a doubleword of the table; a pending vector that it unmasks is raised. -/
def HostPort.writeTable (h : HostPort) (k : Nat) (w : W64) : HostPort :=
  let h1 := { h with mtable := Map.set 0 h.mtable k (w ^^^ (if k % 2 = 1 then 0x100000000 else 0)) }
  if h1.mpend.contains (k / 2) && !h1.masked (k / 2) then
    { h1 with mpend := h1.mpend.filter (· != k / 2), msix := (k / 2) :: h1.msix } else h1
/-- Doubleword `k` of the pending-bit array. -/
def HostPort.pendWord (h : HostPort) (k : Nat) : W64 :=
  BitVec.ofNat 64 ((countFrom 0 64).foldl (fun a i => if h.mpend.contains (64 * k + i) then a + 2 ^ i else a) 0)

/-! ## Health events and the drained state (13: R231, R232) -/

/-- Raise a health event (R231): the ring keeps the newest 64, and vector 2,047 is raised on both ports. -/
def State.healthEvent (s : State) (k : HealthKind) (arg : Nat) : State :=
  let h := s.health
  let evs := h.events ++ [{ seq := h.nextEvent, timebase := s.time.now, kind := k, arg := arg }]
  let s1 : State := { s with health := { h with events := evs.drop (evs.length - 64), nextEvent := h.nextEvent + 1 } }
  [0, 1].foldl (fun a p => a.updHost p (·.raise 2047)) s1

/-- A drain state's number: its place in R232's table (assumption 28). -/
def DrainState.code : DrainState → Nat | .normal => 0 | .draining => 1 | .drained => 2 | .retired => 3

/-- Set the drain state. -/
def State.setDrain (s : State) (d : DrainState) : State := { s with service := { s.service with drain := d } }

/-- Enter a drain state, with its health event. -/
def State.enterDrain (s : State) (d : DrainState) : State :=
  (s.logTx.setDrain d).healthEvent .state d.code

/-- DRAINING becomes DRAINED with no live gang and every completion entry written (R232). -/
def State.drainCheck (s : State) : State :=
  if s.service.drain = .draining ∧ s.gangs = [] ∧ s.waiting = [] ∧ s.hosts.all (fun h => h.2.cpl.all (fun c => c.2.waiting.isEmpty)) = true
  then s.enterDrain .drained else s

/-! ## Completion rings (R219) -/

/-- Bytes of a completion ring. -/
def CplRing.size (c : CplRing) : Nat := 2 ^ (12 + c.szlog)
/-- CRCTL (R219). -/
def CplRing.ctl (c : CplRing) : W64 :=
  BitVec.ofNat 64 ((if c.en then 2 ^ 63 else 0) + (if c.stall then 2 ^ 62 else 0) + (if c.err then 2 ^ 61 else 0) + c.vec % 2048 * 2 ^ 12 + c.szlog % 16)
/-- The ring is full: one entry always stays free, so that equal offsets mean an empty ring (assumption 26). -/
def CplRing.full (c : CplRing) : Bool := (c.tail + 64) % c.size == c.head

/-- A completion ring of a port. -/
def State.cplRing (s : State) (port ring : Nat) : CplRing := Map.get CplRing.reset (s.host port).cpl ring
/-- Change a completion ring. -/
def State.updCpl (s : State) (port ring : Nat) (f : CplRing → CplRing) : State :=
  s.updHost port (fun h => { h with cpl := Map.upd CplRing.reset h.cpl ring f })

/-- Write waiting entries while there is room, each raising the ring's vector; at most `fuel` of them. -/
def State.cplDrain (s : State) (port ring : Nat) : Nat → State
  | 0 => s
  | fuel + 1 =>
    let c := s.cplRing port ring
    match c.waiting with
    | [] => s.updCpl port ring (fun c => { c with stall := false })
    | (e, ended) :: es =>
      if !c.en || c.full then s.updCpl port ring (fun c => { c with stall := true })
      else
        let bytes := (e.map (fun w => leBytes 8 w.toNat)).flatten
        let s1 := s.engineCommit (mcellsAt (hostKey port (c.base.toNat + c.tail)) bytes)
        let s2 := s1.updCpl port ring (fun c => { c with waiting := es, tail := (c.tail + 64) % c.size })
        let s3 := match ended with | some l => s2.launchEnded l | none => s2
        State.cplDrain (s3.updHost port (·.raise c.vec)) port ring fuel

/-- Serve a completion ring. -/
def State.cplServe (s : State) (port ring : Nat) : State := (s.cplDrain port ring ((s.cplRing port ring).waiting.length + 1)).drainCheck

/-- Send a completion entry that ends a launch: it waits behind earlier ones, and the launch is live until it is written (R219; 09:
R161). -/
def State.completeAs (s : State) (port ring : Nat) (e : List W64) (l : Option Completed) : State :=
  (s.updCpl port ring (fun c => { c with waiting := c.waiting ++ [(e, l)] })).cplServe port ring

/-- Send a completion entry that ends no launch. -/
def State.complete (s : State) (port ring : Nat) (e : List W64) : State := s.completeAs port ring e none

/-- Launches whose gangs are gone and whose completion entries are not yet written. -/
def State.unwritten (s : State) : List Completed :=
  (s.hosts.map (fun h => (h.2.cpl.map (fun c => c.2.waiting.filterMap (·.2))).flatten)).flatten

/-- CRHEAD accepts a value (R219). -/
def CplRing.headOk (c : CplRing) (v : Nat) : Bool :=
  decide (v % 64 = 0) && decide (v < c.size) && decide ((v + c.size - c.head) % c.size ≤ (c.tail + c.size - c.head) % c.size)

/-- CR_HEAD_WRITE (R219). -/
def State.crHead (s : State) (port ring : Nat) (v : W64) : State :=
  if (s.cplRing port ring).headOk v.toNat then (s.updCpl port ring (fun c => { c with head := v.toNat })).cplServe port ring
  else (s.updCpl port ring (fun c => { c with err := true })).logAddr (0x10008 + 64 * ring)

/-- CR_HEAD_WRITE (R219). -/
def execCrHeadWrite (port : Nat) (ring : Nat) (v : W64) (st : State) : Ans := .next (if port < 2 ∧ ring < 64 then st.crHead port ring v else st)

/-- EN rises: head and tail are set to 0 (R219). -/
def CplRing.enable (c : CplRing) : CplRing := if c.en then c else { c with en := true, head := 0, tail := 0 }

/-- CR_ENABLE (R219): entries that waited are written. -/
def execCrEnable (port : Nat) (ring : Nat) (st : State) : Ans :=
  .next (if port < 2 ∧ ring < 64 then (st.updCpl port ring CplRing.enable).cplServe port ring else st)

/-- A write to CRCTL (R219). -/
def CplRing.writeCtl (c : CplRing) (v : W64) : CplRing :=
  let szlog := Nat.min (fld v 3 0) 8
  let c1 := { c with err := c.err && !bit v 61, vec := fld v 22 12 }
  let c2 := if c.en then (if szlog ≠ c.szlog then { c1 with err := true } else c1) else { c1 with szlog := szlog }
  if bit v 63 then c2.enable else { c2 with en := false }

/-! ## Register writes (R7, R88, R225) -/

/-- The Resizable BAR control register is written: BAR2's size is 2^(20 + n), n in bits 13:8, from 1 GiB to 2 TiB (R218, R220;
assumption 61). -/
def HostPort.resize (h : HostPort) (v : W64) : HostPort :=
  let n := 20 + fld v 13 8
  if 30 ≤ n ∧ n ≤ 41 then { h with bar2log := n } else h

/-- A write to a BAR0 register of a port (R156, R218, R219); RO registers and the read-only windows discard it. -/
def State.bar0Write (s : State) (port off : Nat) (v : W64) : State :=
  if off < 0x8000 then
    let n := off / 64
    match off % 64 / 8 with
    | 0 => s.updCmd port n (fun c => if c.en then { c with err := true } else { c with base := v })
    | 2 => s.doorbell port n v
    | 3 => s.updCmd port n (fun c => c.writeCtl v)
    | _ => s
  else if 0x10000 ≤ off ∧ off < 0x11000 then
    let n := (off - 0x10000) / 64
    match off % 64 / 8 with
    | 0 => s.updCpl port n (fun c => if c.en then { c with err := true } else { c with base := v })
    | 1 => s.crHead port n v
    | 3 => (s.updCpl port n (fun c => c.writeCtl v)).cplServe port n
    | _ => s
  else if off = 0x30000 then s.updHost port (fun h => { h with bar2base := v })
  else if 0x200000 ≤ off ∧ off < 0x208000 then s.updHost port (fun h => h.writeTable ((off - 0x200000) / 8) v)
  else s

/-! ## Register reads (12: R218; 13: R230, R231) -/

/-- A kind's number: its place in R231's list (assumption 28). -/
def HealthKind.code : HealthKind → Nat
  | .linkDown => 0 | .linkUp => 1 | .caravanIndoubt => 2 | .poison => 3 | .watchdog => 4 | .throttle => 5 | .state => 6

/-- Doubleword `k` of an event (R231). -/
def HealthEvent.word (e : HealthEvent) (k : Nat) : W64 :=
  if k = 0 then BitVec.ofNat 64 e.seq else if k = 1 then e.timebase else if k = 2 then BitVec.ofNat 64 e.kind.code else BitVec.ofNat 64 e.arg

/-- The doubleword of eight bytes. -/
def packBytes (bs : List Nat) : W64 := BitVec.ofNat 64 (leNat (bs.map (BitVec.ofNat 8)))

/-- The doubleword at an offset of the health window; none in the view of the scheduler log and the configuration table,
whose layout the spec does not give (R230). An event stands in the entry of its sequence number modulo 64. -/
def Health.word (h : Health) (o : Nat) : Option W64 :=
  if o = 0 then some (BitVec.ofNat 64 h.seq)
  else if o = 8 then some h.dw1
  else if o = 16 then some h.tbstat
  else if o = 24 then some h.power
  else if o = 32 then some h.links
  else if o = 0x40 then some (BitVec.ofNat 64 h.live)
  else if o = 0x48 then some (BitVec.ofNat 64 h.waiting)
  else if o = 0x50 then some (BitVec.ofNat 64 h.refused)
  else if 0x100 ≤ o ∧ o < 0x200 then some ((h.freeCells.extractLsb' (8 * (o - 0x100)) 64))
  else if 0x200 ≤ o ∧ o < 0x248 then some (packBytes ((h.freqs.drop (o - 0x200)).take 8))
  else if 0x300 ≤ o ∧ o < 0x320 then some (packBytes ((h.hbmStacks.drop (o - 0x300)).take 8))
  else if 0x400 ≤ o ∧ o < 0xC00 then
    some (match h.events.find? (fun e => e.seq % 64 == (o - 0x400) / 32) with | some e => e.word (o % 32 / 8) | none => 0)
  else if 0x1000 ≤ o then none
  else some 0

/-- The doubleword at a BAR0 offset of a port (R156, R218, R219, R230); none where the spec gives no contents. -/
def State.bar0Word (s : State) (port off : Nat) : Option W64 :=
  let h := s.host port
  if off < 0x8000 then
    let c := s.cmdRing port (off / 64)
    some (match off % 64 / 8 with | 0 => c.base | 1 => BitVec.ofNat 64 c.head | 2 => BitVec.ofNat 64 c.tail | _ => c.ctl)
  else if off < 0x11000 then
    let c := s.cplRing port ((off - 0x10000) / 64)
    some (match off % 64 / 8 with | 0 => c.base | 1 => BitVec.ofNat 64 c.head | 2 => BitVec.ofNat 64 c.tail | _ => c.ctl)
  else if off < 0x100000 then some (BitVec.ofNat 64 h.bar2start)
  else if off < 0x200000 then s.health.word (off - 0x100000)
  else if off < 0x208000 then some (h.tableWord ((off - 0x200000) / 8))
  else some (h.pendWord ((off - 0x208000) / 8))

/-- A number for a role. -/
def Role.code (r : Role) : Nat := match r with | .front => 0 | .sched => 1 | .fault => 2 | .mgmt => 3 | .ckpt => 4

/-- The scheduler log's records and the configuration table's numbers, its role map and its CXL ports with their HDM ranges, as the window shows them in a layout that the spec leaves open
(R230; assumption 5). -/
def State.windowView (s : State) (o : Nat) : W64 :=
  let v := s.service
  Config.windowView (v.log.map (·.2)) ([v.columnWidth, v.ibnd, v.cthr, v.degMin, v.degMax, v.pinTimeMs, v.indoubtS, v.ptpDomain, v.ptpRank,
    (if v.pps then 1 else 0), v.tbepoch, v.gatherMs, v.zlen, v.wlen, v.roles.length] ++ v.roles.map Role.code ++
    (v.cxl.map (fun r => [r.1, r.2.1, r.2.2])).flatten) o

/-- A host reads a doubleword of BAR0 (R218): a listed register answers with its value, the views of the log and the table in a layout
that the spec leaves open (assumption 5); all ones are the answer of an unlisted offset, and are logged. -/
def State.bar0Fetch (s : State) (port off : Nat) : State :=
  let o := off / 8 * 8
  let reply := fun (k : State) (w : W64) => k.updHost port (fun h => { h with readReply := some (leBytes 8 w.toNat), readPoison := false })
  if !bar0Listed o then reply (s.logAddr off) (BitVec.allOnes 64)
  else match s.bar0Word port o with
    | some w => reply s w
    | none => reply s (s.windowView (o - 0x100000))

/-- Bits of PTROOT that are not reserved (R88). -/
def ptrootMask : W64 := 0xFFFF0FFFFFE00000

/-- Only the root monitor writes the register; any other write is turned away and logged (R88, R225). -/
def State.rootOnly (s : State) (i : Initiator) (addr : Nat) (f : State → State) : State := if i = .rootMonitor then f s else s.logAddr addr

/-- REGISTER_WRITE (R6, R7, R88, R225): a whole doubleword to a control register. -/
def execRegisterWrite (init : Initiator) (r : RegAddr) (v : W64) (st : State) : Ans :=
  .next (match r with
    | .mmio pa => (match st.mmioStore init (pa / 8 * 8) (leBytes 8 v.toNat) with | some s1 => s1 | none => st.logAddr pa)
    | .bar0 port off => if init = .host ∧ port < 2 ∧ bar0Listed off = true then st.bar0Write port off v else st.logAddr off
    | .ptroot core => st.rootOnly init 0x801 (fun s =>
        let w := v &&& ptrootMask
        -- the root's table is one of the pages that hold page tables (R225)
        let s1 := (s.updCore core (fun c => { c with ptroot := w })).addTables (fld w 43 21 * 2097152) 2097152
        { s1 with service := { s1.service with roots := Map.set 0 s1.service.roots (fld w 63 48) w } })
    | .segtab core =>
      if init = .rootMonitor ∨ init = .serviceColumn then st.updCore core (fun c => { c with segtab := v &&& segtabMask }) else st.logAddr 0x800
    | .partition => st.rootOnly init 0 (fun s => { s with fabric := { s.fabric with partition := v } })
    | .moduleId => st.rootOnly init 0 (fun s => { s with moduleId := v.setWidth 16 &&& moduleIdMask })
    | .resizeBar port => if init = .host ∧ port < 2 then st.updHost port (fun h => h.resize v) else st.logAddr 0)

/-- A control register reads back through its own address (R7, R230); none where no register stands or the firewall denies it. -/
def State.registerRead (s : State) (init : Initiator) (r : RegAddr) : Option W64 :=
  match r with
  | .mmio pa => (s.mmioLoad init (pa / 8 * 8) 8).map (fun bs => BitVec.ofNat 64 (leNat bs))
  | .bar0 port off => if port < 2 ∧ bar0Listed (off / 8 * 8) = true then s.bar0Word port (off / 8 * 8) else none
  | .ptroot core => some (s.core core).ptroot
  | .segtab core => some (s.core core).segtab
  | .partition => some s.fabric.partition
  | .moduleId => some (s.moduleId.setWidth 64)
  | .resizeBar port => if port < 2 then some (BitVec.ofNat 64 (((s.host port).bar2log - 20) * 256)) else none

end Sys2Proof.Machine
end

