-- ==== Sys2Proof/Machine/CaravanEvents.lean ====
section
/-! DEFINITION. Caravan events: stages, the commit protocol, publishing and termination (10: R183 to R191, R194). -/
namespace Sys2Proof.Machine

/-- Module of a caravan's coordinator. -/
def cidModule (cid : BitVec 32) : Nat := cid.toNat / 65536
/-- Record number of a caravan. -/
def cidRecord (cid : BitVec 32) : Nat := cid.toNat % 65536
/-- This module coordinates the caravan. -/
def State.cvOurs (s : State) (cid : BitVec 32) : Bool := cidModule cid == s.moduleId.toNat

/-- Change a destination's current entry. -/
def State.updDest (s : State) (cid : BitVec 32) (f : CvDest → CvDest) : State :=
  { s with cvDests := s.cvDests.map (fun d => if d.current cid then f d else d) }

/-- A destination's entry before anything is known of the caravan. -/
def CvDest.fresh (cid : BitVec 32) (gen : Option (BitVec 16)) (d : W64) : CvDest :=
  { cid := cid, gen := gen, gone := false, parts := [], expect := none, staged := 0, refused := false, bad := false, d := d,
    confirmed := false, commit := none, locked := false, old := false, inn := [], asked := false, askedAt := 0, replies := [] }

/-- Make an entry the identifier's current one. The one before it goes, unless it holds COMMIT and awaits its publish (R187). -/
def State.newDest (s : State) (d : CvDest) : State :=
  let waits := fun (e : CvDest) => !e.gone && e.commit.isSome
  { s with
    cvDests := (s.cvDests.filter (fun e => !e.current d.cid || waits e)).map (fun e => if e.current d.cid then { e with old := true } else e) ++ [d]
    locks := s.locks.map (fun p => if p.2 = cvOwner d.cid then (p.1, cvOwner d.cid + 2 ^ 34) else p) }

/-- Hand a control message to the fabric. -/
def State.sendCv (s : State) (m : CvMsg) : State := { s with fabric := { s.fabric with sent := s.fabric.sent ++ [m] } }

/-- Discard a destination's entries; its guarded items may have been waiting for inn bytes (R190, R194). -/
def State.cvDrop (s : State) (cid : BitVec 32) : State := (s.cvDiscard cid).wakeTasks

/-- A remote coordinator's destination answers PREPARE once its count is staged; after a refusal or a fault it discards
at once (R185, R190). -/
def State.cvAnswer (s : State) (cid : BitVec 32) : State :=
  match s.cvDest cid with
  | none => s
  | some d =>
    match d.expect with
    | none => s
    | some n =>
      if d.gone || d.confirmed || decide (d.staged < n) then s
      else
        let a := s.cvAnswerHere cid
        let s1 := s.sendCv (.confirm cid a)
        if a == .ok then s1.updDest cid (fun e => { e with confirmed := true }) else s1.cvDrop cid

/-! ## Stages (R183) -/

/-- Merge staged bytes into an inn entry: for each byte the highest sequence number wins. -/
def mergeInn (m : Map (Nat × Byte)) (seq : Nat) (cs : List MCell) : Map (Nat × Byte) :=
  cs.foldl (fun m c => match m.find? (fun p => p.1 == c.1) with
    | some p => if p.2.1 ≤ seq then Map.set (0, 0) m c.1 (seq + 1, c.2.2) else m
    | none => Map.set (0, 0) m c.1 (seq + 1, c.2.2)) m

/-- A local stage's caravan is still the record's, and not decided (R186, R191). -/
def State.stageLives (s : State) (cid : BitVec 32) (gen : BitVec 16) : Bool :=
  !s.cvOurs cid || ((s.caravan (cidRecord cid)).gen == gen &&
    ((s.caravan (cidRecord cid)).st == .opened || (s.caravan (cidRecord cid)).st == .preparing))

/-- Place a stage in the inn of its home die, or refuse it, or note that it failed. -/
def State.placeStage (s : State) (cid : BitVec 32) (seq : Nat) (l : Loc) (cs : List MCell) (i : Initiator) : State :=
  match s.cvDest cid with
  | none => s
  | some d =>
    let ls := linesOf (cs.map (·.1))
    let bad := decide (Config.hbmEnd ≤ l.pa) || !s.permits i l.pa true || s.poisonedAt l 1
    let fresh := ls.any (fun k => !(linesOf (d.inn.map (·.1))).contains k)
    let full := fresh && decide (Config.innBytes < s.innUsed (s.homeDie l.pa) + 64)
    s.updDest cid (fun e =>
      let e1 := { e with staged := e.staged + 1 }
      if bad then { e1 with bad := true } else if full then { e1 with refused := true } else { e1 with inn := mergeInn e1.inn seq cs })

/-- A stage reaches an inn of this module: a new caravan's first one makes its entry, one of a caravan that is gone is
discarded. -/
def State.stageHere (s : State) (n : Nat) (cid : BitVec 32) (gen : BitVec 16) (seq : Nat) (l : Loc) (cs : List MCell) (d : W64) (i : Initiator) : State :=
  let s0 := s.clearRel n
  let place := fun (k : State) => (k.placeStage cid seq l cs i).cvAnswer cid
  if !s.stageLives cid gen then s0
  else match s.cvDest cid with
    | none => place (s0.newDest (CvDest.fresh cid (some gen) d))
    | some e =>
      match e.gen with
      | none => if e.gone then s0.updDest cid (fun e => { e with gen := some gen }) else place (s0.updDest cid (fun e => { e with gen := some gen, d := d }))
      | some g =>
        if g = gen then (if e.gone then s0 else place s0)
        else if (g - gen).toNat < 32768 then s0
        else if e.gone || e.commit.isSome then place (s0.newDest (CvDest.fresh cid (some gen) d))
        else s

/-- The caravan's CVCOMMIT looks again. -/
def State.wakeCv (s : State) (cid : BitVec 32) : State :=
  s.wakeIf (fun t => t.st == .parked && t.wait == .caravan && s.cvOurs cid && t.tid == (s.caravan (cidRecord cid)).owner) false

/-- A stage for another module: its bytes are kept with the record until they are published, or the record notes that it
was not delivered or met an error response (R185). -/
def State.stageFar (s : State) (n : Nat) (cid : BitVec 32) (gen : BitVec 16) (seq : Nat) (l : Loc) (cs : List MCell) (i : Initiator) : State :=
  let s0 := s.clearRel n
  let home := s.homeOf l
  if !s.cvOurs cid || !s.stageLives cid gen then s0
  else s0.updCaravan (cidRecord cid) (fun c => match s.homeFail l i with
    | some 1 => { c with undelivered := dedup (c.undelivered ++ [home]) }
    | some _ => { c with answers := c.answers ++ [(home, .fault)] }
    | none => { c with out := c.out ++ [(home, seq, cs)] })

/-- CV_STAGE_ARRIVAL (R183, R194): a caravan store, or a store of a guarded item, reaches its inn. -/
def execCvStageArrival (n : Nat) (st : State) : Ans :=
  .next (match st.released[n]? with
    | none => st
    | some r =>
      match r.item with
      | .stage cid gen seq l cs d =>
        let i := if l.home.isSome then Initiator.wounoLink else st.initOf r.tid
        if st.isHere l then (st.stageHere n cid gen seq { l with home := none } cs d i).wakeCv cid
        else if st.routeHeld (st.homeOf l) .a then st
        else (st.stageFar n cid gen seq l cs i).wakeCv cid
      | .gstage cs =>
        if st.heldBack n then st
        else
          let keep := fun (t : Thread) => if t.item.inItem && !t.item.checked then { t with item := { t.item with staged := t.item.staged ++ cs } } else t
          ((st.clearRel n).updTid r.tid keep).wakeIf (fun t => t.st == .parked && t.wait == .guard && t.tid == r.tid) false
      | _ => st)

/-! ## The commit protocol (R184, R185) -/

/-- CV_PREPARE (R185): the participant list, the count and D; a caravan that ended here before, or was decided, is another when its D differs. -/
def execCvPrepare (cid : BitVec 32) (parts : List (BitVec 16)) (count : Nat) (d : W64) (st : State) : Ans :=
  .next (
    let note := fun (k : State) => (k.updDest cid (fun e => { e with parts := parts, expect := some count, d := d })).cvAnswer cid
    if st.cvOurs cid then st
    else match st.cvDest cid with
      | none => note (st.newDest (CvDest.fresh cid none d))
      | some e =>
        if (e.gone || e.commit.isSome) && e.d != d then note (st.newDest (CvDest.fresh cid none d)) else if e.gone then st else note st)

/-- CV_CONFIRM (R185). -/
def execCvConfirm (cid : BitVec 32) (dest : BitVec 16) (ans : CvAnswer) (st : State) : Ans :=
  .next (
    let id := cidRecord cid
    let c := st.caravan id
    if st.cvOurs cid && c.st == .preparing && c.dests.any (fun p => p.1 == dest) && !c.answers.any (fun a => a.1 == dest) then
      (st.updCaravan id (fun c => { c with answers := c.answers ++ [(dest, ans)] })).cvDecide id false
    else st)

/-- CV_COMMIT (R187): a destination that has sent CONFIRM-OK holds COMMIT. -/
def execCvCommit (cid : BitVec 32) (t : W64) (st : State) : Ans :=
  .next (match st.cvDest cid with
    | some e =>
      if e.gone || !e.confirmed || e.commit.isSome || st.cvOurs cid then st
      else (st.updDest cid (fun e => { e with commit := some t })).cvDecided cid e.d (some t)
    | none => st)

/-- A publish of this module that writes one of the lines comes first: by T, then by identifier (R191). -/
def State.cvBehind (s : State) (d : CvDest) (t : W64) : Bool :=
  s.cvDests.any (fun e => e != d && !e.gone &&
    (match e.commit with
     | some u => decide (u.toNat < t.toNat ∨ (u = t ∧ (e.cid.toNat < d.cid.toNat ∨ (e.cid = d.cid ∧ e.old = true)))) && e.lines.any d.lines.contains
     | none => false))

/-- Of an identifier's entries that meet a test and hold COMMIT, the one of the earliest T, with its T. -/
def State.cvNext (s : State) (cid : BitVec 32) (p : CvDest → Bool) : Option (CvDest × W64) :=
  (s.cvDests.filter (fun d => d.cid == cid && !d.gone && p d)).foldl (fun best d => match d.commit, best with
    | some t, some b => if t.toNat < b.2.toNat then some (d, t) else some b
    | some t, none => some (d, t)
    | none, b => b) none

/-- CV_PRELOCK (R187): from T - 2 µs the entries' lines are locked, unless a thread holds the commit token (02: R44). -/
def execCvPrelock (cid : BitVec 32) (st : State) : Ans :=
  .next (match st.cvNext cid (fun d => !d.locked) with
    | none => st
    | some (d, t) =>
      if decide (st.time.now.toNat + 2 * Config.usUnits < t.toNat) || st.cvHeld d || st.cvBehind d t || st.tokenBars d.owner then st
      else { st with
        locks := st.locks ++ d.lines.map (fun l => (l, d.owner))
        cvDests := st.cvDests.map (fun e => if e = d then { e with locked := true } else e) })

/-- Every destination has acknowledged: CVCOMMIT returns 0 (R185). -/
def State.cvFinish (s : State) (id : Nat) : State :=
  (s.updCaravan id (fun c => { c with st := .done, outcome := 0 })).wakeIf
    (fun t => t.st == .parked && t.wait == .caravan && t.tid == (s.caravan id).owner) false

/-- Bytes of this caravan's stages on another module, in sequence order, become visible there. -/
def State.publishFar (s : State) (id : Nat) (dest : BitVec 16) : State :=
  let c := s.caravan id
  let cells := ((c.out.filter (fun p => p.1 == dest)).foldl (fun m p => mergeInn m p.2.1 p.2.2) []).map (fun p => (farKey dest p.1, BitVec.allOnes 8, p.2.2))
  State.updCaravan (s.farPut cells) id (fun c => { c with out := c.out.filter (fun p => p.1 != dest) })

/-- The coordinator notes a destination's publish time (R185, R188, R189). -/
def State.cvAck (s : State) (cid : BitVec 32) (dest : BitVec 16) (t : W64) (skew : Bool) : State :=
  let id := cidRecord cid
  let c := s.caravan id
  if (c.st != .publishing && !(c.st == .done && c.outcome == 0)) || !c.dests.any (fun p => p.1 == dest) || c.acked.contains dest then s
  else
    let s1 := (s.publishFar id dest).updCaravan id (fun c => { c with
      acked := c.acked ++ [dest], tlast := if c.tlast.toNat < t.toNat then t else c.tlast, skew := c.skew || skew })
    let c1 := s1.caravan id
    if c1.st == .publishing && c1.dests.all (fun p => c1.acked.contains p.1) then s1.cvFinish id else s1

/-- CV_PUBLISH (R187): at T, or on arrival when COMMIT came later, the entries become visible as one engine commit; where their lines have not been
locked before, not while a thread holds the commit token (02: R44). -/
def execCvPublish (cid : BitVec 32) (st : State) : Ans :=
  .next (match st.cvNext cid (fun _ => true) with
    | none => st
    | some (d, t) =>
      if decide (st.time.now.toNat < t.toNat) || st.cvHeld d || st.cvBehind d t || (!d.locked && st.tokenBars d.owner) then st
      else
        let s1 := (st.cvPublishEntry d).wakeTasks
        let skew := st.time.st != .locked
        if st.cvOurs cid then s1.cvAck cid st.moduleId st.time.now skew else s1.sendCv (.ack cid st.time.now skew))

/-- CV_PUBLISH_ACK (R185, R188). -/
def execCvPublishAck (cid : BitVec 32) (dest : BitVec 16) (t : W64) (skew : Bool) (st : State) : Ans :=
  .next (if st.cvOurs cid && dest != st.moduleId then st.cvAck cid dest t skew else st)

/-- CV_ABORT (R185, R186): the entries are discarded, and stages still under way on their arrival. -/
def execCvAbort (cid : BitVec 32) (st : State) : Ans :=
  .next (if st.cvOurs cid then st
    else
      let s1 := match st.cvDest cid with
        | some _ => st
        | none => st.newDest (CvDest.fresh cid none 0)
      match s1.cvDest cid with
      | some e =>
        if e.gone then st
        -- a decided caravan's COMMIT stands: it is a later one of the identifier, unknown here, that has ended
        else if e.commit.isSome then (s1.newDest { CvDest.fresh cid none 0 with gone := true }).cvDecided cid 0 none
        else (s1.cvDrop cid).cvDecided cid e.d none
      | none => st)

/-- CV_UNDELIVERABLE (R184, R185): a control message of the coordinator did not reach a destination. -/
def execCvUndeliverable (cid : BitVec 32) (dest : BitVec 16) (st : State) : Ans :=
  .next (
    let id := cidRecord cid
    let c := st.caravan id
    if st.cvOurs cid && c.st == .preparing && c.dests.any (fun p => p.1 == dest) then
      (st.updCaravan id (fun c => { c with undelivered := dedup (c.undelivered ++ [dest]) })).cvDecide id false
    else st)

/-! ## Deadlines and termination (R186, R190) -/

/-- The modules a destination queries: the coordinator and every other participant. -/
def State.cvAsked (s : State) (d : CvDest) : List (BitVec 16) :=
  dedup ((BitVec.ofNat 16 (cidModule d.cid) :: d.parts).filter (fun m => m != s.moduleId))

/-- Send QUERY to every module that is asked. -/
def State.cvQueryAll (s : State) (d : CvDest) : State :=
  (s.cvAsked d).foldl (fun k m => k.sendCv (.query d.cid d.d m)) (s.updDest d.cid (fun e => { e with asked := true, askedAt := s.time.up }))

/-- The caravan's D has come for the record of this module (R185, R186). -/
def State.cvRecordDue (s : State) (id : Nat) : State :=
  let c := s.caravan id
  let now := s.time.now.toNat
  match c.st with
  | .opened => if c.d.toNat ≤ now then s.cvEnd id 4 else s
  | .preparing => if c.d.toNat ≤ now + 200 * Config.usUnits then s.cvDecide id true else s
  | .publishing => if c.d.toNat ≤ now then s.cvFinish id else s
  | _ => s

/-- A destination is in doubt: it has sent CONFIRM-OK and holds neither COMMIT nor ABORT. -/
def CvDest.inDoubt (d : CvDest) : Bool := !d.gone && d.confirmed && d.commit.isNone

/-- CV_DEADLINE (R185, R186, R190): at D, and for a caravan that still prepares at the decision cut-off. -/
def execCvDeadline (cid : BitVec 32) (st : State) : Ans :=
  .next (if st.cvOurs cid then st.cvRecordDue (cidRecord cid)
    else match st.cvDest cid with
      | none => st
      | some d =>
        if d.gone || d.commit.isSome || d.asked || decide (st.time.now.toNat < d.d.toNat) then st
        else if d.confirmed then st.cvQueryAll d
        else (st.cvDrop cid).cvDecided cid d.d none)

/-- What this module answers to QUERY about the caravan of an identifier and deadline (R190): its decision, else UNDECIDED. An ABORT may have come
before the deadline was known, and is kept under 0: it is not that of a caravan whose entries stand here (assumption 41). -/
def State.cvKnows (s : State) (cid : BitVec 32) (d : W64) : CvQueryReply :=
  let known := fun (u : W64) => s.decisions.find? (fun e => e.cid == cid && e.d == u)
  let say := fun (e : CvDecision) => match e.commit with | some t => CvQueryReply.holdsCommit t | none => .aborted
  match known d, known 0 with
  | some e, _ => say e
  | none, some e => if s.cvDests.any (fun x => x.cid == cid && x.d == d) then .undecided else say e
  | none, none => .undecided

/-- CV_QUERY (R190). -/
def execCvQuery (cid : BitVec 32) (d : BitVec 64) (asker : BitVec 16) (st : State) : Ans :=
  .next (st.sendCv (.answer cid asker (st.cvKnows cid d)))

/-- Every module asked has answered UNDECIDED or is DEAD. -/
def State.cvNobody (s : State) (d : CvDest) : Bool :=
  (s.cvAsked d).all (fun m => d.replies.any (fun r => r.1 == m && (r.2 == .undecided || r.2 == .dead)))

/-- CV_QUERY_ANSWER (R190 steps 2 to 5). -/
def execCvQueryAnswer (cid : BitVec 32) (part : BitVec 16) (ans : CvQueryReply) (st : State) : Ans :=
  .next (match st.cvDest cid with
    | none => st
    | some d =>
      if !d.inDoubt || !d.asked || !(st.cvAsked d).contains part then st
      else match ans with
        | .holdsCommit t => (st.updDest cid (fun e => { e with commit := some t })).cvDecided cid d.d (some t)
        | .aborted => (st.cvDrop cid).cvDecided cid d.d none
        | _ =>
          let d1 := { d with replies := d.replies.filter (fun r => r.1 != part) ++ [(part, ans)] }
          if st.cvNobody d1 then (st.cvDrop cid).cvDecided cid d.d none else st.updDest cid (fun _ => d1))

/-- CV_QUERY_INTERVAL (R184, R190 step 6). -/
def execCvQueryInterval (cid : BitVec 32) (st : State) : Ans :=
  .next (match st.cvDest cid with
    | some d => if d.inDoubt && d.asked && decide (d.askedAt + Config.msUnits ≤ st.time.up) then st.cvQueryAll d else st
    | none => st)

/-- CV_INDOUBT_LIMIT (R190 step 7; 13: R231). -/
def execCvIndoubtLimit (cid : BitVec 32) (st : State) : Ans :=
  .next (match st.cvDest cid with
    | some d =>
      if d.inDoubt && d.asked && decide (d.d.toNat + st.service.indoubtS * 1000 * Config.msUnits ≤ st.time.now.toNat) then
        ((st.cvDrop cid).cvDecided cid d.d none).healthEvent .caravanIndoubt cid.toNat
      else st
    | none => st)

end Sys2Proof.Machine
end

