-- ==== Sys2Proof/Machine/CopyOps.lean ====
section
/-! DEFINITION. Issue of copy commands and the copy-fault record (08: R143, R154; R299, R300). -/
namespace Sys2Proof.Machine

/-- What an engine command carries of its issuer (R115, R137, R143). -/
def State.issuer (s : State) : Issuer :=
  { tid := s.th.tid, gang := s.th.gang.getD 0, rank := s.th.rank, gangSize := (match s.myGang with | some g => g.size | none => 1),
    asid := s.asidOf s.th.core, core := s.th.core, segs := s.th.seg, guarded := s.inItem,
    heldAt := none }

/-- The completion target a command names (R152). -/
def State.targetOf (s : State) (k : BitVec 2) (n : BitVec 4) (c : Reg) : Target :=
  match k.toNat with
  | 0 => .none
  | 1 => .sem n.toNat
  | 2 => .barrier n.toNat (Map.get 0 s.th.arch.arrivals n.toNat)
  | _ => .counter (s.x c)

/-- Issue a copy command; a bound arrival counts at issue (R170, R299). -/
def State.issueCopy (s : State) (i : Instr) (k : BitVec 2) (n : BitVec 4) (cmd : CopyCmd) : State :=
  if k = 2#2 ∧ (s.memberOf n.toNat).isNone then s.illegalOf i
  else match s.deferOr [.copy s.myCell cmd] with
    | .stop s1 w => s.endWith s1 w
    | .ok s1 _ _ =>
      (if k = 2#2 then s1.updArch (fun a => { a with arrivals := Map.upd 0 a.arrivals n.toNat (· + 1) }) else s1).retire

/-- CPY (R143, R299). -/
def execCpy (c : BitVec 5) (a : BitVec 5) (b : BitVec 5) (k : BitVec 2) (n : BitVec 4) (w : BitVec 2) (st : State) : Ans :=
  .next (if !cpyOk c k n w then st.illegalOf (.cpy c a b k n w)
    else st.issueCopy (.cpy c a b k n w) k n
      { gather := false, src := st.x a, dst := st.x b, list := 0, target := st.targetOf k n c, rw := w.toNat, who := st.issuer,
        faulted := none, recs := [], ended := none })

/-- CPYG (R143, R150, R299). -/
def execCpyg (c : BitVec 5) (a : BitVec 5) (b : BitVec 5) (k : BitVec 2) (n : BitVec 4) (st : State) : Ans :=
  .next (if !cpygOk k n then st.illegalOf (.cpyg c a b k n)
    else st.issueCopy (.cpyg c a b k n) k n
      { gather := true, src := st.x a, dst := st.x b, list := st.x c, target := st.targetOf k n c, rw := 0, who := st.issuer,
        faulted := none, recs := [], ended := none })

/-- The CPYST status word (R154). -/
def CopyRec.word (r : CopyRec) : W64 :=
  BitVec.ofNat 64 ((if r.flt then 2 ^ 63 else 0) + (if r.mult then 2 ^ 62 else 0) + r.out % 32 * 2 ^ 48 + (if r.side then 2 ^ 16 else 0) +
    (if r.op then 2 ^ 8 else 0) + r.code % 256)

/-- The item CPYST returns (R154). -/
def CopyRec.item (r : CopyRec) (sel : W64) : W64 :=
  match sel.toNat with
  | 0 => r.word
  | 1 => BitVec.ofNat 64 (if r.flt then r.offset else r.lastN)
  | 2 => r.addr
  | 3 => r.word
  | _ => BitVec.allOnes 64

/-- CPYST (R154, R300): selector 3 clears the record when the chunk commits. -/
def execCpyst (d : BitVec 5) (a : BitVec 5) (st : State) : Ans :=
  let clear := st.x a == 3
  .next (State.sourceResult (if clear then st.openChunk.updArch (fun r => { r with cpyClear := true }) else st) d
    (st.th.copyRec.item (st.x a)))

end Sys2Proof.Machine
end

