-- ==== Sys2Proof/Machine/Safepoints.lean ====
section
/-! DEFINITION. A gang's rectangle of cells, and the save and restore routines of its safe points (09: R162, R177; 13:
R238). -/
namespace Sys2Proof.Machine

/-! ## The rectangle (R162) -/

/-- The cell order of a rank (R162). -/
def Gang.orderOf (g : Gang) (rank : Nat) : Nat := rank / (perCell g.launch.cores * g.launch.tpc)

/-- The core of a rank. -/
def Gang.coreOf (g : Gang) (rank : Nat) : Nat :=
  2 * rectCell g.ox g.oy g.wd g.ht g.launch.ord (g.orderOf rank) + (if rankIsS g.launch.cores g.launch.tpc rank then 0 else 1)

/-- A rank's place among the contexts of its core. -/
def Gang.contextOf (g : Gang) (rank : Nat) : Nat := rank % g.launch.tpc

/-- The number that stands for the core of a context that is saved and has no core. -/
def nowhere : Nat := 4096

/-! ## Safe points (R177) -/

/-- The context is live. -/
def Thread.live (t : Thread) : Bool := t.st != .exited && t.st != .vacant

/-- Live contexts of a gang on the cell of an order. -/
def State.cellThreads (s : State) (g : Gang) (o : Nat) : List Thread :=
  s.allThreads.filter (fun t => t.gang == some g.ident && t.live && g.orderOf t.rank == o)

/-- The context is parked at a SAFEPT and runs no routine. -/
def Thread.atSafept (t : Thread) : Bool :=
  t.st == .parked && t.routine.isNone && (match t.wait with | .safept _ => true | _ => false)

/-- The context stands at a SAFEPT and runs no routine: parked there, or woken and not yet issued, as one to which an awaited event was delivered is
saved (R177). -/
def Thread.standsAtSafept (t : Thread) : Bool :=
  (t.st == .parked || (t.st == .runnable && t.woken)) && t.routine.isNone && (match t.wait with | .safept _ => true | _ => false)

/-- A routine runs in another context of the cell, so that this one does not issue before its end (R177). -/
def State.routineHolds (s : State) (t : Thread) : Bool :=
  match t.gang.bind s.findGang with
  | none => false
  | some g => s.allThreads.any (fun u => u.routine.isSome && u.live && u.tid != t.tid && u.gang == t.gang && g.orderOf u.rank == g.orderOf t.rank)

/-- The identifier of the SAFEPT a context is parked at. -/
def Thread.safeId (t : Thread) : Nat := match t.wait with | .safept n => n | _ => 0

/-- The safe point of an identifier. -/
def Kernel.safePoint (k : Kernel) (n : Nat) : SafePoint :=
  (k.safepts.find? (fun p => p.ident == n)).getD { ident := n, save := 0, restore := 0, size := 0 }

/-- The context of lowest rank. -/
def lowestRank : List Thread → Option Thread
  | [] => none
  | t :: ts => match lowestRank ts with
    | none => some t
    | some u => some (if u.rank < t.rank then u else t)

/-- The address of a cell's save area: where firmware grants it is a free value (assumption 5). -/
def State.saveArea (s : State) (g : Gang) (o : Nat) : State × W64 :=
  match g.saves.find? (fun p => p.1 == o) with
  | some p => (s, p.2)
  | none =>
    let a := Config.freeWord s.free
    (State.updGang { s with free := s.free + 1 } g.ident (fun k => { k with saves := k.saves ++ [(o, a)] }), a)

/-- Room for one more frame in the local store. -/
def State.frameRoom (s : State) : State :=
  if s.th.arch.frames.length < Config.frameLimit then s
  else match s.victim with
    | none => s
    | some k => (s.spillFrame k).1

/-- The issuing thread starts a routine as if by CALLW at its SAFEPT, the return address in ra = x3 (15: R271), the save
area's address in x10. -/
def State.callRoutine (s : State) (r : Routine) (entry : Nat) (area : W64) : State :=
  let s1 := s.frameRoom.updArch (fun a => (a.setX 3 (r.pc + 4)).setX 10 area)
  State.updTh (s1.pushFrame) (fun t => { t with
    st := .runnable
    wait := .none
    woken := false
    swapBarred := false
    chunk := Chunk.reset
    routine := some r
    arch := { t.arch with pc := BitVec.ofNat 64 entry } })

/-- A cell's routine of a safe point starts in a thread, on the cell's save area. -/
def State.runRoutine (s : State) (g : Gang) (o : Nat) (t : Thread) (entry : Nat) (r : Routine) : State :=
  let a := s.saveArea g o
  a.1.onThread t.tid (fun k => k.callRoutine r entry a.2)

/-- Start a cell's routine in its thread of lowest rank that stands at a safe point (assumption 71); `save` says which. -/
def State.startRoutine (s : State) (g : Gang) (o : Nat) (save : Bool) (ret : W64) : State :=
  match lowestRank ((s.cellThreads g o).filter (·.standsAtSafept)) with
  | none => s
  | some t =>
    let p := g.kernel.safePoint t.safeId
    s.runRoutine g o t (if save then p.save else p.restore)
      { save := save, ret := ret, depth := t.arch.depth, pc := t.arch.pc, ident := t.safeId, first := false }

/-- Parked SAFEPTs that meet a test return a value. -/
def State.safeReturn (s : State) (p : Thread → Bool) (v : W64) : State :=
  let hit := fun (t : Thread) => t.st == .parked && (match t.wait with | .safept _ => true | _ => false) && p t
  (s.allThreads.filter hit).foldl (fun k t => (k.updTid t.tid (fun u => { u with safeResult := some v })).wake t.tid false) s

/-- Move resident contexts to their run queues, their frames spilled, as a save under R31 does; false when a spill fails. -/
def State.spillThreads (s : State) : List Thread → State × Bool
  | [] => (s, true)
  | t :: ts =>
    if t.slot.isNone then s.spillThreads ts
    else
      let s1 := s.onThread t.tid State.toQueue
      if s1.allThreads.any (fun u => u.tid == t.tid && u.slot.isSome) then (s1, false) else s1.spillThreads ts

/-- The cell of an order is saved (R177 step 3): its contexts leave their slots, and the cell is free. A spill that fails abandons the save
(assumption 71). -/
def State.saveCell (s : State) (g : Gang) (o : Nat) : State :=
  let cell := rectCell g.ox g.oy g.wd g.ht g.launch.ord o
  match s.logTx.spillThreads (s.cellThreads g o) with
  | (s0, false) => s0
  | (s0, true) =>
  let s1 := s0.mapThreads (fun t =>
    if t.gang = some g.ident ∧ t.live = true ∧ g.orderOf t.rank = o then { t with core := nowhere, slot := none } else t)
  let s2 := (s1.updCell cell (fun c => { c with owner := none })).updGang g.ident (fun k => { k with savedCells := k.savedCells ++ [o], everPreempted := true })
  match s2.findGang g.ident with
  | none => s2
  | some k =>
    if (countFrom 0 (k.wd * k.ht)).all k.savedCells.contains then
      s2.updGang g.ident (fun k => { k with swapped := true, placed := false, req := .none, savedCells := [] })
    else s2

/-- Every live context of the cell stands at a SAFEPT; for a pre-emption one in FAULT-WAIT stands at its boundary as well, outside guarded items (05:
R103; 10: R197). -/
def State.cellParked (s : State) (g : Gang) (o : Nat) : Bool :=
  (s.cellThreads g o).all (fun t => t.standsAtSafept || (g.req == .preempt && t.st == .faultWait && !t.item.inItem))

/-- Contexts of the cell that were saved in FAULT-WAIT issue their instructions again (05: R103). -/
def State.refault (s : State) (g : Gang) (o : Nat) : State :=
  s.wakeIf (fun t => t.st == .faultWait && t.gang == some g.ident && g.orderOf t.rank == o) false

/-- The save routine of a cell has ended (R177 step 3, 13: R238 step 2): a pre-empted cell is saved, a checkpoint notes
it; a request that was cancelled meanwhile returns 0. -/
def State.cellSaved (s : State) (g : Gang) (o : Nat) : State :=
  match g.req with
  | .none => s.safeReturn (fun t => t.gang == some g.ident && g.orderOf t.rank == o) 0
  | .preempt => s.saveCell g o
  | .checkpoint _ => s.updGang g.ident (fun k => { k with savedCells := dedup (k.savedCells ++ [o]) })

/-- The issuing thread stands behind its routine's RETW. -/
def State.routineOver (s : State) : Option Routine :=
  match s.th.routine with
  | some r => if !s.th.inh && s.th.arch.depth == r.depth && s.th.arch.pc == r.pc + 4 then some r else none
  | none => none

/-- The key of a cell's save area for an address space (assumption 30). -/
def areaKey (asid : BitVec 16) (cell : Nat) : Nat := asid.toNat * 4096 + cell

/-- A gang that is released takes the restored save area of its cell of an order: the cell's thread of lowest rank first runs the restore routine of
the kernel's first safe point and goes on at ENTRY, the others wait for it (R177; 13: R240; assumption 30). -/
def State.firstRestore (s : State) (g : Gang) (o : Nat) : State :=
  let key := areaKey g.launch.asid (rectCell g.ox g.oy g.wd g.ht g.launch.ord o)
  match g.kernel.safepts.head?, lowestRank (s.cellThreads g o), s.service.saveAreas.find? (fun p => p.1 == key) with
  | some p, some t, some area =>
    if !s.service.restored.contains key then s
    else
      let s1 : State := { s with service := { s.service with restored := s.service.restored.filter (· != key) } }
      let s2 := (s1.updGang g.ident (fun k => { k with saves := (o, area.2.2) :: k.saves })).mapThreads (fun u =>
        if u.gang = some g.ident ∧ g.orderOf u.rank = o then { u with st := .parked, wait := .safept p.ident } else u)
      s2.runRoutine { g with saves := (o, area.2.2) :: g.saves } o t p.restore
        { save := false, ret := 0, depth := t.arch.depth, pc := t.arch.pc - 4, ident := p.ident, first := true }
  | _, _, _ => s

/-- The first routine of a released cell has ended: its other threads start. -/
def State.endFirst (s : State) : State :=
  match s.myGang with
  | none => s
  | some g => (s.updTh (fun t => { t with routine := none })).wakeIf (fun t => t.gang == some g.ident && g.orderOf t.rank == g.orderOf s.th.rank &&
      t.st == .parked && (match t.wait with | .safept _ => true | _ => false)) false

/-- At the routine's RETW (R177): the thread stands at its SAFEPT again, and its cell is saved, or the cell's SAFEPTs
return. -/
def State.endRoutine (s : State) (r : Routine) : State :=
  if r.first then s.endFirst else
  let s1 := s.updTh (fun t => { t with
    routine := none
    st := .parked
    wait := .safept r.ident
    woken := false
    arch := { t.arch with pc := r.pc } })
  match s1.myGang with
  | none => s1
  | some g =>
    let o := g.orderOf s1.th.rank
    if r.save then s1.cellSaved g o
    else
      -- one that was saved RUNNABLE has its SAFEPT's value as well
      let s2 := (s1.refault g o).mapThreads (fun t =>
        if t.gang = some g.ident ∧ g.orderOf t.rank = o ∧ t.st = .runnable ∧ t.standsAtSafept = true then { t with safeResult := some r.ret } else t)
      s2.safeReturn (fun t => t.gang == some g.ident && g.orderOf t.rank == o) r.ret

end Sys2Proof.Machine
end

