-- ==== Sys2Proof/Machine/System.lean ====
section
/-! DEFINITION. Traps by instruction, TRAPRET, SEGLD, HALT, and the reads of time, cycles and place (R269, R311, R323,
R348, R357, R367). -/
namespace Sys2Proof.Machine

/-- ECALL (R311): raises ECALL with TRAPVAL 0. -/
def execEcall (st : State) : Ans := .next (st.raise .ecall 0)

/-- EBREAK (R311): raises BREAK with TRAPVAL its pc. -/
def execEbreak (st : State) : Ans := .next (st.raise .breakpoint st.th.arch.pc)

/-- TRAPRET (R97, R367): cutting; ILLEGAL when no handler runs. -/
def execTrapret (st : State) : Ans :=
  .next (if !st.th.inh then st.illegalOf .trapret
    else st.boundary (fun k => (k.retireAt k.th.trappc).trapReturn))

/-- A reserved descriptor bit is set (R85). -/
def segReserved (g : BitVec 128) : Bool := nbits g.toNat 127 125 != 0 || nbits g.toNat 5 0 != 0

/-- SEGLD (R86, R357): at the boundary, descriptor x[rs1] of the segment table enters gN. A read that the firewall denies is logged and raises
FARERR (13: R226; assumption 75). -/
def execSegld (n : BitVec 3) (a : BitVec 5) (st : State) : Ans :=
  .next (st.boundary (fun k =>
    let i := k.x a
    let tab := (k.core k.th.core).segtab
    let pa := fld tab 43 4 * 16 + 16 * i.toNat
    let g := BitVec.ofNat 128 (leNat (k.bytesAt pa 16))
    if fld tab 63 48 ≤ i.toNat then k.raise .seglimit i
    else if !k.permits (k.coreInit k.th.core) pa false then (k.logAddr pa).raise .farerr i
    else if segReserved g then k.raise .segrights i
    else if k.poisoned.contains (lineOf pa) then k.raise .poison i
    else (k.updTh (fun t => { t with seg := Map.set 0 t.seg n.toNat g })).retireBoundary))

/-- HALT (R323): a supervisor instruction; the thread parks until a message wakes it. -/
def execHalt (st : State) : Ans :=
  .next (if st.user then st.illegalOf .halt
    else st.boundary (fun k => if k.th.woken then k.retireBoundary else k.park .message))

/-- A plain read of a value source (R204, R205): a replay supplies the recorded value. -/
def State.readSource (s : State) (d : Reg) (v : W64) : State :=
  match s.openChunk.valueSource [v] with
  | (s1, some (w :: _)) => (s1.setX d w).retire
  | (s1, _) => s1.disagree

/-- RDTIME (R206, R348): the timebase. -/
def execRdtime (d : BitVec 5) (st : State) : Ans := .next (st.readSource d st.time.now)

/-- RDCYCLE (R348): cycles of the core's island. -/
def execRdcycle (d : BitVec 5) (st : State) : Ans := .next (st.readSource d (BitVec.ofNat 64 (st.cyclesOf st.th.core)))

/-- The value of an RDID selector (R269, R25). -/
def State.rdid (s : State) (sel : Nat) : W64 :=
  let cell := s.myCell
  BitVec.ofNat 64 (match sel with
    | 0 => s.moduleId.toNat
    | 1 => dieOf cell
    | 2 => cellX cell
    | 3 => cellY cell
    | 4 => s.th.core % 2
    | 5 => s.th.slotNo
    | 6 => cellY cell % 8
    | _ => 16 * s.th.core + s.th.slotNo)

/-- RDID (R348): a selector of 8 to 31 raises ILLEGAL. -/
def execRdid (d : BitVec 5) (s : BitVec 5) (st : State) : Ans :=
  .next (if 7 < s.toNat then st.illegalOf (.rdid d s) else st.readSource d (st.rdid s.toNat))

end Sys2Proof.Machine
end

