-- ==== Sys2Proof/Machine/Launch.lean ====
section
/-! DEFINITION. Packets of the front end, their fields and checks, and the kernel header (09: R159 to R164; 10: R192; 11:
R202, R203; 13: R232; 15: R279, R280). -/
namespace Sys2Proof.Machine

/-! ## Packets (R159) -/

/-- Doubleword `i` of a packet. -/
def dw (p : List W64) (i : Nat) : W64 := p.getD i 0

/-- The packet at the head of a command ring's snapshots, with the order of its doorbell. -/
def State.headPacket (s : State) (port ring : Nat) : Option (Nat × List W64) := (s.cmdRing port ring).snap.head?

/-- The front end has taken the head packet of a ring. -/
def State.popPacket (s : State) (port ring : Nat) : State := s.updCmd port ring (fun c => { c with snap := c.snap.drop 1 })

/-- Doubleword 0 of a completion entry (R167). -/
def cplHead (tag cause code grade flags : Nat) : W64 :=
  BitVec.ofNat 64 (tag % 2 ^ 32 * 2 ^ 32 + cause % 256 * 2 ^ 24 + code % 256 * 2 ^ 16 + grade % 8 * 2 ^ 8 + flags % 256)

/-- The entry of a packet that no gang came of: code, grade, launch identifier, doublewords 2 to 5. -/
def State.packetEntry (s : State) (p : List W64) (code grade : Nat) (lid : W64) (d2 d3 d4 d5 : Nat) : List W64 :=
  [cplHead (fld (dw p 0) 63 32) 0 code grade 0, lid, BitVec.ofNat 64 d2, BitVec.ofNat 64 d3, BitVec.ofNat 64 d4, BitVec.ofNat 64 d5, s.time.now, 0]

/-- KIND of a packet. -/
def kindOf (p : List W64) : Nat := fld (dw p 0) 7 0

/-- Refuse a packet on completion ring 0 of its port with BADPKT, grade C; a launch of a wrong LEN names its LID. -/
def State.badPacket (s : State) (port : Nat) (p : List W64) : State :=
  s.complete port 0 (s.packetEntry p 3 3 (if kindOf p = 1 ∨ kindOf p = 2 then dw p 1 else 0) 0 0 0 0)

/-- The service column runs: the module has booted (13: R224). -/
def State.serving (s : State) : Bool := s.service.boot == 5

/-- Take the head packet of a ring when it is one of `mine`: a wrong LEN is refused, anything else goes to `f`. -/
def State.takePacketOf (s : State) (q : CmdSource) (mine : List W64 → Bool) (len : Nat) (f : Nat → Nat → List W64 → State → State) : State :=
  match q with
  | .mctp _ => s
  | .ring port ring =>
    match s.headPacket port ring with
    | none => s
    | some (order, p) =>
      if !mine p || !s.serving then s
      else
        let s1 := s.popPacket port ring
        if fld (dw p 0) 15 8 ≠ len then s1.badPacket port p else f port order p s1

/-- A header's reserved field is set. -/
def headReserved (p : List W64) : Bool := fld (dw p 0) 31 16 != 0

/-- The header's reserved field or a doubleword that a packet of one unit does not use is set; `used` are in use. -/
def unitReserved (p : List W64) (used : Nat) : Bool := headReserved p || (countFrom used (8 - used)).any (fun i => dw p i != 0)

/-! ## Kernel headers (R279, R280) -/

/-- Doublewords of an address space's memory as the front end reads them on committed state (R159, R203). -/
def State.frontRead (s : State) (asid : BitVec 16) (va n : Nat) : State × Option (List W64) :=
  if 2 ^ 57 < va + 8 * n ∨ va % 8 ≠ 0 then (s, none) else s.readVirts asid (s.rootFor asid) 0 none va n

/-- Bytes of the ring area that RASZ selects. -/
def areaOf (rasz : Nat) : Nat := if rasz = 0 then 1048576 else rasz * 262144

/-- A safe-point entry of a header. -/
def safePointAt (h : List W64) (i : Nat) : SafePoint :=
  { ident := fld (dw h (40 + 4 * i)) 7 0, save := (dw h (41 + 4 * i)).toNat, restore := (dw h (42 + 4 * i)).toNat, size := (dw h (43 + 4 * i)).toNat }

/-- A 16-byte descriptor of a header. -/
def headSeg (h : List W64) (g : Nat) : BitVec 128 := BitVec.ofNat 128 ((dw h (8 + 2 * g)).toNat + (dw h (9 + 2 * g)).toNat * 2 ^ 64)

/-- Safe points a header declares. -/
def nsafe (h : List W64) : Nat := fld (dw h 4) 16 8

/-- A field that must be zero is not (R279, R280). -/
def headNonzero (h : List W64) : Bool :=
  fld (dw h 0) 63 48 != 0 || fld (dw h 4) 7 4 != 0 || fld (dw h 4) 63 17 != 0 || dw h 5 &&& ~~~0x0FFF0FFF0FFF0FFF != 0 || dw h 7 != 0 ||
  segBase (headSeg h 0) != 0 || (countFrom 0 7).any (fun g => segReserved (headSeg h g)) ||
  (countFrom 0 (nsafe h)).any (fun i => fld (dw h (40 + 4 * i)) 63 8 != 0)

/-- The header is malformed (R280); `h` holds the fixed part and the safe points. -/
def headMalformed (h : List W64) : Bool :=
  let hsize := fld (dw h 1) 31 0
  let imgsz := fld (dw h 1) 63 32
  let entry := (dw h 2).toNat
  let trap := (dw h 3).toNat
  let sps := (countFrom 0 (nsafe h)).map (safePointAt h)
  let offs := entry :: trap :: (sps.map (·.save) ++ sps.map (·.restore))
  fld (dw h 0) 31 0 != 0x4E52454B || fld (dw h 0) 47 32 != 1 || headNonzero h ||
  offs.any (fun o => decide (imgsz ≤ o)) || entry % 4 != 0 || trap % 4 != 0 ||
  decide (8 < fld (dw h 4) 3 0) || decide (256 < nsafe h) ||
  (countFrom 0 16).any (fun q => rcfgStatus (dw h (24 + q)) (areaOf (fld (dw h 4) 3 0)) != 0) ||
  dw h 6 == 0 || fld (dw h 6) 5 0 != 0 || headSeg h 7 != 0 ||
  (dedup (sps.map (·.ident))).length != sps.length ||
  hsize != 0x140 + 32 * nsafe h || decide (imgsz < hsize) || decide (entry < hsize) || (trap != 0 && decide (trap < hsize))

/-- What a well-formed header gives the gang whose image lies at `image`. -/
def kernelOf (image : Nat) (h : List W64) : Kernel :=
  let seg0 := headSeg h 0 ||| BitVec.ofNat 128 (image / 64 * 64)
  { entry := (dw h 2).toNat, imgsz := fld (dw h 1) 63 32, trap := (dw h 3).toNat, area := areaOf (fld (dw h 4) 3 0), fmtdef := dw h 5, spill := (dw h 6).toNat,
    segs := seg0 :: (countFrom 1 6).map (headSeg h), rings := (countFrom 24 16).map (dw h),
    safepts := (countFrom 0 (nsafe h)).map (safePointAt h) }

/-- A word that takes the REPRO promise from a kernel (11: R202). -/
def unordered (w : W32) : Bool :=
  match decode w with
  | .ok (.amofaddU _ _ _ _) => true
  | .ok (.cmfaddU _ _ _) => true
  | .ok (.mdrain _ m _ _ _ _ _) => m == 4#3 || m == 6#3
  | .ok (.cpy _ _ _ _ _ w) => w == 2#2
  | _ => false

/-- The two words of a doubleword. -/
def halves (w : W64) : List W32 := [w.setWidth 32, (w >>> 32).setWidth 32]

/-- The kernel carries REPRO (R202): no word from HSIZE to IMGSZ takes it. The image's doublewords are given. -/
def reproOf (h : List W64) (ws : List W64) : Bool :=
  let from_ := fld (dw h 1) 31 0 / 4
  let to_ := fld (dw h 1) 63 32 / 4
  ((((ws.map halves).flatten).take to_).drop from_).all (fun w => !unordered w)

/-- Read and check the kernel at an image address (R161, R280); none is refused with KERNEL. -/
def State.readKernel (s : State) (asid : BitVec 16) (image : Nat) (det : Bool) : State × Option Kernel :=
  if image % 64 ≠ 0 then (s, none)
  else match s.frontRead asid image 40 with
    | (s1, none) => (s1, none)
    | (s1, some h0) =>
      if 256 < nsafe h0 then (s1, none)
      else match s1.frontRead asid (image + 320) (4 * nsafe h0) with
        | (s2, none) => (s2, none)
        | (s2, some sp) =>
          let h := h0 ++ sp
          if headMalformed h then (s2, none)
          else if !det then (s2, some (kernelOf image h))
          else match s2.frontRead asid image ((fld (dw h 1) 63 32 + 7) / 8) with
            | (s3, some ws) => (s3, if reproOf h ws then some (kernelOf image h) else none)
            | (s3, none) => (s3, none)

/-! ## LAUNCH fields (R160, R192) -/

/-- The launch a packet describes. -/
def launchOf (port ringPrio : Nat) (p : List W64) : Launch :=
  let d := dw p
  let g := fun (i hi lo : Nat) => fld (d i) hi lo
  { inst := 0, deps := [], port := port, cring := g 3 28 23, tag := BitVec.ofNat 32 (g 0 63 32), lid := d 1, image := g 2 56 0, tpc := g 3 14 8, cores := g 3 16 15,
    ord := bit (d 3) 29, rrm := g 3 31 30, det := bit (d 3) 32, prio := Nat.min (g 3 35 33) ringPrio, asid := BitVec.ofNat 16 (g 3 63 48),
    ox := g 4 5 0, oy := g 4 10 6, wd := g 4 17 11, ht := g 4 23 18, anyOrg := bit (d 4) 24,
    bms := BitVec.ofNat 8 ((countFrom 0 8).foldl (fun a n => a + (if bit (d 5) (8 * n) then 2 ^ n else 0)) 0),
    bmc := BitVec.ofNat 8 ((countFrom 0 8).foldl (fun a n => a + (if bit (d 5) (8 * n + 1) then 2 ^ n else 0)) 0),
    ww := (countFrom 0 6).map (fun f => g 6 (6 * f + 5) (6 * f)), widFirst := d 7, widLast := d 8,
    prods := (countFrom 10 (g 9 3 0)).map d, start := d 18, tsaddr := d 19, tsval := d 20, wtab := d 21, args := (countFrom 22 4).map d,
    guarded := g 0 7 0 == 2, gtol := BitVec.ofNat 32 (g 35 31 0), gbudget := if g 34 31 0 = 0 then 65536 else g 34 31 0,
    xtpc := g 33 33 27, xcores := g 33 26 25, xany := bit (d 33) 24, xht := g 33 23 18, xwd := g 33 17 11, xoy := g 33 10 6, xox := g 33 5 0,
    ximage := g 32 56 0 }

/-- A reserved bit of the LAUNCH layout is set. -/
def launchReserved (p : List W64) : Bool :=
  let d := dw p
  headReserved p || fld (d 2) 63 57 != 0 || fld (d 3) 7 0 != 0 || fld (d 3) 22 17 != 0 || fld (d 3) 47 36 != 0 || fld (d 4) 63 25 != 0 ||
  d 5 &&& ~~~0x0303030303030303 != 0 || fld (d 6) 63 36 != 0 || fld (d 9) 63 4 != 0 ||
  (countFrom 26 6).any (fun i => d i != 0) ||
  (countFrom 0 8).any (fun i => decide (fld (d 9) 3 0 ≤ i) && d (10 + i) != 0)

/-- A reserved bit of the GUARDED_LAUNCH fields is set, or a field there is out of range (R192). -/
def guardedBad (p : List W64) : Bool :=
  let d := dw p
  let l := launchOf 0 0 p
  fld (d 32) 63 57 != 0 || fld (d 33) 63 34 != 0 || fld (d 34) 63 32 != 0 || fld (d 35) 63 32 != 0 || (countFrom 36 12).any (fun i => d i != 0) ||
  bit (d 1) 63 || l.gbudget % 64 != 0 || decide (1048576 < l.gbudget) ||
  l.xcores == 0 || l.xtpc == 0 || decide (64 < l.xtpc) || l.xht == 0 || decide (32 < l.xht) || l.xwd == 0 || decide (64 < l.xwd) ||
  (l.xany && (l.xox != 0 || l.xoy != 0))

/-- Bounds of the launch's work identifiers by field (R164). -/
def Launch.fields (l : Launch) : List (Nat × Nat × Nat) := widFields l.widFirst l.widLast 0 l.ww

/-- The launch's work items. -/
def Launch.itemCount (l : Launch) : Nat := (l.fields.map (fun f => f.2.2 - f.2.1 + 1)).foldl (· * ·) 1

/-- The packet is refused with BADPKT (R161, R163, R164). -/
def launchBad (p : List W64) (l : Launch) : Bool :=
  let sum := l.ww.foldl (· + ·) 0
  launchReserved p || l.cores == 0 || l.rrm == 3 || l.tpc == 0 || decide (64 < l.tpc) || l.ht == 0 || decide (32 < l.ht) || l.wd == 0 || decide (64 < l.wd) ||
  decide (8 < fld (dw p 9) 3 0) || (l.anyOrg && (l.ox != 0 || l.oy != 0)) || decide (64 < sum) ||
  decide (2 ^ sum ≤ l.widFirst.toNat) || decide (2 ^ sum ≤ l.widLast.toNat) ||
  l.fields.any (fun f => decide (f.2.2 < f.2.1)) || decide (2 ^ 48 < l.itemCount) ||
  (l.guarded && guardedBad p)

/-! ## Checks of R161 -/

/-- A rectangle lies in the grid and keeps out of the service column (R14). -/
def State.inGrid (s : State) (ox oy wd ht : Nat) : Bool :=
  decide (ox + wd ≤ 64) && decide (oy + ht ≤ 32) && !(decide (ox < s.service.columnWidth) && decide (oy < 8))

/-- Origins in the order the scheduler tries them: the lowest y, then the lowest x. -/
def origins : List (Nat × Nat) := ((countFrom 0 32).map (fun y => (countFrom 0 64).map (fun x => (x, y)))).flatten

/-- Some place for a rectangle exists. -/
def State.shapeOk (s : State) (anyOrg : Bool) (ox oy wd ht : Nat) : Bool :=
  if anyOrg then origins.any (fun o => s.inGrid o.1 o.2 wd ht) else s.inGrid ox oy wd ht

/-- Two rectangles overlap. -/
def rectsMeet (ax ay aw ah bx by_ bw bh : Nat) : Bool :=
  decide (ax < bx + bw) && decide (bx < ax + aw) && decide (ay < by_ + bh) && decide (by_ < ay + ah)

/-- The launch is refused with SHAPE. -/
def State.shapeBad (s : State) (l : Launch) : Bool :=
  !s.shapeOk l.anyOrg l.ox l.oy l.wd l.ht ||
  (l.guarded && (!s.shapeOk l.xany l.xox l.xoy l.xwd l.xht ||
    (!l.anyOrg && !l.xany && rectsMeet l.ox l.oy l.wd l.ht l.xox l.xoy l.xwd l.xht)))

/-- GANGID of the exact gang of a launch identifier (R163). -/
def exactId (lid : W64) : W64 := lid ^^^ 0x8000000000000000

/-- The identifiers that a launch's gangs take. -/
def Launch.ids (l : Launch) : List W64 := if l.guarded then [l.lid, exactId l.lid] else [l.lid]

/-- GANGIDs of the live gangs of the module, those that wait for placement included. -/
def State.liveIds (s : State) : List W64 :=
  s.gangs.map (fun g => BitVec.ofNat 64 g.ident) ++ (s.waiting.map (fun w => w.launch.ids)).flatten ++ (s.unwritten.map (·.ids)).flatten

/-- The launch that an identifier names: the live one, placed, waiting or with its entry unwritten, else the last one completed; none when
it is neither live nor among the last 4,096 completed ones (R161, R163). -/
def State.bindProducer (s : State) (lid : W64) : Option Dep :=
  match s.gangs.filter (fun g => g.launch.lid == lid) with
  | g :: gs => some { inst := g.launch.inst, triggered := (g :: gs).any (·.triggered), code := none }
  | [] => match s.waiting.find? (fun w => w.launch.lid == lid) with
    | some w => some { inst := w.launch.inst, triggered := false, code := none }
    | none => match s.unwritten.find? (fun c => c.lid == lid) with
      | some c => some { inst := c.inst, triggered := c.triggered, code := none }
      | none => (s.completed.reverse.find? (fun c => c.lid == lid)).map (fun c => { inst := c.inst, triggered := c.triggered, code := some c.code })

/-- Refuse a launch with a code and grade on its own completion ring. -/
def State.refuseLaunch (s : State) (l : Launch) (p : List W64) (code grade : Nat) : State :=
  let s1 : State := if s.service.drain = .draining ∨ s.service.drain = .drained then
    { s with service := { s.service with refusedLaunches := s.service.refusedLaunches + 1 } } else s
  s1.complete l.port l.cring (s1.packetEntry p code grade l.lid 0 0 0 0)

/-- The kernels of a launch: the second part is the exact gang's. -/
def State.kernels (s : State) (l : Launch) : State × Option (Kernel × Option Kernel) :=
  match s.readKernel l.asid l.image l.det with
  | (s1, none) => (s1, none)
  | (s1, some k) =>
    if !l.guarded then (s1, some (k, none))
    else match s1.readKernel l.asid l.ximage l.det with
      | (s2, none) => (s2, none)
      | (s2, some x) => (s2, some (k, some x))

/-- Check a launch and accept it: it waits for placement (R161 to R163). -/
def State.acceptLaunch (s : State) (l : Launch) (p : List W64) (order : Nat) : State :=
  if launchBad p l then s.refuseLaunch l p 3 3
  else if s.shapeBad l then s.refuseLaunch l p 4 3
  else if l.ids.any s.liveIds.contains then s.refuseLaunch l p 5 3
  else if l.prods.any (fun p => (s.bindProducer p).isNone) then s.refuseLaunch l p 6 3
  else match s.kernels l with
    | (s1, none) => s1.refuseLaunch l p 7 3
    | (s1, some (k, x)) =>
      if s1.service.drain ≠ .normal then s1.refuseLaunch l p 8 1
      else
        let l1 := { l with inst := s1.service.launches, deps := l.prods.filterMap s1.bindProducer }
        let w : Waiting := { launch := l1, kernel := k, xkernel := x, aged := 0, since := s1.time.up, order := order }
        State.logTx { s1 with waiting := s1.waiting ++ [w], service := { s1.service with launches := s1.service.launches + 1 } }

/-! ## Timeline packets (R159) -/

/-- The place a timeline packet's address names: HBM of this module or of another; none is refused. One whose identifier bits are 0 is taken as a
local address, though 0 is also a module's identifier: the model's choice (assumption 74). -/
def State.tsemPlace (s : State) (a : W64) : Option Loc :=
  let low := fld a 43 0
  let home := BitVec.ofNat 16 (fld a 59 44)
  if fld a 63 60 ≠ 0 ∨ Config.hbmEnd ≤ low ∨ low % 8 ≠ 0 then none
  else some { home := if home = 0 ∨ home = s.moduleId then none else some home, pa := low }

/-- A timeline packet's address names no memory: one in the unpopulated range of this module is logged (01: R24). -/
def State.tsemRefused (s : State) (a : W64) : State :=
  let home := BitVec.ofNat 16 (fld a 59 44)
  if fld a 63 60 = 0 ∧ (home = 0 ∨ home = s.moduleId) ∧ Config.hbmEnd ≤ fld a 43 0 ∧ fld a 43 0 < Config.mmioBase then s.logAddr (fld a 43 0) else s

end Sys2Proof.Machine
end

