-- ==== Sys2Proof/Machine/LaunchEvents.lean ====
section
/-! DEFINITION. The front end processes a packet: NOP, launches and timeline packets (09: R159 to R163; 10: R192). -/
namespace Sys2Proof.Machine

/-- NOP (R159): no action and no entry; a packet of an unknown KIND is refused. -/
def execNop (q : CmdSource) (st : State) : Ans :=
  .next (match q with
    | .mctp _ => st
    | .ring port ring =>
      match st.headPacket port ring with
      | none => st
      | some (_, p) =>
        let kind := kindOf p
        if (kind = 0 ∨ 6 < kind) ∧ st.serving = true then
          let s1 := st.popPacket port ring
          if 6 < kind || fld (dw p 0) 15 8 != 1 || unitReserved p 1 then s1.badPacket port p else s1
        else st)

/-- LAUNCH (R160, R161): checked, and accepted or refused. -/
def execLaunch (q : CmdSource) (st : State) : Ans :=
  .next (st.asFront (frontKey q) (fun k => k.takePacketOf q (fun p => kindOf p == 1) 4 (fun port order p s =>
    match q with
    | .ring _ ring => s.acceptLaunch (launchOf port (st.cmdRing port ring).prio p) p order
    | .mctp _ => s)))

/-- GUARDED_LAUNCH (R192). -/
def execGuardedLaunch (q : CmdSource) (st : State) : Ans :=
  .next (st.asFront (frontKey q) (fun k => k.takePacketOf q (fun p => kindOf p == 2) 6 (fun port order p s =>
    match q with
    | .ring _ ring => s.acceptLaunch (launchOf port (st.cmdRing port ring).prio p) p order
    | .mctp _ => s)))

/-- A signal of the front end on a word of this module: one engine commit; a failure is logged (R159, R174). -/
def State.frontSignal (s : State) (l : Loc) (v : W64) : State :=
  if (s.homeFail l .serviceColumn).isSome || s.poisonedAt l 8 then s.logAddr l.pa
  else (s.timelineAt l v).getD (s.logAddr l.pa)

/-- TSEM_SIGNAL (R159): performed as TSEMSIG on a physical word, a far one as a far store; it waits while its line is
locked or a thread holds the commit token (02: R42, R44). -/
def execTsemSignal (q : CmdSource) (st : State) : Ans :=
  .next (
    let after := st.takePacketOf q (fun p => kindOf p == 3) 1 (fun port _ p s =>
      let v := dw p 2
      if unitReserved p 3 || v == 0 then s.badPacket port p
      else match s.tsemPlace (dw p 1) with
        | none => (s.tsemRefused (dw p 1)).badPacket port p
        | some l =>
          if l.home.isSome then
            { s with released := s.released ++ [{ item := .tsemSig l v .a (dw p 1), tid := frontTid, gang := 0, rank := 0, gangSize := 1, stage := .handed, sentAt := s.time.up }] }
          else s.frontSignal l v)
    let held := match q with
      | .ring port ring => (match st.headPacket port ring with
        | some (_, p) => kindOf p == 3 && (match st.tsemPlace (dw p 1) with | some l => l.home.isNone && st.barred frontTid [lineOf l.pa] | none => false)
        | none => false)
      | .mctp _ => false
    if held then st else after)

/-- The word of a TSEM_WAIT is at least its value; an unreadable word is not (R159). -/
def State.tsemReached (s : State) (l : Loc) (v : W64) : Bool :=
  (s.homeFail l (if l.home.isNone then .serviceColumn else .wounoLink)).isNone && !s.poisonedAt l 8 &&
  !(l.home.isNone && s.locked [lineOf l.pa]) && decide (v.toNat ≤ leNat (s.homeBytes l 8))

/-- TSEM_WAIT (R159): the packet stays at the head of its ring, and holds the later ones, until the word is reached. -/
def execTsemWait (q : CmdSource) (st : State) : Ans :=
  .next (
    let after := st.takePacketOf q (fun p => kindOf p == 4) 1 (fun port _ p s =>
      if unitReserved p 3 then s.badPacket port p
      else if (s.tsemPlace (dw p 1)).isNone then (s.tsemRefused (dw p 1)).badPacket port p else s)
    let waits := match q with
      | .ring port ring => (match st.headPacket port ring with
        | some (_, p) => kindOf p == 4 && fld (dw p 0) 15 8 == 1 && !unitReserved p 3 &&
            (match st.tsemPlace (dw p 1) with | some l => !st.tsemReached l (dw p 2) | none => false)
        | none => false)
      | .mctp _ => false
    if waits then st else after)

end Sys2Proof.Machine
end

