-- ==== Sys2Proof/Machine/Sched.lean ====
section
/-! DEFINITION. Placing, releasing and completing gangs (03: R65; 04: R70; 09: R162, R163, R167, R176; 10: R196; 11: R203;
15: R279). -/
namespace Sys2Proof.Machine

/-! ## Which gang, where (R162, R176) -/

/-- Effective priority of a waiting launch. -/
def Waiting.eff (w : Waiting) : Nat := Nat.min 7 (w.launch.prio + w.aged)

/-- A waiting launch stands before another: effective priority, then doorbell order. -/
def Waiting.ahead (a b : Waiting) : Bool := decide (b.eff < a.eff) || (a.eff == b.eff && decide (a.order < b.order))

/-- The head of the waiting launches. -/
def firstWaiting : List Waiting → Option Waiting
  | [] => none
  | w :: ws => match firstWaiting ws with
    | none => some w
    | some v => some (if v.ahead w then v else w)

/-- A cell is free for placement. -/
def State.cellFree (s : State) (cell : Nat) : Bool := (s.cell cell).owner.isNone && !s.inColumn cell && !(s.cell cell).faulty

/-- A rectangle's cells are free, and none is among `avoid`. -/
def State.rectFree (s : State) (ox oy wd ht : Nat) (avoid : List Nat) : Bool :=
  s.inGrid ox oy wd ht &&
  ((countFrom 0 (wd * ht)).map (rectCell ox oy wd ht false)).all (fun c => s.cellFree c && !avoid.contains c)

/-- Where a rectangle can be placed now. -/
def State.spot (s : State) (anyOrg : Bool) (ox oy wd ht : Nat) (avoid : List Nat) : Option (Nat × Nat) :=
  if anyOrg then origins.find? (fun o => s.rectFree o.1 o.2 wd ht avoid)
  else if s.rectFree ox oy wd ht avoid then some (ox, oy) else none

/-- Places for the gangs of a launch: of its gang, and of the exact gang of a guarded launch. -/
def State.spots (s : State) (l : Launch) : Option ((Nat × Nat) × Option (Nat × Nat)) :=
  match s.spot l.anyOrg l.ox l.oy l.wd l.ht [] with
  | none => none
  | some a =>
    if !l.guarded then some (a, none)
    else
      let mine := (countFrom 0 (l.wd * l.ht)).map (rectCell a.1 a.2 l.wd l.ht false)
      match s.spot l.xany l.xox l.xoy l.xwd l.xht mine with
      | none => none
      | some b => some (a, some b)

/-! ## Record descriptors (11: R203) -/

/-- The record descriptor of an image: BASE, SIZE, USED; none where it is unreadable or a reserved bit is set. -/
def State.recordDesc (s : State) (asid : BitVec 16) (image : Nat) : State × Option (W64 × Nat × Nat) :=
  if image < 64 then (s, none)
  else match s.frontRead asid (image - 64) 8 with
    | (s1, some d) =>
      (s1, if fld (dw d 3) 63 2 ≠ 0 ∨ (countFrom 4 4).any (fun i => dw d i != 0) = true then none
        else some (dw d 0, (dw d 1).toNat, (dw d 2).toNat))
    | (s1, none) => (s1, none)

/-- What a placed gang records into, or replays: base, size, entries; none refuses the launch. -/
def State.recordFor (s : State) (l : Launch) (image : Nat) : State × Option (W64 × Nat × List W64) :=
  if l.rrm = 0 then (s, some (0, 0, []))
  else match s.recordDesc l.asid image with
    | (s1, none) => (s1, none)
    | (s1, some (b, n, used)) =>
      if l.rrm = 1 then (s1, some (b, n, []))
      else match s1.frontRead l.asid b.toNat (used / 8) with
        | (s2, some ws) => (s2, some (b, n, ws))
        | (s2, none) => (s2, some (b, n, []))

/-! ## Placement (R162) -/

/-- The launch fields that shape the exact gang of a guarded launch (10: R192). -/
def Launch.exactly (l : Launch) : Launch :=
  { l with tpc := l.xtpc, cores := l.xcores, anyOrg := l.xany, ht := l.xht, wd := l.xwd, oy := l.xoy, ox := l.xox, image := l.ximage }

/-- A gang as its placement makes it. -/
def gangAt (l : Launch) (k : Kernel) (exact : Bool) (at_ : Nat × Nat) (r : W64 × Nat × List W64) : Gang :=
  { ident := (if exact then exactId l.lid else l.lid).toNat, launch := l, kernel := k, exact := exact,
    mate := if l.guarded then some (if exact then l.lid else exactId l.lid).toNat else none,
    size := l.wd * l.ht * perCell l.cores * l.tpc, ox := at_.1, oy := at_.2, wd := l.wd, ht := l.ht,
    placed := true, released := false, swapped := false, everPreempted := false, nextItem := 0,
    items := if exact then 0 else l.itemCount, queue := [], barriers := [], exited := [], retired := 0, passed := 0, failed := 0,
    overflowed := 0, flags := 0, grade := 0, code := 0, cause := 0, ended := false, triggered := false, req := .none, reqNext := false,
    savedCells := [], reqAt := 0, saves := [], record := r.2.2, recBase := r.1, recSize := r.2.1, recOverflow := false, recMismatch := false }

/-- The core registers and the segment table of a core that a gang takes (05: R85, R88; 15: R279). -/
def State.claimCore (s : State) (g : Gang) (core : Nat) : State :=
  let pa := Config.segTablePa + 128 * core
  let table := ((g.kernel.segs.take 7).map (fun d => leBytes 16 d.toNat)).flatten ++ List.replicate 16 0
  State.updCore { s with mem := Memory.writeBytes s.mem pa table } core (fun c => { c with
    ptroot := Map.get 0 s.service.roots g.launch.asid.toNat
    segtab := BitVec.ofNat 64 (8 * 2 ^ 48 + pa) })

/-- A gang takes a cell: ring area and ring words from the kernel header, accumulators and semaphores zeroed, its
cores' instruction caches invalidated (03: R65). -/
def State.claimCell (s : State) (g : Gang) (cell : Nat) : State :=
  let rings := (g.kernel.rings.zipIdx).foldl (fun m p => Map.set Ring.reset m p.2 { Ring.reset with word := p.1, epoch := (s.ringOf cell p.2).epoch + 1 }) []
  (((s.updCell cell (fun c => { c with
    owner := some g.ident, area := g.kernel.area, ringMem := [], rings := rings, smap := [], stash := [], stashDirty := [],
    sems := [], semq := [], accs := [] })).claimCore g (2 * cell)).claimCore g (2 * cell + 1)).dropCode cell

/-- The kernel image is placed as engine commits (03: R65), line by line, in regions of code (04: R80); unmapped and unreadable lines are passed over. -/
def State.placeImage (s : State) (asid : BitVec 16) : Nat → Nat → State
  | _, 0 => s
  | va, n + 1 =>
    let next := fun (k : State) => k.placeImage asid (va + 64) n
    match s.translateFor asid (s.rootFor asid) 0 va .load with
    | (s1, .error _) => next s1
    | (s1, .ok e) =>
      match s1.placeOf 0 asid 0 va e with
      | .inner key _ _ _ =>
        next (if isHostKey key || s1.poisoned.contains (lineOf key) then s1
          else (s1.codeRegion (regionOf key)).engineCommit (mcellsAt key (s1.bytesAt key 64)))
      | _ => next s1

/-- Place one gang. -/
def State.placeGang (s : State) (g : Gang) : State :=
  let s1 := g.cells.foldl (fun k c => k.claimCell g c) s
  State.placeImage { s1.logTx with gangs := s1.gangs ++ [g] } g.launch.asid g.launch.image ((g.kernel.imgsz + 63) / 64)

/-- A launch leaves the waiting ones. -/
def State.unwait (s : State) (lid : W64) : State := { s with waiting := s.waiting.filter (fun w => w.launch.lid != lid) }

/-- How a launch ends. -/
def Launch.ends (l : Launch) (code : Nat) (triggered : Bool) : Completed :=
  { inst := l.inst, lid := l.lid, ids := l.ids, code := code, triggered := triggered }

/-- End a waiting launch before it is placed, with a code and grade, flag 3 where it is KILLED. -/
def State.endWaiting (s : State) (l : Launch) (code grade : Nat) : State :=
  let e := [cplHead l.tag.toNat 0 code grade (if code = 2 then 8 else 0), l.lid, 0, 0, 0, 0, s.time.now, 0]
  (s.unwait l.lid).logTx.completeAs l.port l.cring e (some (l.ends code false))

/-- Place the head launch (R162, R176), or refuse it for its record descriptor (11: R203). A swapped-out gang neither ages nor goes
before it (assumption 75). -/
def State.placeHead (s : State) : State :=
  match firstWaiting s.waiting with
  | none => s
  | some w =>
    let l := w.launch
    match s.spots l with
    | none => s
    | some (a, b) =>
      let refuse := fun (k : State) => k.endWaiting l 7 3
      match s.recordFor l l.image with
      | (s1, none) => refuse s1
      | (s1, some r) =>
        match b, w.xkernel with
        | some b, some x =>
          (match s1.recordFor l l.ximage with
           | (s2, none) => refuse s2
           | (s2, some r2) => ((s2.unwait l.lid).placeGang (gangAt l w.kernel false a r)).placeGang (gangAt l.exactly x true b r2))
        | _, _ => (s1.unwait l.lid).placeGang (gangAt l w.kernel false a r)

/-! ## Release (R162, R279) -/

/-- Grant a gang's spill areas: a demand-zero range of its address space, its pages mapped (assumption 21). The second
part is its base. -/
def State.grantSpill (s : State) (g : Gang) : State × Nat :=
  let len := (g.size * g.kernel.spill + 65535) / 65536 * 65536
  let off := s.service.granted
  let r : AddrRange := { asid := g.launch.asid, base := Config.spillVa + off, len := len, rights := 3, backing := .demandZero,
                         frames := Config.spillPa + off,
                         fwmin := BitVec.ofNat 3 s.service.degMin, fwmax := BitVec.ofNat 3 s.service.degMax }
  let s1 := State.allocRegions { s with service := { s.service with ranges := s.service.ranges ++ [r], granted := off + 2 * len + 65536 } } r
  let pages := if s.service.roots.any (fun p => p.1 == r.asid.toNat) then countFrom 0 (len / 65536) else []
  (pages.foldl (fun k i => (k.mapPage r (r.base + 65536 * i)).1) s1, r.base)

/-- A thread of a gang at its release: pc = ENTRY, the header's segments, trap vector and formats; the first 16 contexts
of a core take its slots (R30, R162, R279). -/
def newThread (g : Gang) (tid rank spill : Nat) : Thread :=
  let c := g.contextOf rank
  { Thread.reset with
    tid := tid
    st := .runnable
    arch := { Arch.reset.setSlots g.kernel.fmtdef with pc := BitVec.ofNat 64 g.kernel.entry }
    gang := some g.ident
    rank := rank
    core := g.coreOf rank
    slot := if c < 16 then some c else none
    qpos := c
    seg := (((g.kernel.segs.take 7) ++ [mkSeg (spill + rank * g.kernel.spill) g.kernel.spill 6]).zipIdx).foldl (fun m p => Map.set 0 m p.2 p.1) []
    trapvec := BitVec.ofNat 64 g.kernel.trap }

/-- Release a placed gang. -/
def State.releaseGang (s : State) (g : Gang) : State :=
  let p := s.grantSpill g
  let ts := (countFrom 0 g.size).map (fun r => newThread g (s.nextTid + r) r p.2)
  -- the islands stay at full speed until 1 µs after START (14: R259)
  let s1 := g.cells.foldl (fun k c => k.keepFull (islandOf (2 * c)) g.launch.start.toNat) p.1.logTx
  let s2 := State.updGang { s1 with threads := p.1.threads ++ ts, nextTid := s.nextTid + g.size } g.ident (fun k => { k with released := true })
  (countFrom 0 (g.wd * g.ht)).foldl (fun k o => k.firstRestore g o) s2

/-! ## Completion (R167, R196) -/

/-- A command of the gang has not finished. -/
def State.outstanding (s : State) (g : Nat) : Bool :=
  s.cells.any (fun c => c.2.matq.any (fun m => m.who.gang == g) || c.2.copyq.any (fun m => m.who.gang == g)) ||
  s.released.any (fun r => r.gang == g && (match r.item with | .matrix _ _ => true | .copy _ _ => true | .adds _ _ _ _ _ _ _ => true | _ => false)) ||
  s.finished.any (fun f => f.who.gang == g)

/-- The whole gang is done and its commands have finished. -/
def State.gangDone (s : State) (g : Gang) : Bool := (g.released || g.ended) && !s.hasLive g.ident && !s.outstanding g.ident

/-- Perform TSVAL into TSADDR (R167 step 1); none while the word is locked or a thread holds the commit token (02: R44). The second part tells
success. -/
def State.completeSignal (s : State) (l : Launch) : Option (State × Bool) :=
  if l.tsaddr = 0 then some (s, true)
  else if l.tsval = 0 ∨ l.tsaddr.toNat % 8 ≠ 0 ∨ 2 ^ 57 < l.tsaddr.toNat + 8 then some (s, false)
  else match s.translateFor l.asid (s.rootFor l.asid) 0 l.tsaddr.toNat .store with
    | (s1, .error _) => some (s1, false)
    | (s1, .ok e) =>
      let place : Option (Loc × FabClass) := match s1.placeOf 0 l.asid 0 l.tsaddr.toNat e with
        | .inner key _ _ _ => some ({ home := none, pa := key }, .a)
        | .far home pa cls => some ({ home := some home, pa := pa }, cls)
        | _ => none
      let since := Map.get none s1.fabric.heldAt s1.fabric.asker
      match place with
      | none => some (s1, false)
      | some (p, cls) =>
        let i := if p.home.isNone then Initiator.serviceColumn else .wounoLink
        if p.home.any (fun h => s1.holds h cls since) then some ({ s1 with fabric := { s1.fabric with held := true } }, false)
        else if s1.isHere p && s1.barred frontTid [lineOf p.pa] then none
        else if (s1.homeFail p i cls since).isSome then some (s1.logHome p i, false)
        else if s1.poisonedAt p 8 then some (s1, false)
        else match s1.timelineAt p l.tsval with
          | some s2 => some (s2, true)
          | none => some (s1, false)

/-- Write doublewords at a virtual address of an address space, on LOCAL pages (11: R203). A doubleword that the firewall denies the service column
is not written, and is logged (13: R225, R226). -/
def State.frontWrite (s : State) (asid : BitVec 16) : Nat → List W64 → State
  | _, [] => s
  | va, w :: ws =>
    match s.translateFor asid (s.rootFor asid) 0 va .store with
    | (s1, .error _) => s1.frontWrite asid (va + 8) ws
    | (s1, .ok e) =>
      match s1.placeOf 0 asid 0 va e with
      | .inner key _ _ _ =>
        (if isHostKey key then s1
         else if !s1.permits .serviceColumn key true then s1.logDenied .serviceColumn key 1 true
         else s1.engineCommit (mcellsAt key (leBytes 8 w.toNat))).frontWrite asid (va + 8) ws
      | _ => s1.frontWrite asid (va + 8) ws

/-- At completion the record, its length and its marks are written (R203). -/
def State.writeRecord (s : State) (g : Gang) : State :=
  if g.launch.rrm = 0 then s
  else
    let marks := BitVec.ofNat 64 ((if g.recOverflow then 1 else 0) + (if g.recMismatch then 2 else 0))
    let desc := g.launch.image - 64
    if g.launch.rrm = 1 then
      (s.frontWrite g.launch.asid g.recBase.toNat g.record).frontWrite g.launch.asid (desc + 16) [BitVec.ofNat 64 (8 * g.record.length), marks]
    else s.frontWrite g.launch.asid (desc + 24) [marks]

/-- Sum of a count over gangs. -/
def sumOf {α : Type} (f : α → Nat) (gs : List α) : Nat := (gs.map f).foldl (· + ·) 0

/-- The completion entry of a launch's gangs (R167, R196). -/
def State.gangEntry (s : State) (gs : List Gang) (l : Launch) (sigOk : Bool) : List W64 :=
  let first := gs.find? (·.ended)
  let code := match first with | some g => g.code | none => 0
  let cause := match first with | some g => if g.code = 1 then g.cause else 0 | none => 0
  let grade := (gs.map (·.grade)).foldl Nat.max 0
  let prodTrap := l.deps.any (fun d => d.code == some 1)
  let flags := gs.foldl (fun a g => Nat.lor a (Nat.lor g.flags.toNat (if g.everPreempted then 16 else 0)))
    ((if sigOk then 0 else 4) + (if prodTrap then 32 else 0))
  let ids := gs.map (·.ident)
  let sq := sumOf (fun t => t.squashes.toNat) (s.allThreads.filter (fun t => match t.gang with | some i => ids.contains i | none => false))
  [cplHead l.tag.toNat cause code grade flags, l.lid, BitVec.ofNat 64 (sumOf (·.retired) gs), BitVec.ofNat 64 (sumOf (·.passed) gs),
   BitVec.ofNat 64 (sumOf (·.failed) gs), BitVec.ofNat 64 (sumOf (·.overflowed) gs), s.time.now, BitVec.ofNat 64 sq]

/-- A gang leaves its cells (04: R70): stash mappings go, the ring area is discarded. -/
def State.freeCells (s : State) (ident : Nat) : State :=
  { s with cells := Map.mapAll Cell.reset (fun (c : Cell) =>
      if c.owner = some ident then { c with owner := none, ringMem := [], rings := [], smap := [], stash := [], stashDirty := [], semq := [] } else c) s.cells }

/-- A gang's contexts go; only one empty context is kept. -/
def State.dropThreads (s : State) (ident : Nat) : State :=
  { s with
    th := if s.th.gang = some ident then Thread.reset else s.th
    threads := s.threads.filter (fun t => t.gang != some ident && (s.th.gang != some ident || t.tid != 0)) }

/-- Complete a launch whose gangs are done (R167): the signal, the entry, the vector. -/
def State.completeLaunch (s : State) (gs : List Gang) (l : Launch) : State :=
  match s.completeSignal l with
  | none => s
  | some (s1, ok) =>
    let s2 := gs.foldl State.writeRecord s1
    let e := s2.gangEntry gs l ok
    let s3 := gs.foldl (fun k g => (k.freeCells g.ident).dropThreads g.ident) s2
    let ids := gs.map (·.ident)
    let code := match gs.find? (·.ended) with | some g => g.code | none => 0
    let s4 : State := { s3 with gangs := s3.gangs.filter (fun g => !ids.contains g.ident) }
    s4.logTx.completeAs l.port l.cring e (some (l.ends code (gs.any (·.triggered))))

end Sys2Proof.Machine
end

