-- ==== Sys2Proof/Machine/SchedEvents.lean ====
section
/-! DEFINITION. Scheduler events: placement, release, aging, pre-emption, exits, completion, timed waits (09: R162, R166,
R167, R175 to R177; 11: R209; 13: R232). -/
namespace Sys2Proof.Machine

/-- GANG_PLACEMENT (R162, R176): only the head of the waiting launches is placed. -/
def execGangPlacement (st : State) : Ans := .next (if st.serving then st.asFront placeKey State.placeHead else st)

/-- GANG_RELEASE (R162, R192): once START has come, and every gang of the launch is placed. -/
def execGangRelease (gang : Nat) (st : State) : Ans :=
  .next (match st.findGang gang with
    | some g => if g.placed && !g.released && !g.ended && decide (g.launch.start.toNat ≤ st.time.now.toNat) then st.releaseGang g else st
    | none => st)

/-- PRIORITY_AGING (R176): the n-th waiting launch has waited another 100 ms. -/
def execPriorityAging (n : Nat) (st : State) : Ans :=
  .next (match st.waiting[n]? with
    | some w =>
      if w.since + 100 * Config.msUnits * (w.aged + 1) ≤ st.time.up then State.logTx { st with waiting := setAt st.waiting n { w with aged := w.aged + 1 } } else st
    | none => st)

/-- Ask a gang's threads to park at safe points: their open chunks are cut (R37, R177). -/
def State.askPark (s : State) (g : Nat) (r : SafeReq) : State :=
  (s.logTx.updGang g (fun k => { k with req := r, reqAt := s.time.up, savedCells := if r = .preempt then k.savedCells else [] })).mapThreads
    (fun t => if t.gang = some g ∧ t.chunk.isOpen = true then { t with cutReq := true } else t)

/-- PREEMPT_REQUEST (R176, R177): of a running gang of lower priority than the head launch, which cannot be placed; the
gang declares safe points. Behind a checkpoint it waits (13: R241). A running gang counts with its PRIO alone (assumption 75). -/
def execPreemptRequest (gang : Nat) (st : State) : Ans :=
  .next (match st.findGang gang, firstWaiting st.waiting with
    | some g, some w =>
      if (st.spots w.launch).isSome || !g.placed || !g.released || g.ended || g.kernel.safepts.isEmpty || decide (w.eff ≤ g.launch.prio) then st
      else match g.req with
        | .none => st.askPark gang .preempt
        | .preempt => st
        | .checkpoint _ => if g.reqNext then st else st.logTx.updGang gang (fun k => { k with reqNext := true })
    | _, _ => st)

/-- The cell's engines have nothing to do and nothing on its way. -/
def State.cellQuiet (s : State) (cell : Nat) : Bool :=
  (s.cell cell).matq.isEmpty && (s.cell cell).copyq.isEmpty && !s.finished.any (fun f => f.cell == cell) &&
  !s.released.any (fun r => match r.item with | .matrix c _ => c == cell | .copy c _ => c == cell | _ => false)

/-- CELL_SAVE (R177): every live thread of the cell has parked and its queues are empty, so its save routine starts; a
cell of which no live thread stands at a safe point, whose routine would run, is saved at once (assumption 71). -/
def execCellSave (cell : Nat) (st : State) : Ans :=
  .next (match (st.cell cell).owner.bind st.findGang with
    | none => st
    | some g =>
      match (countFrom 0 (g.wd * g.ht)).find? (fun o => rectCell g.ox g.oy g.wd g.ht g.launch.ord o == cell) with
      | none => st
      | some o =>
        if g.req == .none || g.ended || g.savedCells.contains o || !st.cellParked g o || !st.cellQuiet cell then st
        else if !(st.cellThreads g o).any Thread.standsAtSafept then st.cellSaved g o
        else st.startRoutine g o true 0)

/-- Contexts of a gang's cells of some orders come back to their cores, and their restore routines start; where no context of a cell stands at a safe
point, those in FAULT-WAIT go on. -/
def State.reload (s : State) (g : Gang) (os : List Nat) (ret : W64) : State :=
  let s1 := s.mapThreads (fun t =>
    if t.gang = some g.ident ∧ t.live = true ∧ os.contains (g.orderOf t.rank) = true then
      { t with core := g.coreOf t.rank, slot := if g.contextOf t.rank < 16 then some (g.contextOf t.rank) else none, qpos := g.contextOf t.rank }
    else t)
  os.foldl (fun k o => if (k.cellThreads g o).any Thread.standsAtSafept then k.startRoutine g o false ret else k.refault g o) s1

/-- The cells of a gang that were saved for a pre-emption that has been cancelled are taken back, once they are all free. -/
def State.takeBack (s : State) (g : Gang) : State :=
  let saved := g.savedCells.map (rectCell g.ox g.oy g.wd g.ht g.launch.ord)
  if saved.isEmpty || !saved.all s.cellFree then s
  else
    let s1 := saved.foldl (fun k c => k.claimCell g c) (s.logTx.updGang g.ident (fun k => { k with savedCells := [] }))
    s1.reload g g.savedCells 0

/-- PREEMPT_CANCEL (R177): a request not met in 100 ms; every parked SAFEPT returns 0. Cells saved already come back as soon as they
are free, at once or at a later step of this kind. -/
def execPreemptCancel (gang : Nat) (st : State) : Ans :=
  .next (match st.findGang gang with
    | none => st
    | some g =>
      if g.ended || g.swapped then st
      else match g.req with
        | .none => st.takeBack g
        | .checkpoint _ => st
        | .preempt =>
          if st.time.up < g.reqAt + 100 * Config.msUnits then st
          else
            let s1 := st.logTx.updGang gang (fun k => { k with req := .none })
            (s1.safeReturn (fun t => t.gang == some gang && !g.savedCells.contains (g.orderOf t.rank)) 0).takeBack g)

/-- Where a swapped-out gang can come back: its launch's rectangle, else the first free one. -/
def State.restoreSpot (s : State) (g : Gang) : Option (Nat × Nat) :=
  match (if g.launch.anyOrg then none else s.spot false g.launch.ox g.launch.oy g.wd g.ht []) with
  | some a => some a
  | none => s.spot true 0 0 g.wd g.ht []

/-- GANG_RESTORE (R176, R177): on a free rectangle, unless a waiting launch of higher priority stands before it. -/
def execGangRestore (gang : Nat) (st : State) : Ans :=
  .next (match st.findGang gang with
    | none => st
    | some g =>
      let ahead := match firstWaiting st.waiting with | some w => decide (g.launch.prio < w.eff) | none => false
      if !g.swapped || g.ended || ahead then st
      else match st.restoreSpot g with
        | none => st
        | some a =>
          let h := { g with ox := a.1, oy := a.2, placed := true, swapped := false }
          let s1 := st.logTx.updGang gang (fun _ => h)
          let s2 := h.cells.foldl (fun k c => k.claimCell h c) s1
          s2.reload h (countFrom 0 (h.wd * h.ht)) 1)

/-- Barrier phases that an exit completes (R169). -/
def State.exitArrivals (s : State) (gid : Nat) : State :=
  let s1 := s.updGang gid (fun g => (countFrom 0 8).foldl (fun k b => k.advance b ((k.barrier b).arrivals.length)) g)
  match s1.findGang gid with
  | none => s1
  | some g => s1.wakeIf (fun t => t.st == .parked && t.gang == some gid &&
      (match t.wait with | .barrier n ph => decide (ph < (g.barrier n).done) | _ => false)) true

/-- THREAD_EXIT (R166, R167, R169, R179): once the fence.sys condition holds, the thread is gone and its done message is
sent; a replay that has entries left for it disagrees (11: R205). -/
def execThreadExit (tid : Nat) (st : State) : Ans :=
  .next (match st.findTid tid with
    | none => st
    | some t =>
      if t.st != .exiting || t.chunk.isOpen || !st.fenceHolds tid 2 then st
      else
        let s1 := (st.freeDone tid).updTid tid Thread.gone
        match t.gang.bind st.findGang with
        | none => s1
        | some g =>
          let counts := (countFrom 0 8).map (fun b => Map.get 0 t.arch.arrivals b)
          let s2 := (s1.updGang g.ident (fun k => { k with exited := k.exited ++ [(t.rank, counts)] })).exitArrivals g.ident
          let s3 := if g.launch.rrm = 2 ∧ (rankCommit t.rank 0 g.record).isSome = true then s2.mismatch g.ident else s2
          if s3.hasLive g.ident then s3 else s3.wakeTasks)

/-- GANG_COMPLETION (R167, R196): of a launch, by the gang that carries its identifier. -/
def execGangCompletion (gang : Nat) (st : State) : Ans :=
  .next (match st.findGang gang with
    | none => st
    | some g =>
      let gs := g :: (match g.mate.bind st.findGang with | some m => [m] | none => [])
      if g.exact || !gs.all st.gangDone then st else st.asFront (completeKey gang) (fun k => k.completeLaunch gs g.launch))

/-- End every live gang KILLED with a grade, also those of the launches that wait for placement (R232; 09: R161). -/
def State.killAll (s : State) (grade : Nat) : State :=
  let s1 := (s.gangs.map (·.ident)).foldl (fun k i => k.endGang i 2 grade 0 8#8) s
  s.waiting.foldl (fun k w => k.endWaiting w.launch 2 grade) s1

/-- DRAIN_KILL_TIMEOUT (R232). -/
def execDrainKillTimeout (st : State) : Ans :=
  .next (
    let v := st.service
    if v.drain = .draining ∧ v.killMs ≠ 0 ∧ v.drainAt + v.killMs * Config.msUnits ≤ st.time.up then st.killAll 1 else st)

/-- WAITT_EXPIRY (R209, R387): the timebase has reached the awaited value. -/
def execWaittExpiry (tid : Nat) (st : State) : Ans :=
  .next (match st.findTid tid with
    | some t => (match t.wait with
      | .time v => if t.st = .parked ∧ v.toNat ≤ st.time.now.toNat then (if t.slot.isSome then st.keepFull (islandOf t.core) v.toNat else st).wake tid false else st
      | _ => st)
    | none => st)

/-- The word a context waits on can no longer be read. -/
def State.waitLost (s : State) (l : Loc) : Bool :=
  s.poisonedAt l 8 || (l.home.isSome && (s.homeFail l .wounoLink).isSome)

/-- What a waiter that reads its word again finds: its comparison holds, or the read fails, which its instruction then meets. A word in the
MMIO range is a register, and is read as one. -/
def State.recheck (s : State) (t : Thread) (l : Loc) (holds : W64 → Bool) : Bool :=
  if l.home.isNone && decide (Config.mmioBase ≤ l.pa) && !isHostKey l.pa then
    match s.mmioLoad (s.initOf t.tid) l.pa 8 with
    | some bs => holds (BitVec.ofNat 64 (leNat bs))
    | none => true
  else holds (s.readWord l) || s.waitLost l

/-- WAIT_RECHECK (R175): a waiter without a wait-list entry reads its word again. -/
def execWaitRecheck (tid : Nat) (st : State) : Ans :=
  .next (match st.findTid tid with
    | some t =>
      if t.st != .parked || t.waitEntry then st
      else match t.wait with
        | .word l cmp c => if st.recheck t l (waitHolds cmp c) then st.wake tid true else st
        | .timeline l v => if st.recheck t l (fun w => decide (v.toNat ≤ w.toNat)) then st.wake tid true else st
        | _ => st
    | none => st)

end Sys2Proof.Machine
end

