-- ==== Sys2Proof/Machine/DrainEvents.lean ====
section
/-! DEFINITION. Drain requests: query, DRAIN, RESUME, RETIRE (13: R232, R233). -/
namespace Sys2Proof.Machine

/-- The entry that answers a drain request (R233). -/
def State.drainEntry (s : State) (p : List W64) (refused : Bool) : List W64 :=
  [cplHead (fld (dw p 0) 63 32) 0 0 0 0, 0, BitVec.ofNat 64 s.service.drain.code, BitVec.ofNat 64 s.gangs.length,
   BitVec.ofNat 64 (sumOf (fun w => w.launch.ids.length) s.waiting), BitVec.ofNat 64 s.service.refusedLaunches, w64 refused, 0]

/-- A doubleword of R233 with its reserved bits zero. -/
def drainWordOk (w : W64) : Bool := fld w 31 2 == 0

/-- Serve a drain request of one kind, from a ring or over MCTP: `act` takes the kill time and says whether the request
is allowed. -/
def State.drainRequest (s : State) (q : CmdSource) (req : Nat) (act : Nat → State → State × Bool) : State :=
  match q with
  | .mctp w => if fld w 1 0 = req ∧ drainWordOk w = true ∧ s.serving = true then (act (fld w 63 32) s).1.drainCheck else s
  | .ring _ _ =>
    s.takePacketOf q (fun p => kindOf p == 6 && fld (dw p 1) 1 0 == req) 1 (fun port _ p k =>
      if unitReserved p 2 || !drainWordOk (dw p 1) then k.badPacket port p
      else
        let r := act (fld (dw p 1) 63 32) k
        r.1.complete port 0 (r.1.drainEntry p (!r.2)))

/-- Launches that wait for placement complete with DRAINING, grade A. -/
def State.drainWaiting (s : State) : State :=
  s.waiting.foldl (fun k w => k.endWaiting w.launch 8 1) s

/-- DRAIN_QUERY (R233). -/
def execDrainQuery (q : CmdSource) (st : State) : Ans := .next (st.drainRequest q 0 (fun _ s => (s, true)))

/-- DRAIN (R232): NORMAL becomes DRAINING. -/
def execDrain (q : CmdSource) (st : State) : Ans :=
  .next (st.drainRequest q 1 (fun kill s =>
    if s.service.drain = .normal then
      let s1 : State := { s with service := { s.service with killMs := kill, drainAt := s.time.up, refusedLaunches := 0 } }
      (s1.drainWaiting.enterDrain .draining, true)
    else (s, false)))

/-- RESUME (R232): DRAINING and DRAINED become NORMAL. -/
def execResume (q : CmdSource) (st : State) : Ans :=
  .next (st.drainRequest q 2 (fun _ s =>
    if s.service.drain = .draining ∨ s.service.drain = .drained then (s.enterDrain .normal, true) else (s, false)))

/-- RETIRE (R232): DRAINED becomes RETIRED. -/
def execRetire (q : CmdSource) (st : State) : Ans :=
  .next (st.drainRequest q 3 (fun _ s => if s.service.drain = .drained then (s.enterDrain .retired, true) else (s, false)))

end Sys2Proof.Machine
end

