-- ==== Sys2Proof/Machine/Ckpt.lean ====
section
/-! DEFINITION. Checkpoints: requests, pool areas, gather, verify and restore (13: R236 to R241). -/
namespace Sys2Proof.Machine

/-! ## CRC-32C (R237; assumption 29) -/

/-- One bit of CRC-32C, reflected form. -/
def crcBit (c : Nat) : Nat := if c % 2 = 1 then Nat.xor (c / 2) 0x82F63B78 else c / 2
/-- One byte of CRC-32C. -/
def crcByte (c : Nat) (b : Byte) : Nat := (countFrom 0 8).foldl (fun k _ => crcBit k) (Nat.xor c b.toNat)
/-- CRC-32C of bytes. -/
def crc32c (bs : List Byte) : Nat := Nat.xor (bs.foldl crcByte 0xFFFFFFFF) 0xFFFFFFFF

/-! ## Firmware's accesses to a job's memory -/

/-- Map bytes of an address space piece by piece, for accesses as an initiator; none where a piece has no place, or its home turns it away. -/
def State.frontRuns (s : State) (asid : BitVec 16) (i : Initiator) (acc : Access) : List (Nat × Nat) → State × Option (List (Loc × Nat))
  | [] => (s, some [])
  | (va, n) :: rest =>
    match s.frontLoc asid (s.rootFor asid) 0 i acc va n with
    | (s1, none) => (s1, none)
    | (s1, some l) =>
      match s1.frontRuns asid i acc rest with
      | (s2, none) => (s2, none)
      | (s2, some rs) => (s2, some ((l.1, n) :: rs))

/-- Pieces of one line each. -/
def linePieces (va n : Nat) : List (Nat × Nat) := loadPieces 64 (n / 64 + 2) va n

/-- Read mapped bytes. -/
def State.readRuns (s : State) (rs : List (Loc × Nat)) : State × List Byte :=
  (rs.foldl (fun k r => k.seeFar r.1 r.2) s, (rs.map (fun r => s.farBytes r.1 r.2)).flatten)

/-- Committed bytes of a job's memory. -/
def State.jobBytes (s : State) (asid : BitVec 16) (va n : Nat) : State × Option (List Byte) :=
  match s.frontRuns asid .serviceColumn .load (linePieces va n) with
  | (s1, none) => (s1, none)
  | (s1, some rs) => ((s1.readRuns rs).1, some (s1.readRuns rs).2)

/-- Committed doublewords of a job's memory. -/
def State.jobWords (s : State) (asid : BitVec 16) (va n : Nat) : State × Option (List W64) :=
  match s.jobBytes asid va (8 * n) with
  | (s1, some bs) => (s1, some (wordsOf n bs))
  | (s1, none) => (s1, none)

/-- Bytes to write and where: a piece's place with its share of the bytes. -/
def sharesOf : List (Loc × Nat) → List Byte → List (Loc × List Byte)
  | [], _ => []
  | (l, n) :: rs, bs => (l, bs.take n) :: sharesOf rs (bs.drop n)

/-- Write mapped bytes as one engine commit of this module, and at their homes elsewhere. -/
def State.putShares (s : State) (ps : List (Loc × List Byte)) : State :=
  s.putLocs ((ps.map (fun p => (p.2.zipIdx).map (fun b => (({ p.1 with pa := p.1.pa + b.2 } : Loc), BitVec.allOnes 8, b.1)))).flatten)

/-- Write bytes to a job's memory; false where a place is missing, and then nothing is written. -/
def State.jobPut (s : State) (asid : BitVec 16) (va : Nat) (bs : List Byte) : State × Bool :=
  match s.frontRuns asid .serviceColumn .store (linePieces va bs.length) with
  | (s1, none) => (s1, false)
  | (s1, some rs) => (s1.putShares (sharesOf rs bs), true)

/-- Bytes of doublewords. -/
def wordBytes (ws : List W64) : List Byte := (ws.map (fun w => leBytes 8 w.toNat)).flatten

/-! ## Requests (R236, R238) -/

/-- The result codes of R239. -/
inductive CkptResult where
  | done | timeout | noSafept | caravan | copyFault | mixStep | busy
  deriving DecidableEq, Repr

/-- The number of a result. -/
def CkptResult.code : CkptResult → Nat
  | .done => 0 | .timeout => 1 | .noSafept => 2 | .caravan => 3 | .copyFault => 4 | .mixStep => 5 | .busy => 6
/-- The grade of a result. -/
def CkptResult.grade : CkptResult → Nat
  | .done => 0 | .timeout => 1 | .noSafept => 3 | .caravan => 1 | .copyFault => 2 | .mixStep => 3 | .busy => 1

/-- The entry of a checkpoint request, on completion ring 0 of its port (09: R159; R239). -/
def State.ckptEntry (s : State) (port tag : Nat) (r : CkptResult) (detail : Nat) (step : W64) (cid : Nat) : State :=
  s.complete port 0 [cplHead tag 0 0 r.grade 0, 0, BitVec.ofNat 64 r.code, BitVec.ofNat 64 detail, step, BitVec.ofNat 64 cid, s.time.now, 0]

/-- A checkpoint of the job runs. -/
def State.ckptRuns (s : State) (asid : BitVec 16) : Bool := s.ckpts.any (fun c => c.asid == asid && c.running)

/-- The job's gangs. -/
def State.jobGangs (s : State) (asid : BitVec 16) : List Gang := s.gangs.filter (fun g => g.launch.asid == asid && !g.ended)

/-- Contexts of the job's gangs. -/
def State.jobThreads (s : State) (asid : BitVec 16) : List Thread :=
  s.allThreads.filter (fun t => t.live && (match t.gang.bind s.findGang with | some g => g.launch.asid == asid && !g.ended | none => false))

/-- The committed part of a context. -/
def Thread.committed (t : Thread) : Arch := if t.chunk.isOpen then t.chunk.start else t.arch

/-- The job step: the least committed STEP among threads that have executed CKPTSTEP (R238). -/
def State.jobStep (s : State) (asid : BitVec 16) : Nat :=
  (((s.jobThreads asid).filter (fun t => t.committed.stepped)).map (fun t => t.committed.step.toNat)).min?.getD 0

/-- The target step of a checkpoint (R238); with PERIOD 0 under MODE 1 it is a free value (assumption 5). -/
def State.targetStep (s : State) (c : Ckpt) : State × W64 :=
  let j := s.jobStep c.asid
  if c.mode = 1 then
    if c.period = 0 then ({ s with free := s.free + 1 }, Config.freeWord s.free)
    else (s, BitVec.ofNat 64 ((j / c.period.toNat + 1) * c.period.toNat))
  else (s, BitVec.ofNat 64 (j + 1))

/-- Replace the first request of a job that meets a test; none removes it. -/
def updCkpt (p : Ckpt → Bool) (f : Ckpt → Option Ckpt) : List Ckpt → List Ckpt
  | [] => []
  | c :: cs => if p c then (match f c with | some d => d :: cs | none => cs) else c :: updCkpt p f cs

/-- A request of which no checkpoint runs. -/
def Ckpt.idle (c : Ckpt) : Ckpt :=
  { c with running := false, carav := none, areas := [], shards := [], slot := 0, crcs := [], entered := 0, stored := false }

/-- A request after one of its checkpoints has ended: a periodic one is armed again. -/
def Ckpt.rearm (c : Ckpt) : Option Ckpt :=
  if c.mode = 1 then some c.idle
  else if c.mode = 2 then some { c.idle with nextAt := c.nextAt + c.period.toNat * Config.msUnits }
  else none

/-- End the running checkpoint of a job: its parked SAFEPTs return a value, but for a gang that is swapped out, which comes back by its restore
routines; a pre-emption that waited follows (R238, R241); the entry is written. -/
def State.ckptEnd (s : State) (c : Ckpt) (r : CkptResult) (detail cid : Nat) (ret : W64) : State :=
  let ids := (s.jobGangs c.asid).map (·.ident)
  let clear := fun (g : Gang) => match g.req with
    | .checkpoint _ => { g with req := if g.reqNext then .preempt else .none, reqNext := false, reqAt := s.time.up, savedCells := [] }
    | _ => g
  let s1 : State := { s.logTx with
    gangs := s.gangs.map (fun g => if ids.contains g.ident then clear g else g)
    ckpts := updCkpt (fun d => d.asid == c.asid && d.running) Ckpt.rearm s.ckpts }
  let s2 := s1.safeReturn (fun t => match t.gang.bind s.findGang with
    | some g => ids.contains g.ident && !g.swapped && (match g.req with | .checkpoint _ => true | _ => false) | none => false) ret
  s2.ckptEntry c.port c.tag.toNat r detail c.target cid

/-- A CKPT packet with a MODE. -/
def isCkpt (mode : Nat → Bool) (p : List W64) : Bool := kindOf p == 5 && mode (fld (dw p 1) 18 16)

/-- A CKPT packet is refused with BADPKT; so is one with a data slot whose size is no multiple of 1 MiB (assumption 40). -/
def ckptBad (p : List W64) : Bool :=
  headReserved p || fld (dw p 1) 63 19 != 0 || decide (5 < fld (dw p 1) 18 16) || (fld (dw p 1) 18 16 != 3 && (dw p 7).toNat % 1048576 != 0)

/-- The request of a CKPT packet. -/
def ckptOf (port : Nat) (p : List W64) (now : Nat) : Ckpt :=
  { asid := BitVec.ofNat 16 (fld (dw p 1) 15 0), mode := fld (dw p 1) 18 16, period := dw p 2, pool := dw p 3, rtab := dw p 4,
    count := fld (dw p 5) 31 0, slotsz := dw p 7, port := port, tag := BitVec.ofNat 32 (fld (dw p 0) 63 32), target := 0, running := false,
    nextAt := now + (if fld (dw p 1) 18 16 = 2 then (dw p 2).toNat * Config.msUnits else 0), startAt := 0, carav := none, areas := [],
    shards := [], slot := 0, crcs := [], entered := 0, stored := false }

/-- Take a request for checkpoints; a second one while one runs is BUSY, and so is one while another of its MODE is pending (assumption 40). -/
def State.askCkpt (s : State) (q : CmdSource) (mode : Nat → Bool) : State :=
  s.takePacketOf q (isCkpt mode) 1 (fun port _ p k =>
    let c := ckptOf port p k.time.up
    if ckptBad p then k.badPacket port p
    else if k.ckptRuns c.asid || k.ckpts.any (fun d => d.asid == c.asid && d.mode == c.mode) then k.ckptEntry port c.tag.toNat .busy 0 0 0
    else { k with ckpts := k.ckpts ++ [c] })

/-! ## The pool area (R237) -/

/-- A manifest: STEP, caravan identifier, SLOT, NSHARD, timebase. -/
structure Manifest where
  step : W64
  cid : W64
  slot : Nat
  nshard : Nat
  deriving DecidableEq, Repr

/-- A manifest line's fields. -/
def manifestOf (ws : List W64) : Manifest := { step := dw ws 0, cid := dw ws 1, slot := (dw ws 2).toNat % 2, nshard := (dw ws 3).toNat }

/-- Where a data slot begins. -/
def slotBase (pool slotsz slot : Nat) : Nat := pool + 1048576 + slot * slotsz

/-- The detail of COPYFAULT: a CPYST word with the code and side of the copy that failed (08: R154). -/
def ckptFault (code : Nat) (side : Bool) : Nat := ({ CopyRec.reset with flt := true, side := side, code := code } : CopyRec).word.toNat

/-- The save area of a cell as a shard: through the segments of its thread of lowest rank. None fails. -/
def State.areaShard (s : State) (g : Gang) (o : Nat) : Option (Option Shard) :=
  match lowestRank (s.cellThreads g o) with
  | none => some none
  | some t =>
    match g.saves.find? (fun p => p.1 == o) with
    | none => some none
    | some p =>
      let size := (g.kernel.safePoint t.safeId).size
      if size = 0 then some none
      else match segCheck t.seg p.2 size 1 .load with
        | .ok (.inr va) => some (some { kind := 0, source := rectCell g.ox g.oy g.wd g.ht g.launch.ord o, va := va, len := size, ea := p.2 })
        | _ => none

/-- Shards of the save areas of a job's cells; none where an area cannot be read. -/
def State.areaShards (s : State) : List (Gang × Nat) → Option (List Shard)
  | [] => some []
  | (g, o) :: rest =>
    match s.areaShard g o, s.areaShards rest with
    | some (some x), some xs => some (x :: xs)
    | some none, some xs => some xs
    | _, _ => none

/-- Regions of a region table as shards. -/
def regionShards (ws : List W64) : Nat → List Shard
  | 0 => []
  | n + 1 => regionShards ws n ++ [{ kind := 1, source := n, va := (dw ws (2 * n)).toNat, len := (dw ws (2 * n + 1)).toNat, ea := 0 }]

/-- Why a shard is not streamed: a copy fails with a code on a side (R239), or a commit goes first (R42, R44, R187). -/
inductive CkptFail where
  | copy (code : Nat) (side : Bool)
  | waits
  deriving DecidableEq, Repr

/-- Lines of this module in which mapped pieces lie. -/
def State.runsHere (s : State) (rs : List (Loc × Nat)) : List Nat :=
  ((rs.filter (fun r => s.isHere r.1)).map (fun r => linesAt r.1.pa r.2)).flatten

/-- The number under which CKPT owns the record of a job's caravan. -/
def ckptOwner (asid : BitVec 16) : Nat := ckptTid + asid.toNat

/-- CKPT opens a caravan with a budget of 2 MiB (R238 step 3), and otherwise the defaults of CVOPEN (10: R181). -/
def State.openCkpt (s : State) (asid : BitVec 16) : State × Option Nat :=
  let s1 := s.freeDone (ckptOwner asid)
  match s1.freeRecord with
  | none => (s1, none)
  | some id => (s1.openCaravan (ckptOwner asid) id 2097152 20 (satAdd s.time.now (2000000 * Config.usUnits)), some id)

/-- One of CKPT's caravan stores is released, with the next sequence number (R238 step 4; 10: R183). -/
def State.ckptStore (s : State) (asid : BitVec 16) (id : Nat) (p : Loc × List Byte) : State :=
  let c := s.caravan id
  let item : Item := Item.stage (s.cidOf id) c.gen c.seq p.1 (mcellsAt p.1.pa p.2) c.d
  let r : Released :=
    { item := item, tid := ckptOwner asid, gang := 0, rank := 0, gangSize := 1,
      stage := if p.1.home.isSome then .handed else .waiting, sentAt := s.time.up }
  State.updCaravan { s with released := s.released ++ [r] } id (fun c => { c with
    seq := c.seq + 1, charge := c.charge + 64, dests := bumpDest (s.homeOf p.1) c.dests })

/-- A copy engine of the job's cells streams a shard into the slot, as engine commits (R51; R238 step 3): the CRC-32C of its bytes once the copy has
reached its completion target, or why it does not go on. A save area is streamed by its own cell, and a region by the cell that stands first among
the shards (assumption 75). -/
def State.copyShard (s : State) (c : Ckpt) (x : Shard) (va : Nat) : State × Except CkptFail Nat :=
  match s.frontRuns c.asid .userCore .load (linePieces x.va x.len) with
  | (s1, none) => (s1, .error (.copy 5 false))
  | (s1, some src) =>
    match s1.frontRuns c.asid .userCore .store (linePieces va x.len) with
    | (s2, none) => (s2, .error (.copy 5 true))
    | (s2, some dst) =>
      if s2.locked (s2.runsHere src) || s2.barred (ckptOwner c.asid) (s2.runsHere dst) then (s2, .error .waits)
      else
        let cell := if x.kind = 0 then x.source else (((c.shards.find? (fun y => y.kind == 0)).map (·.source)).getD 0)
        let p := s2.readRuns src
        ((p.1.serveLines cell (dedup (s2.runsHere src))).putShares (sharesOf dst p.2), .ok (crc32c p.2))

/-- CKPT releases one of its caravan stores, of a line of the pool (R238 step 4). False where the line has no place that a caravan store accepts (10:
R182; assumption 40); a destination more than a caravan has marks its overflow. -/
def State.ckptLine (s : State) (c : Ckpt) (id va : Nat) (ws : List W64) : State × Bool :=
  match s.frontPlace c.asid (s.rootFor c.asid) 0 .store va 64 with
  | (s1, none) => (s1, false)
  | (s1, some (l, _)) =>
    let dests := (s1.caravan id).dests.map (·.1)
    if va % 64 ≠ 0 ∨ (l.home.isNone && isHostKey l.pa) = true then (s1, false)
    else if !dests.contains (s1.homeOf l) && decide (Config.destLimit ≤ dests.length) then (s1.updCaravan id (fun v => { v with ovf := true }), true)
    else (s1.ckptStore c.asid id (l, wordBytes ws), true)

/-- Note where the save areas of a checkpoint lie (assumption 30). -/
def State.noteAreas (s : State) (c : Ckpt) : State :=
  let noted := c.areas.foldl (fun m x => Map.set (0, 0) m (areaKey c.asid x.1) x.2) s.service.saveAreas
  { s with service := { s.service with saveAreas := noted } }

/-- Change the running checkpoint of a job. -/
def State.onCkpt (s : State) (asid : BitVec 16) (f : Ckpt → Ckpt) : State :=
  { s with ckpts := updCkpt (fun d => d.asid == asid && d.running) (fun d => some (f d)) s.ckpts }

/-- CKPT opens the caravan, and has the shards streamed into the slot that the manifest does not name (R238 step 3). -/
def State.openSlot (s : State) (c : Ckpt) (xs : List Shard) (slot : Nat) : State :=
  match s.openCkpt c.asid with
  | (s1, none) => s1.ckptEnd c .caravan 2 0 2
  | (s1, some id) =>
    let areas := (xs.filter (fun x => x.kind == 0)).map (fun x => (x.source, BitVec.ofNat 64 x.va, x.ea))
    s1.onCkpt c.asid (fun d => { d with carav := some id, areas := areas, shards := xs, slot := slot })

/-- Bytes of a slot before a shard. -/
def Ckpt.offOf (c : Ckpt) (i : Nat) : Nat := ((c.shards.take i).map (·.len)).foldl (· + ·) 0

/-- The entry of a shard (R237). -/
def Ckpt.entry (c : Ckpt) (cid i : Nat) : List W64 :=
  match c.shards[i]? with
  | some x => [c.target, BitVec.ofNat 64 cid, BitVec.ofNat 64 x.kind, BitVec.ofNat 64 x.source, BitVec.ofNat 64 (c.offOf i), BitVec.ofNat 64 x.len,
      BitVec.ofNat 64 (c.crcs.getD i 0), 0]
  | none => []

/-- One piece of a gather (R238 steps 3, 4): the entry of a shard whose copy has ended, else the copy of the next shard, else the manifest. -/
def State.gatherStep (s : State) (c : Ckpt) (id : Nat) : State :=
  let cid := (s.cidOf id).toNat
  let pool := c.pool.toNat
  let noPlace := fun (k : State) => (k.cvEnd id 5).ckptEnd c .caravan 5 cid 2
  if c.entered < c.crcs.length then
    match s.ckptLine c id (pool + 4096 + 64 * c.entered) (c.entry cid c.entered) with
    | (s1, false) => noPlace s1
    | (s1, true) => s1.onCkpt c.asid (fun d => { d with entered := d.entered + 1 })
  else match c.shards[c.crcs.length]? with
    | some x =>
      (match s.copyShard c x (slotBase pool c.slotsz.toNat c.slot + c.offOf c.crcs.length) with
       | (s1, .error .waits) => if s1.fabric.held then s1 else s
       | (s1, .error (.copy code side)) => (s1.cvEnd id 1).ckptEnd c .copyFault (ckptFault code side) cid 2
       | (s1, .ok crc) => s1.onCkpt c.asid (fun d => { d with crcs := d.crcs ++ [crc] }))
    | none =>
      match s.ckptLine c id pool [c.target, BitVec.ofNat 64 cid, BitVec.ofNat 64 c.slot, BitVec.ofNat 64 c.shards.length, s.time.now, 0, 0, 0] with
      | (s1, false) => noPlace s1
      | (s1, true) => s1.onCkpt c.asid (fun d => { d with stored := true })

/-- Begin the gather of a checkpoint of a job whose cells are all saved (R238 step 3). -/
def State.gatherCkpt (s : State) (c : Ckpt) : State :=
  let pairs := ((s.jobGangs c.asid).map (fun g => (countFrom 0 (g.wd * g.ht)).map (fun o => (g, o)))).flatten
  let copyFail := fun (k : State) (code : Nat) (side : Bool) => k.ckptEnd c .copyFault (ckptFault code side) 0 2
  match s.areaShards pairs, s.jobWords c.asid c.rtab.toNat (2 * c.count) with
  | none, _ => copyFail s 4 false
  | _, (s1, none) => copyFail s1 5 false
  | some areas, (s1, some tab) =>
    let regions := regionShards tab c.count
    let xs := areas ++ regions
    if regions.any (fun x => x.va % 4096 != 0 || x.len % 4096 != 0) then copyFail s1 3 false
    else if 16320 < xs.length ∨ c.slotsz.toNat < sumOf (·.len) xs then copyFail s1 3 true
    else match s1.jobWords c.asid c.pool.toNat 8 with
      | (s2, none) => copyFail s2 5 false
      | (s2, some old) => s2.openSlot c xs (1 - (manifestOf old).slot)

/-! ## Verify and restore (R240) -/

/-- A shard entry was read and agrees with its manifest and its data. -/
def State.shardOk (s : State) (asid : BitVec 16) (m : Manifest) (base : Nat) (e : Option (List W64)) : State × Bool :=
  match e with
  | none => (s, false)
  | some e =>
    if dw e 0 != m.step || dw e 1 != m.cid then (s, false)
    else match s.jobBytes asid (base + (dw e 4).toNat) (dw e 5).toNat with
      | (s1, some bs) => (s1, decide ((dw e 6).toNat = crc32c bs))
      | (s1, none) => (s1, false)

/-- Indices of the shards that fail, in rising order. -/
def State.badShards (s : State) (asid : BitVec 16) (m : Manifest) (base : Nat) : Nat → List (Option (List W64)) → State × List Nat
  | _, [] => (s, [])
  | i, e :: es =>
    let p := s.shardOk asid m base e
    let q := p.1.badShards asid m base (i + 1) es
    (q.1, if p.2 then q.2 else i :: q.2)

/-- Read the lines of the shard table with given indices; one that cannot be read is none. -/
def State.readTable (s : State) (asid : BitVec 16) (pool : Nat) : List Nat → State × List (Option (List W64))
  | [] => (s, [])
  | i :: is =>
    let p := s.jobWords asid (pool + 4096 + 64 * i) 8
    let q := p.1.readTable asid pool is
    (q.1, p.2 :: q.2)

/-- Read a pool's manifest and shard table, and check them against the expected step: the manifest when readable, its
entries, and what the result buffer lists. -/
def State.checkPool (s : State) (asid : BitVec 16) (pool slotsz expect : Nat) : State × Option Manifest × List (List W64) × List W64 :=
  let all1 : W64 := BitVec.allOnes 64
  match s.jobWords asid pool 8 with
  | (s1, none) => (s1, none, [], [all1])
  | (s1, some w) =>
    let m := manifestOf w
    let bad0 := if expect ≠ 0 ∧ m.step.toNat ≠ expect then [all1] else []
    let tab := s1.readTable asid pool (countFrom 0 (Nat.min m.nshard 16320))
    let q := tab.1.badShards asid m (slotBase pool slotsz m.slot) 0 tab.2
    (q.1, some m, tab.2.filterMap id, bad0 ++ q.2.map (BitVec.ofNat 64))

/-- Where a shard goes back to (R240): a region to its place of the table, a save area to where the cell's area was, or where none is known to one
that firmware gives, a free value (assumptions 5 and 30). -/
def State.shardHome (s : State) (asid : BitVec 16) (tab : List W64) (e : List W64) : State × Nat :=
  if dw e 2 ≠ 0 then (s, (dw tab (2 * (dw e 3).toNat)).toNat)
  else
    let key := areaKey asid (dw e 3).toNat
    match s.service.saveAreas.find? (fun p => p.1 == key) with
    | some p => ({ s with service := { s.service with restored := dedup (s.service.restored ++ [key]) } }, p.2.1.toNat)
    | none =>
      let a := Config.freeWord s.free
      ({ s with free := s.free + 1, service := { s.service with
          saveAreas := Map.set (0, 0) s.service.saveAreas key (a, a), restored := dedup (s.service.restored ++ [key]) } }, a.toNat)

/-- Copy shards back; false when one cannot be copied. -/
def State.loadShards (s : State) (asid : BitVec 16) (base : Nat) (tab : List W64) : List (List W64) → State × Bool
  | [] => (s, true)
  | e :: es =>
    match s.jobBytes asid (base + (dw e 4).toNat) (dw e 5).toNat with
    | (s1, none) => (s1, false)
    | (s1, some bs) =>
      let h := s1.shardHome asid tab e
      match h.1.jobPut asid h.2 bs with
      | (s2, true) => s2.loadShards asid base tab es
      | (s2, false) => (s2, false)

/-- Serve a verify or restore request: check the pool, fill the result buffer, and load when `load` and all is well. -/
def State.servePool (s : State) (q : CmdSource) (mode : Nat) (load : Bool) : State :=
  s.asFront (frontKey q) (fun s0 => s0.takePacketOf q (isCkpt (· == mode)) 1 (fun port _ p k =>
    let c := ckptOf port p 0
    let tag := c.tag.toNat
    if ckptBad p then k.badPacket port p
    else if k.ckptRuns c.asid then k.ckptEntry port tag .busy 0 0 0
    else
      let r := k.checkPool c.asid c.pool.toNat c.slotsz.toNat (fld (dw p 5) 63 32)
      let listed := r.2.2.2.take 1024
      let k1 := (r.1.jobPut c.asid (dw p 6).toNat (wordBytes (BitVec.ofNat 64 listed.length :: listed))).1
      let m := r.2.1.getD { step := 0, cid := 0, slot := 0, nshard := 0 }
      if !listed.isEmpty then k1.ckptEntry port tag .mixStep listed.length m.step m.cid.toNat
      else if !load then k1.ckptEntry port tag .done 0 m.step m.cid.toNat
      else
        let fault := ckptFault 5 false
        match k1.jobWords c.asid c.rtab.toNat (2 * c.count) with
        | (k2, none) => k2.ckptEntry port tag .copyFault fault m.step m.cid.toNat
        | (k2, some tab) =>
          match k2.loadShards c.asid (slotBase c.pool.toNat c.slotsz.toNat m.slot) tab r.2.2.1 with
          | (k3, true) => k3.ckptEntry port tag .done 0 m.step m.cid.toNat
          | (k3, false) => k3.ckptEntry port tag .copyFault fault m.step m.cid.toNat))

end Sys2Proof.Machine
end

