-- ==== Sys2Proof/Machine/CkptEvents.lean ====
section
/-! DEFINITION. Checkpoint events: the packets and the stages of a checkpoint (13: R236, R238 to R241). -/
namespace Sys2Proof.Machine

/-- CKPT_ONCE (R236, R238); a packet with a MODE that does not exist is refused here. -/
def execCkptOnce (q : CmdSource) (st : State) : Ans := .next (st.askCkpt q (fun m => m == 0 || decide (5 < m)))

/-- CKPT_EVERY_STEPS (R236, R238). -/
def execCkptEverySteps (q : CmdSource) (st : State) : Ans := .next (st.askCkpt q (· == 1))

/-- CKPT_EVERY_MS (R236, R238). -/
def execCkptEveryMs (q : CmdSource) (st : State) : Ans := .next (st.askCkpt q (· == 2))

/-- CKPT_CANCEL_PERIODIC (R236): periodic requests of the job go; a checkpoint that runs is its last. -/
def execCkptCancelPeriodic (q : CmdSource) (st : State) : Ans :=
  .next (st.takePacketOf q (isCkpt (· == 3)) 1 (fun port _ p k =>
    let c := ckptOf port p 0
    if ckptBad p then k.badPacket port p
    else
      let periodic := fun (d : Ckpt) => d.asid == c.asid && (d.mode == 1 || d.mode == 2)
      let left := (k.ckpts.filter (fun d => !periodic d || d.running)).map (fun d => if periodic d then { d with mode := 0 } else d)
      State.ckptEntry { k with ckpts := left } port c.tag.toNat .done 0 0 0))

/-- CKPT_RESTORE (R240). -/
def execCkptRestore (q : CmdSource) (st : State) : Ans := .next (st.servePool q 4 true)

/-- CKPT_VERIFY (R240). -/
def execCkptVerify (q : CmdSource) (st : State) : Ans := .next (st.servePool q 5 false)

/-- The request's time has come (R238). -/
def Ckpt.due (c : Ckpt) (asid : BitVec 16) (now : Nat) : Bool :=
  c.asid == asid && !c.running && (c.mode != 2 || decide (c.nextAt ≤ now))

/-- Cells of the gang are saved for a pre-emption, so a checkpoint waits. -/
def Gang.beingSaved (g : Gang) : Bool := !g.savedCells.isEmpty && !g.swapped

/-- A thread at a SAFEPT parks for a checkpoint: its STEP is at least the target, or 0 (R238 step 1). -/
def Thread.parksAt (t : Thread) (target : W64) : Bool := t.arch.step == 0 || decide (target.toNat ≤ t.arch.step.toNat)

/-- Post a checkpoint request to a gang; a pre-emption that is pending follows it (R241). To one that is swapped out it is posted for the time
when it runs again: its save areas stand for it. -/
def State.postCkpt (s : State) (target : W64) (g : Gang) : State :=
  if g.swapped then s.logTx.updGang g.ident (fun k => { k with req := .checkpoint target, reqAt := s.time.up })
  else
    let s1 := (s.updGang g.ident (fun k => { k with reqNext := k.reqNext || k.req == .preempt })).askPark g.ident (.checkpoint target)
    -- one that a pre-emption parked and whose STEP is below the target does not wait for the checkpoint
    s1.safeReturn (fun t => t.gang == some g.ident && !t.parksAt target) 0

/-- CKPT_TRIGGER (R238): of the job's first request that is due, when none runs. -/
def execCkptTrigger (asid : BitVec 16) (st : State) : Ans :=
  .next (match st.ckpts.find? (fun c => c.due asid st.time.up) with
    | none => st
    | some c =>
      let gs := st.jobGangs asid
      if st.ckptRuns asid || gs.any Gang.beingSaved || (st.jobThreads asid).any (·.routine.isSome) then st
      else if gs.all (fun g => g.kernel.safepts.isEmpty) then
        State.ckptEntry { st with ckpts := updCkpt (fun d => d.due asid st.time.up) (fun _ => none) st.ckpts } c.port c.tag.toNat .noSafept 0 0 0
      else
        let r := st.targetStep c
        let start := fun (d : Ckpt) => some { d with running := true, target := r.2, startAt := st.time.up }
        let s1 : State := { r.1 with ckpts := updCkpt (fun d => d.due asid st.time.up) start r.1.ckpts }
        gs.foldl (State.postCkpt · r.2) s1)

/-- The running checkpoint of a job. -/
def State.runningCkpt (s : State) (asid : BitVec 16) : Option Ckpt := s.ckpts.find? (fun c => c.asid == asid && c.running)

/-- Every cell of the job's gangs has run its save routine (R238 step 2). -/
def State.jobSaved (s : State) (asid : BitVec 16) : Bool :=
  (s.jobGangs asid).all (fun g => g.swapped || (countFrom 0 (g.wd * g.ht)).all g.savedCells.contains)

/-- CKPT's CVCOMMIT on the caravan of a checkpoint, and what its outcome ends (R238 steps 4 and 5). -/
def State.commitCkpt (s : State) (c : Ckpt) (id : Nat) : State :=
  let cid := (s.cidOf id).toNat
  match s.cvTurn id with
  | (s1, .ended 0) => (s1.noteAreas c).ckptEnd c .done 0 cid 2
  | (s1, .ended outcome) => s1.ckptEnd c .caravan outcome cid 2
  | (s1, _) => s1

/-- CKPT_GATHER (R238 steps 3 to 5): the caravan is opened, the shards are streamed one by one and the caravan's stores released, then CKPT executes
CVCOMMIT. -/
def execCkptGather (asid : BitVec 16) (st : State) : Ans :=
  .next (match st.runningCkpt asid with
    | some c => (match c.carav with
      | some id =>
        if c.stored || (st.caravan id).st != .opened then st.commitCkpt c id
        else st.asFront (gatherKey asid) (fun k => k.gatherStep c id)
      | none => if st.jobSaved asid then st.asFront (gatherKey asid) (fun k => k.gatherCkpt c) else st)
    | none => st)

/-- CKPT_GATHER_TIMEOUT (R238, R239): the detail counts the job's threads that have not parked. The gather is complete once CKPT's stores are
released. -/
def execCkptGatherTimeout (asid : BitVec 16) (st : State) : Ans :=
  .next (match st.runningCkpt asid with
    | some c =>
      if !c.stored && decide (c.startAt + st.service.gatherMs * Config.msUnits ≤ st.time.up) then
        State.ckptEnd (match c.carav with | some id => (if (st.caravan id).st == CvState.opened then st.cvEnd id 1 else st) | none => st) c .timeout ((st.jobThreads asid).filter (fun t => !t.atSafept)).length 0 0
      else st
    | none => st)

end Sys2Proof.Machine
end

