-- ==== Sys2Proof/Machine/CommitEvents.lean ====
section
/-! DEFINITION. Commit arbitration, commit completion and the dirty log (02: R41 to R44; 05: R91; 11: R205). -/
namespace Sys2Proof.Machine

/-- Two chunks keep out of each other's way: neither's writes meet what the other has read or written (R42). -/
def Chunk.apart (a b : Chunk) : Bool :=
  !(Sig.meets a.wsig b.rsig || Sig.meets a.wsig b.wsig || Sig.meets b.wsig a.rsig)

/-- The lines a commit's signature is sent to the holders of: the written ones, and the tracking lines of the cell that
the signature holds (R39, R42). -/
def Thread.sentLines (t : Thread) : List Nat :=
  let cell := cellOf t.core
  t.chunk.lines ++ ((mapLine cell :: (countFrom 0 16).map (ringLine cell)).filter (Sig.holds t.chunk.wsig)).map lineOf

/-- The commit arbiters may grant a context's chunk: it requests, the priority token is free or its own and then no other
commit is in progress (R44), its host lines are held in E or M (12: R222), no granted commit meets it and no line it writes is locked (R42), and a replay has its
entry next (R205). -/
def State.grantable (s : State) (t : Thread) : Bool :=
  let going := s.allThreads.filter (fun u => u.st == .committing)
  t.st == .requesting &&
  !s.tokenBars t.tid && (s.tokenQueue.head? != some t.tid || going.isEmpty) &&
  t.chunk.lines.all s.ownsLine &&
  going.all (fun u => t.chunk.apart u.chunk) &&
  !s.locked t.sentLines &&
  s.turnOf t

/-- Holders of tracking lines: the cell's cores whose uncommitted chunks' signatures hold them; the rest hold written
lines. Every hit chunk is squashed, and the lines are locked until the commit completes (R42 steps 2 and 3). -/
def State.grant (s : State) (t : Thread) : State :=
  let scope := s.commitScope t.core t.chunk.lines
  let s1 := s.squashHits t.chunk.wsig t.sentLines (some t.tid)
  let s2 : State := { s1 with locks := s1.locks ++ t.sentLines.map (fun l => (l, t.tid)) }
  let s3 := t.chunk.lines.foldl State.collapse s2
  let s4 := if s.tokenQueue.head? = some t.tid then s3.perf t.core 0x0D 1 else s3
  s4.updTid t.tid (fun u => { u with st := .committing, chunk := { u.chunk with scope := scope } })

/-- COMMIT_GRANT (R42, R44): steps 1 to 4 for the chunk of a context. While it requests, the home obtains the host lines that it writes in E, and
only then is it granted (12: R222). -/
def execCommitGrant (tid : Nat) (st : State) : Ans :=
  .next (match st.findTid tid with
    | some t =>
      if t.st = .requesting ∧ t.chunk.lines.all st.ownsLine = false then st.setMesi (t.chunk.lines.filter (fun l => !st.ownsLine l)) 2
      else if st.grantable t then st.grant t else st
    | none => st)

/-- The core's dirty log has room for the leaves the chunk dirties (05: R91). -/
def State.logRoom (s : State) (t : Thread) : Bool := s.roomFor t.core t.chunk.leaves

/-- COMMIT_COMPLETE (R41, R42 steps 5 and 6): the chunk commits and what cut it follows (R35, R37, R101). -/
def execCommitComplete (tid : Nat) (st : State) : Ans :=
  .next (match st.findTid tid with
    | some t =>
      if t.st = .committing ∧ st.logRoom t = true then st.onThread tid (fun k => k.commitChunk.atBoundary t.after) else st
    | none => st)

/-- Merge a core's dirty log into the D bits of the leaf entries (R91). -/
def State.mergeLog (s : State) (core : Nat) : State :=
  State.updCore { s with mem := (s.core core).dlog.foldl (fun m pa => Memory.write64 m pa (Memory.read64 m pa ||| 0x40)) s.mem } core
    (fun c => { c with dlog := [] })

/-- DIRTY_LOG_MERGE (R91): due whenever 256 entries wait. -/
def execDirtyLogMerge (core : Nat) (st : State) : Ans :=
  .next (if 256 ≤ (st.core core).dlog.length then st.mergeLog core else st)

end Sys2Proof.Machine
end

