-- ==== Sys2Proof/Machine/FaultEvents.lean ====
section
/-! DEFINITION. Page faults, address ranges, dirty harvest and page migration, as firmware treats them (03: R48; 05: R90
to R94, R103). -/
namespace Sys2Proof.Machine

/-! ## Fault service (R92) -/

/-- The mark of an engine command whose fault was judged unresolvable: bit 63 of the address it waits on. -/
def badFault (va : W64) : W64 := va ||| 0x8000000000000000

/-- Tell the engine that waits on a record that it was judged unresolvable. -/
def State.markEngine (s : State) (cell : Nat) (matrix : Bool) : State :=
  s.updCell cell (fun c =>
    if matrix then { c with matq := match c.matq with | m :: ms => { m with faulted := m.faulted.map badFault } :: ms | [] => [] }
    else { c with copyq := match c.copyq with | m :: ms => { m with faulted := m.faulted.map badFault } :: ms | [] => [] })

/-- FAULT_SERVICE (R92): firmware treats the n-th waiting fault record. -/
def execFaultService (n : Nat) (st : State) : Ans :=
  .next (match st.service.faults[n]? with
    | none => st
    | some f =>
      let p := st.treat f
      let s1 : State := { p.1 with service := { p.1.service with faults := dropAt p.1.service.faults n } }
      match f.engine with
      | some (cell, matrix) => if p.2 then s1 else s1.markEngine cell matrix
      | none => s1.updTid f.tid (fun t => if t.st = .faultWait then { t with faultDone := true, faultBad := !p.2 } else t))

/-- FAULT_WAKE (R92): the wake message reissues the faulting instruction, or delivers PAGE. -/
def execFaultWake (tid : Nat) (st : State) : Ans :=
  .next (match st.findTid tid with
    | some t =>
      if t.st = .faultWait ∧ t.faultDone = true then
        let s1 := st.updTid tid (fun t => { t with faultDone := false })
        if (st.core t.core).dbg.halt then s1.updDbg t.core (fun d => { d with msgs := if d.msgs.contains tid then d.msgs else d.msgs ++ [tid] })
        else s1.deliver tid
      else st
    | none => st)

/-! ## Ranges -/

/-- RANGE_ALLOCATE (R92, R79, R80): a range of whole 64 KiB pages that meets no other of its address space; the regions
of its frames start afresh under the limits firmware gives them. -/
def execRangeAllocate (r : AddrRange) (st : State) : Ans :=
  .next (
    let whole := decide (r.base % 65536 = 0) && decide (r.len % 65536 = 0) && decide (r.frames % 65536 = 0) && decide (0 < r.len) &&
      decide (r.base + r.len ≤ 2 ^ 57) && decide ((rangeTables r).2.2 + r.len ≤ Config.hbmEnd) &&
      decide (r.fwmin.toNat ≤ r.fwmax.toNat) && decide (r.fwmax.toNat ≤ 4)
    let clear := st.service.ranges.all (fun q => q.asid != r.asid || decide (r.base + r.len ≤ q.base) || decide (q.base + q.len ≤ r.base))
    if whole && clear then
      State.allocRegions { st with service := { st.service with ranges := st.service.ranges ++ [r] } } r
    else st)

/-- The place of the first byte a leaf maps. -/
def leafPlace (w : W64) : Loc :=
  let f := leafFrame w
  let port := if bit w 11 then 1 else 0
  match leafLoc w with
  | 0 => { home := none, pa := f }
  | 3 => { home := some (BitVec.ofNat 16 (f / 2 ^ 44)), pa := f % 2 ^ 44 }
  | _ => { home := none, pa := hostKey port f }

/-- The far moons of a page of another module are gone. -/
def State.dropFarMoons (s : State) (l : Loc) (n : Nat) : State :=
  match l.home with
  | none => s
  | some h => { s with farMoons := s.farMoons.filter (fun p => !(decide (farKey h l.pa ≤ 64 * p.1) && decide (64 * p.1 < farKey h l.pa + n))) }

/-- The lines of a page are invalidated at every holder, as an engine commit (03: R48, R51). -/
def State.dropPage (s : State) (l : Loc) (n : Nat) : State :=
  (if l.home.isNone then s.invalidate l.pa n else { s with position := s.position + 1 }).dropFarMoons l n

/-- Unmap one page of an address space: its leaf is cleared and its lines are invalidated. The record of its moves stays with its frame
(assumption 75). -/
def State.unmapPage (s : State) (asid : BitVec 16) (va : Nat) : State :=
  match s.walk (s.rootFor asid) va with
  | .ok (pa, w, 0) =>
    State.dropTlb (State.dropPage { s with mem := Memory.write64 s.mem pa 0 } (leafPlace w) 65536) (fun e => e.leafPa == pa)
  | _ => s

/-- RANGE_RELEASE (R92): the range goes, and its pages with it, as engine commits, which wait while another thread's commit goes first (02: R44). -/
def execRangeRelease (asid : BitVec 16) (base : Nat) (st : State) : Ans :=
  .next (match st.service.ranges.find? (fun r => r.asid == asid && r.base == base) with
    | none => st
    | some r =>
      if st.tokenBars frontTid then st else
      let s1 : State := { st with service := { st.service with ranges := st.service.ranges.filter (fun q => !(q.asid == asid && q.base == base)) } }
      (countFrom 0 (r.len / 65536)).foldl (fun k i => k.unmapPage asid (r.base + 65536 * i)) s1)

/-! ## Dirty harvest (R91) -/

/-- DIRTY_HARVEST (R91): the harvest point clears every logged flag, the logs are merged, and every D bit is read and
cleared. -/
def execDirtyHarvest (st : State) : Ans :=
  .next (
    let s1 : State := { st with tlbs := Map.mapAll [] (fun es => es.map (fun e => { e with logged := false })) st.tlbs }
    let s2 := s1.cores.foldl (fun k p => k.mergeLog p.1) s1
    { s2 with mem := (s2.leaves.map (·.1)).foldl (fun m pa => Memory.write64 m pa (Memory.read64 m pa &&& ~~~0x40)) s2.mem })

/-! ## Migration (R48, R93) -/

/-- The module that holds a page: this one, another, or neither for a host page. -/
def State.pageModule (s : State) (w : W64) : Option (BitVec 16) :=
  match leafLoc w with | 0 => some s.moduleId | 3 => some (BitVec.ofNat 16 (leafFrame w / 2 ^ 44)) | _ => none

/-- The place lies in `n` bytes from another on. -/
def State.within (s : State) (lo : Loc) (n : Nat) (l : Loc) : Bool :=
  (s.here l).home == (s.here lo).home && decide (lo.pa ≤ l.pa) && decide (l.pa < lo.pa + n)

/-- A place after its page has moved. -/
def State.moved (s : State) (old new : Loc) (n : Nat) (l : Loc) : Loc := if s.within old n l then { new with pa := new.pa + (l.pa - old.pa) } else l

/-- The places an effect writes. -/
def Item.places (i : Item) : List Loc :=
  match i with
  | .comet l _ _ _ _ _ => [l]
  | .tsemSig l _ _ _ => [l]
  | .amo l _ _ _ _ => [l]
  | .adds _ l _ _ _ _ _ => [l]
  | .farStore h cs _ _ => cs.map (fun c => { home := some h, pa := c.1 })
  | .hostStore p cs _ => cs.map (fun c => { home := none, pa := hostKey p c.1 })
  | .stage _ _ _ l cs _ => cs.map (fun c => { l with pa := c.1 })
  | .gstage cs => cs.map (fun c => { home := none, pa := c.1 })
  | _ => []

/-- An outer store of cells that stand at a new place: through a host port, or to a module. -/
def State.storeTo (s : State) (l : Loc) (cs : List MCell) (cls : FabClass) (ea : W64) : Item :=
  let lo := (cs.headD ((0, 0, 0) : MCell)).1
  let at_ := fun (a : Nat) => cs.map (fun (c : MCell) => ((a + (c.1 - lo), c.2) : MCell))
  if l.home.isNone && isHostKey l.pa then .hostStore (keyPort l.pa) (at_ (keyAddr l.pa)) ea else .farStore (s.homeOf l) (at_ l.pa) cls ea

/-- An effect that goes to a moved page goes to its new home (16: R297). -/
def State.movedItem (s : State) (old new : Loc) (n : Nat) (i : Item) : Item :=
  let f := s.moved old new n
  if !i.places.any (s.within old n) then i
  else match i with
    | .comet l op k src cls ea => .comet (f l) op k src cls ea
    | .tsemSig l v cls ea => .tsemSig (f l) v cls ea
    | .amo l k src cls ea => .amo (f l) k src cls ea
    | .adds e l fmt rm sat els ea => .adds e (f l) fmt rm sat (els.map (fun x => { x with at_ := x.at_.map f })) ea
    | .farStore h cs cls ea => s.storeTo (f { home := some h, pa := (cs.headD (0, 0, 0)).1 }) cs cls ea
    | .hostStore p cs ea => s.storeTo (f { home := none, pa := hostKey p (cs.headD (0, 0, 0)).1 }) cs .a ea
    | q => q

/-- A released effect follows its page: one that now leaves the module is handed to the fabric, one that now stays waits for its turn here. -/
def State.movedRel (s : State) (old new : Loc) (n : Nat) (r : Released) : Released :=
  let i := s.movedItem old new n r.item
  if i = r.item then r
  else { r with item := i, stage := if r.stage = .performed ∨ r.stage = .refused then r.stage else if i.travelsFar || i.isHostStore then .handed else .waiting }

/-- The place of the outer access that a context waits on. -/
def Pending.place (p : Pending) : Option Loc :=
  match p with
  | .outer l _ _ => some l
  | .rmw l _ _ _ _ _ _ => some l
  | .key l _ _ _ => some l
  | .pageWord l _ _ _ _ => some l
  | _ => Option.none

/-- The place of the memory word that a context is parked on. -/
def Wait.place (w : Wait) : Option Loc := match w with | .word l _ _ => some l | .timeline l _ => some l | _ => Option.none

/-- Firmware does not move a page yet: a commit in progress writes it or goes first (02: R44), a caravan or a guarded item has staged bytes of it, or its home's key
registers buffer contributions to it, which are applied before the copy (16: R297; assumption 67). -/
def State.moveBarred (s : State) (old : Loc) (n : Nat) : Bool :=
  let hit := fun (i : Item) => i.places.any (s.within old n)
  let staged := fun (i : Item) => (match i with | .stage _ _ _ _ _ _ => hit i | .gstage _ => hit i | _ => false)
  let on := fun (a : Nat) => s.within old n { home := none, pa := a }
  s.barred frontTid (if old.home.isNone then countFrom (lineOf old.pa) (n / 64) else []) ||
  s.allThreads.any (fun t => (t.st == .committing && t.chunk.defq.any hit) || t.item.staged.any (fun c => on c.1)) ||
  s.released.any (fun r => staged r.item) ||
  s.cvDests.any (fun d => d.inn.any (fun c => on c.1)) ||
  s.caravans.any (fun p => p.2.out.any (fun o => o.2.2.any (fun c => s.within old n { home := some o.1, pa := c.1 }))) ||
  s.keyRegs.any (fun k => s.within old n k.loc && !k.buffered.isEmpty)

/-- Squash the uncommitted chunks that have read a page outside, have deferred an effect to it or wait for it outside, and let its other outer
accesses issue again, so that each is classified afresh (R48); an atomic whose contribution is on its way keeps waiting for it. -/
def State.reclassify (s : State) (old : Loc) (n : Nat) : State :=
  let waits := fun (t : Thread) => t.st == .dataWait && (match t.pend.place with | some l => s.within old n l | none => false)
  let hit := fun (t : Thread) => t.uncommitted && (waits t || t.chunk.outer.any (s.within old n) || t.chunk.defq.any (fun i => i.places.any (s.within old n)))
  let s1 := (s.allThreads.filter hit).foldl (fun k t => k.squashTid t.tid 0) s
  let s2 := s1.mapThreads (fun t => if waits t && !t.chunk.isOpen && !s.amoUnderWay t.tid then { t with st := .runnable, pend := .none, replies := [] } else t)
  s2.wakeIf (fun t => t.st == .parked && (match t.wait.place with | some l => s.within old n l | none => false)) true

/-- Copy a page's bytes to its new place as an engine commit there, with the marks of uncorrectable data (R51; 14: R258). -/
def State.copyPage (s : State) (old new : Loc) (n : Nat) : State :=
  let marks := (countFrom 0 (n / 64)).filter (fun i => s.poisoned.contains (s.poisonKey { old with pa := old.pa + 64 * i }))
  let s1 := s.putLocs ((countFrom 0 n).map (fun k => ({ new with pa := new.pa + k }, BitVec.allOnes 8, s.homeByte old k)))
  let lo := s.poisonKey new
  { s1 with poisoned := s1.poisoned.filter (fun l => !(decide (lo ≤ l) && decide (l < lo + n / 64))) ++ marks.map (fun i => lo + i) }

/-- A further mapping of a moved page: its place is the new leaf's (R48). -/
def remapped (w newLeaf : W64) : W64 :=
  let place : W64 := 0x0FFFFFFFFFFF0B80
  (w &&& ~~~place) ||| (newLeaf &&& place)

/-- Rewrite the further mappings of a page that moves, then its leaf. -/
def State.rewrite (s : State) (others : List Nat) (leafPa : Nat) (newLeaf : W64) : State :=
  let mem := others.foldl (fun m pa => Memory.write64 m pa (remapped (Memory.read64 m pa) newLeaf)) s.mem
  State.dropTlb { s with mem := Memory.write64 mem leafPa newLeaf } (fun e => e.leafPa == leafPa || others.contains e.leafPa)

/-- PAGE_MIGRATION (R48, R51, R90, R93): of one page of the size of its leaf's level, and not of a pinned one. The page's lines are invalidated as an engine commit and its bytes copied as another
one, every leaf that maps it is rewritten, and effects on their way follow it. -/
def execPageMigration (m : Migration) (st : State) : Ans :=
  .next (
    let w := Memory.read64 st.mem m.leafPa
    let old := leafPlace w
    let new := leafPlace m.newLeaf
    if bit w 10 || !st.leaves.any (fun p => p.1 == m.leafPa && pageSize p.2 == m.bytes) || st.moveBarred old m.bytes then st
    else
      let s0 := st.reclassify old m.bytes
      let s1 := ((s0.dropPage old m.bytes).copyPage old new m.bytes).dropFarMoons new m.bytes
      let rec_ := Map.get PageRec.reset s1.pages (frameKey w)
      let f := st.moved old new m.bytes
      let s2 := State.rewrite { s1 with
        released := s1.released.map (st.movedRel old new m.bytes)
        keyRegs := s1.keyRegs.map (fun k => { k with loc := s1.here (f k.loc) })
        pages := Map.set PageRec.reset (Map.set PageRec.reset s1.pages (frameKey w) PageRec.reset) (frameKey m.newLeaf) { rec_ with leafPa := m.leafPa }
        } ((st.mappings w).filter (· != m.leafPa)) m.leafPa m.newLeaf
      match s2.pageModule w, s2.pageModule m.newLeaf with
      | some a, some b => if a ≠ b then s2.noteMove (frameKey m.newLeaf) m.leafPa none else s2
      | _, _ => s2)

/-- PIN_TIME_EXPIRY (R93): PIN clears in every mapping after the pin time, and the window count with it. -/
def execPinTimeExpiry (page : Nat) (st : State) : Ans :=
  .next (
    let r := Map.get PageRec.reset st.pages page
    if r.pin && decide (r.pinnedAt + st.service.pinTimeMs * 1000 * Config.usUnits ≤ st.time.up) then
      let all := (st.mappings (Memory.read64 st.mem r.leafPa)).filter (· != r.leafPa) ++ [r.leafPa]
      State.dropTlb { st with
        pages := Map.set PageRec.reset st.pages page { r with pin := false, times := [] }
        mem := all.foldl (fun m pa => Memory.write64 m pa (Memory.read64 m pa &&& ~~~0x400)) st.mem } (fun e => all.contains e.leafPa)
    else st)

end Sys2Proof.Machine
end

