-- ==== Sys2Proof/Machine/MatrixOps.lean ====
section
/-! DEFINITION. Issue of matrix commands: combinations, entry sizes, MMA, MMAS, MZERO, MDRAIN, MFMT (07: R126 to R137;
R332 to R334, R338). -/
namespace Sys2Proof.Machine

/-- Rules of 06: R121 by which a K-block adds into an accumulator. -/
inductive MmaRule where
  | plain | integer | tree | vt | mx32 | b16 | g128
  deriving DecidableEq, Repr

/-- A format context (07: R132). -/
structure FmtCtx where
  af : Nat
  bf : Nat
  int : Bool
  sp : Bool
  deriving DecidableEq, Repr

/-- Read a format context. -/
def fmtCtx (w : W64) : FmtCtx := { af := fld w 4 0, bf := fld w 9 5, int := bit w 10, sp := bit w 11 }

/-- An unscaled 8-bit or 6-bit float code (R133). -/
def isFloat86 (c : Nat) : Bool := decide (5 ≤ c) && decide (c ≤ 8)
/-- A VT 8-bit or 6-bit float code. -/
def isVt86 (c : Nat) : Bool := decide (0x0F ≤ c) && decide (c ≤ 0x12)
/-- An MX32 8-bit or 6-bit float code. -/
def isMx86 (c : Nat) : Bool := decide (0x14 ≤ c) && decide (c ≤ 0x17)
/-- A 16-bit float code. -/
def isF16 (c : Nat) : Bool := c == 0x09 || c == 0x0A

/-- The row of R133 for a pair of codes: K, the rule, and whether SP = 1 is allowed; INT32 accumulators apart. -/
def comboFloat (a b : Nat) : Option (Nat × MmaRule × Bool) :=
  if isFloat86 a && isFloat86 b then some (128, .plain, (a == 7 || a == 8) && (b == 7 || b == 8))
  else if a = 4 ∧ b = 4 then some (256, .plain, false)
  else if isF16 a && isF16 b then some (64, .tree, true)
  else if a = 0x1B ∧ b = 0x1B then some (64, .tree, false)
  else if a = 0x0B ∧ b = 0x0B then some (16, .tree, false)
  else if isVt86 a && isVt86 b then some (128, .vt, false)
  else if (a = 0x0E ∨ a = 0x0C) ∧ b = a then some (256, .vt, false)
  else if a = 0x0D ∧ b = 0x0D then some (128, .vt, false)
  else if isMx86 a && isMx86 b then some (128, .mx32, false)
  else if a = 0x13 ∧ b = 0x13 then some (256, .mx32, false)
  else if a = 0x18 ∧ b = 0x18 then some (128, .mx32, false)
  else if a = 0x19 ∧ b = 0x19 then some (256, .b16, false)
  else if a = 7 ∧ b = 0x1A then some (128, .g128, false)
  else if isF16 a && b == 0x1A then some (64, .g128, false)
  else none

/-- The INT32 rows of R133. -/
def comboInt (a b : Nat) : Option (Nat × MmaRule × Bool) :=
  if (a = 2 ∨ a = 3) ∧ (b = 2 ∨ b = 3) then some (128, .integer, true)
  else if (a = 0 ∨ a = 1) ∧ (b = 0 ∨ b = 1) then some (256, .integer, false)
  else none

/-- The K and rule of a context and shape; none is COMBO (R133). -/
def FmtCtx.combo (c : FmtCtx) (rows : Nat) : Option (Nat × MmaRule) :=
  match (if c.int then comboInt c.af c.bf else comboFloat c.af c.bf) with
  | none => none
  | some (k, r, spOk) => if c.sp && (!spOk || rows == 16) then none else some (k, r)

/-- Round up to a multiple of 256. -/
def up256 (n : Nat) : Nat := (n + 255) / 256 * 256

/-- Bytes of a trailer of `m` rows or columns over `k` elements (R130). -/
def trailerBytes (scheme m k : Nat) (isA : Bool) : Nat :=
  match scheme with
  | 1 => if isA then 256 * ((k + 127) / 128) else 256
  | 2 => up256 (m * k / 32)
  | 3 => if isA then up256 (20 * m) else 768
  | 4 => if isA then 0 else 256
  | _ => 0

/-- Bytes of an A entry before its trailer (R130). -/
def aBytes (c : FmtCtx) (rows k : Nat) : Nat :=
  let b := (fmtElem c.af).bits
  if c.sp then rows * k * b / 16 + rows * k / 8 else rows * k * b / 8
/-- Bytes of a B entry before its trailer. -/
def bBytes (c : FmtCtx) (k : Nat) : Nat := 32 * k * (fmtElem c.bf).bits / 8

/-- The size of entry an MMA needs of ring A (R131). -/
def aEntry (c : FmtCtx) (rows k : Nat) : Nat := up256 (aBytes c rows k) + trailerBytes (fmtScheme c.af) rows k true
/-- The size of entry an MMA needs of ring B. -/
def bEntry (c : FmtCtx) (k : Nat) : Nat := up256 (bBytes c k) + trailerBytes (fmtScheme c.bf) 32 k false

/-- Rows of a shape code (R134). -/
def shapeRows (s : BitVec 2) : Nat := if s = 0#2 then 64 else if s = 1#2 then 32 else 16

/-- The issuing thread runs on a C-core (R126). -/
def State.onC (s : State) : Bool := s.th.core % 2 == 1

/-- Raise ROLE or COMBO with the instruction word (R96). -/
def State.raiseWord (s : State) (c : Cause) (i : Instr) : State := s.raise c (((encode i).getD 0).setWidth 64)

/-- MMA and MMAS at issue (R135): roles, combination, rings, an entry in each, then the claims and the command. -/
def State.issueMma (s : State) (i : Instr) (c : Nat) (qa qb : Nat) (f : Nat) (shape : BitVec 2) (p q z neg : Bool) : State :=
  let w := Map.get 0 s.th.arch.fmtctx f
  let ctx := fmtCtx w
  let rows := shapeRows shape
  if shape = 3#2 ∨ qa = qb then s.illegalOf i
  else if !s.onC then s.raiseWord .role i
  else match ctx.combo rows with
    | none => s.raiseWord .combo i
    | some (k, _) =>
      let ra := s.ringOf s.myCell qa
      let rb := s.ringOf s.myCell qb
      if !ra.on || decide (ra.entryBytes < aEntry ctx rows k) then s.raise .ring (BitVec.ofNat 64 qa)
      else if !rb.on || decide (rb.entryBytes < bEntry ctx k) then s.raise .ring (BitVec.ofNat 64 qb)
      else if !s.hasEntry qa then s.waitRing qa
      else if !s.hasEntry qb then s.waitRing qb
      else
        let lines := [ringLine s.myCell qa, ringLine s.myCell qb]
        s.tracked lines lines (fun t =>
          let op : MatOp := .mma c qa qb (t.claimPos qa) (t.claimPos qb) p q w rows z neg
          match t.deferOr [.matrix t.myCell { op := op, who := t.issuer, faulted := none, ended := none }] with
          | .stop s1 x => s.endWith s1 x
          | .ok s1 _ _ =>
            let s2 := if p then s1.claim qa else s1
            let s3 := if q then s2.claim qb else s2
            s3.retire)

/-- MMA (R135, R334). -/
def execMma (c : BitVec 3) (a : BitVec 4) (b : BitVec 4) (f : BitVec 2) (s : BitVec 2) (p : BitVec 1) (q : BitVec 1) (z : BitVec 1) (st : State) : Ans :=
  .next (st.issueMma (.mma c a b f s p q z) c.toNat a.toNat b.toNat f.toNat s (p == 1#1) (q == 1#1) (z == 1#1) false)

/-- MMAS (R135, R334): the negated terms are added. -/
def execMmas (c : BitVec 3) (a : BitVec 4) (b : BitVec 4) (f : BitVec 2) (s : BitVec 2) (p : BitVec 1) (q : BitVec 1) (z : BitVec 1) (st : State) : Ans :=
  .next (st.issueMma (.mmas c a b f s p q z) c.toNat a.toNat b.toNat f.toNat s (p == 1#1) (q == 1#1) (z == 1#1) true)

/-- MZERO (R134, R338). -/
def execMzero (c : BitVec 3) (st : State) : Ans :=
  .next (if !st.onC then st.raiseWord .role (.mzero c)
    else st.deferPlain [.matrix st.myCell { op := .mzero c.toNat, who := st.issuer, faulted := none, ended := none }])

/-- The entry size a drain into a ring needs (R137, R139). -/
def drainEntry (fmt rows : Nat) : Nat :=
  up256 (rows * 32 * (fmtElem fmt).bits / 8) + (if fmtScheme fmt = 0 then 0 else 256)

/-- The code of a rounding mode (R109). -/
def Rm.code : Rm → Nat | .rne => 0 | .rtz => 1 | .rdn => 2 | .rup => 3 | .rmm => 4 | .sr => 5

/-- MDRAIN (R137, R332). -/
def execMdrain (c : BitVec 3) (m : BitVec 3) (a : BitVec 5) (b : BitVec 5) (f : BitVec 5) (r : BitVec 3) (s : BitVec 1) (st : State) : Ans :=
  let i : Instr := .mdrain c m a b f r s
  let w := st.x b
  .next (match st.th.arch.modeOf true r.toNat with
    | none => st.illegalOf i
    | some rm =>
      if !mdrainOk m a f r || bit w 58 || decide (fld w 51 32 % 8 ≠ 0) then st.illegalOf i
      else if !st.onC then st.raiseWord .role i
      else
        let q := a.toNat
        let ring := st.ringOf st.myCell q
        if m = 1#3 ∧ (!ring.on || decide (ring.entryBytes < drainEntry f.toNat (fld w 57 52 + 1))) = true then
          st.raise .ring (BitVec.ofNat 64 q)
        else
          let op : MatOp := .mdrain c.toNat m.toNat (if m = 1#3 then BitVec.ofNat 64 q else st.x a) w f (BitVec.ofNat 3 rm.code) (s == 1#1)
            st.th.arch.srseed st.th.arch.srcount
          match st.deferOr [.matrix st.myCell { op := op, who := st.issuer, faulted := none, ended := none }] with
          | .stop s1 x => st.endWith s1 x
          | .ok s1 _ _ => (s1.updArch (fun k => k.srStep rm)).retire)

/-- MFMT (R132, R333). -/
def execMfmt (n : BitVec 2) (a : BitVec 5) (st : State) : Ans :=
  .next (st.plain (fun k => k.updArch (fun r => r.setFmt n.toNat (st.x a))))

end Sys2Proof.Machine
end

