-- ==== Sys2Proof/Machine/Engine.lean ====
section
/-! DEFINITION. What the two engines of a cell share: acceptance of commands, their accesses and writes, their failures,
page-fault waits and completion targets (03: R51, R52; 05: R87, R99; 06: R115; 07: R126, R138; 08: R142, R152, R153). -/
namespace Sys2Proof.Machine

/-! ## Acceptance -/

/-- ENGINE_COMMAND_ACCEPT (R52, R126, R142): the engine's queue takes a released command while it holds fewer than 16. -/
def execEngineCommandAccept (n : Nat) (st : State) : Ans :=
  .next (st.onRel n (fun r =>
    match r.item with
    | .matrix cell cmd =>
      if Config.engineQueue ≤ (st.cell cell).matq.length then st
      else (st.updCell cell (fun c => { c with matq := c.matq ++ [cmd] })).clearRel n
    | .copy cell cmd =>
      if Config.engineQueue ≤ (st.cell cell).copyq.length then st
      else ((st.updCell cell (fun c => { c with copyq := c.copyq ++ [cmd] })).updTid r.tid
        (fun t => { t with copyRec := { t.copyRec with out := t.copyRec.out + 1 } })).clearRel n
    | _ => st))

/-! ## Accesses -/

/-- Why an engine's access fails (R138, R153); `wait` is a page fault that firmware has not judged, `held` a transfer
that routing holds (12: R214). -/
inductive EngFail where
  | align | seg | bounds | page | noHome | access | poison | held
  | wait (va : W64) (r : FaultReason) (acc : Access)
  deriving DecidableEq, Repr

/-- The ASYNCERR code of a failure (R99). -/
def EngFail.code : EngFail → Nat
  | .noHome => 1 | .page => 3 | .poison => 4 | _ => 2

/-- The copy status code of a failure (R153). -/
def EngFail.status : EngFail → Nat
  | .align | .seg => 4 | .bounds => 3 | .page => 5 | .noHome => 8 | .poison => 7 | _ => 6

/-- The page-table root of a command's address space. -/
def State.engRoot (s : State) (who : Issuer) : Nat :=
  if s.asidOf who.core = who.asid then s.rootOf who.core else s.rootFor who.asid

/-- Bytes of one line that a command accesses: their place, how many, the line's virtual tag where they take the stash path (04: R74), and the
fabric class of their segment (12: R213). -/
structure Run where
  loc : Loc
  n : Nat
  tag : Option Nat
  cls : FabClass
  deriving DecidableEq, Repr

/-- Why the home of a place turns an engine's access of a fabric class away; an access that adds reads what it writes (01: R24; 13: R226; 14:
R258). A read that a far moon serves does not go there (04: R83). -/
def State.engRefuses (s : State) (who : Issuer) (acc : Access) (dataIn : Bool) (l : Loc) (n : Nat) (cls : FabClass) : Option EngFail :=
  let i := s.coreInit who.core
  let rd := acc != .store || dataIn
  let wr := acc == .store || acc == .rmw
  match (match l.home with
    | none => if isHostKey l.pa || ((!rd || s.permits i l.pa false) && (!wr || s.permits i l.pa true)) then none else some EngFail.access
    | some h => if s.holds h cls who.heldAt then some EngFail.held
      else (s.homeFail l .wounoLink cls who.heldAt).map (fun c => if c = 1 then EngFail.noHome else .access)) with
  | some f => if acc == .load && (s.farMoonBytes l n).isSome then none else some f
  | none => if dataIn && s.poisonedAt l n && !(acc == .load && (s.farMoonBytes l n).isSome) then some .poison else none

/-- Translate and check `n` bytes of one line for a command; `held` is the page fault the command has waited on. An
MMIO page answers an engine with an error (assumption 22); an access that the firewall denies is logged (13: R226). -/
def State.engLoc (s : State) (who : Issuer) (cell : Nat) (held : Option W64) (acc : Access) (dataIn : Bool) (g : BitVec 128)
    (va n : Nat) : State × Except EngFail Run :=
  let w := BitVec.ofNat 64 va
  match s.translate who.asid (s.engRoot who) (clusterOf cell) va acc with
  | (s1, .error r) => (s1, .error (if held = some (badFault w) then .page else .wait w r acc))
  | (s1, .ok e) =>
    let stash := segS g && (s1.cell cell).smap.any (fun m => m.covers who.asid va)
    let place : Option Run := match s1.placeOf g who.asid (clusterOf cell) va e with
      | .inner key _ _ _ => some { loc := { home := none, pa := key }, n := n, tag := if stash then some (vtag who.asid va) else none, cls := .a }
      | .hostPcie port a => some { loc := { home := none, pa := hostKey port a }, n := n, tag := none, cls := .a }
      | .far home pa cls => some { loc := { home := some home, pa := pa }, n := n, tag := none, cls := cls }
      | _ => none
    match place with
    | none => (s1, .error .access)
    | some r => match s1.engRefuses who acc dataIn r.loc n r.cls with
      | some .access => (s1.logHome r.loc (s1.coreInit who.core), .error .access)
      | some f => (s1, .error f)
      | none => (s1, .ok r)

/-- Places of several pieces, in order. -/
def State.engRuns (s : State) (who : Issuer) (cell : Nat) (held : Option W64) (acc : Access) (dataIn : Bool) (g : BitVec 128) :
    List (Nat × Nat) → State × Except EngFail (List Run)
  | [] => (s, .ok [])
  | (va, n) :: rest =>
    match s.engLoc who cell held acc dataIn g va n with
    | (s1, .error f) => (s1, .error f)
    | (s1, .ok r) =>
      match s1.engRuns who cell held acc dataIn g rest with
      | (s2, .error f) => (s2, .error f)
      | (s2, .ok rs) => (s2, .ok (r :: rs))

/-- Check and map `n` bytes at an effective address through the captured segment registers (R87): the runs they lie in. A
RING segment fails, and so does a G destination inside a guarded item (10: R194). -/
def State.engAccess (s : State) (who : Issuer) (cell : Nat) (held : Option W64) (ea : W64) (n align : Nat) (acc : Access)
    (dataIn : Bool) : State × Except EngFail (List Run) :=
  match segCheck who.segs ea n align acc with
  | .error .align => (s, .error .align)
  | .error _ => (s, .error .seg)
  | .ok (.inl _) => (s, .error .seg)
  | .ok (.inr va) =>
    if acc == .store && who.guarded && segG (segOf who.segs ea) then (s, .error .seg)
    else s.engRuns who cell held acc dataIn (segOf who.segs ea) (loadPieces 64 n va n)

/-- Bytes of runs as an engine reads them: committed bytes, or what far moons serve (R51; 04: R83). -/
def State.runBytes (s : State) (rs : List Run) : List Byte := (rs.map (fun r => s.farBytes r.loc r.n)).flatten

/-- Runs have been read: of the far ones, those that no far moon served may install one (04: R83). -/
def State.seeRuns (s : State) (rs : List Run) : State := rs.foldl (fun k r => k.seeFar r.loc r.n) s

/-- A line of this module that an engine reads, with its virtual tag on the stash path. -/
abbrev SeenLine := Nat × Option Nat

/-- The lines of this module in which runs lie. -/
def State.runLines (s : State) (rs : List Run) : List SeenLine :=
  ((rs.filter (fun r => s.isHere r.loc)).map (fun r => (linesAt r.loc.pa r.n).map (fun l => (l, r.tag)))).flatten

/-- An engine of a cell has read lines (R51). On the stash path a line that the cell's stash does not hold is filled into it (04: R74); every other
read is served as one read by the cell's die, and recalls the line from a holder that has it dirty (04: R78, R79). -/
def State.engSeen (s : State) (cell : Nat) (xs : List SeenLine) : State :=
  (dedup xs).foldl (fun k x => match x.2 with
    | none => k.serveLines cell [x.1]
    | some tag => if (k.cell cell).stash.any (fun h => h.line == x.1) then k else ((k.serveRead (dieOf cell) x.1).1).fillStash cell x.1 tag) s

/-- Read `n` bytes for a command. -/
def State.engRead (s : State) (who : Issuer) (cell : Nat) (held : Option W64) (ea : W64) (n align : Nat) :
    State × Except EngFail (List Byte) :=
  match s.engAccess who cell held ea n align .load true with
  | (s1, .error f) => (s1, .error f)
  | (s1, .ok rs) => (s1.seeRuns rs, .ok (s1.runBytes rs))

/-- Lines of this module that a command reads with `n` bytes; none where the access fails. -/
def State.readLines (s : State) (who : Issuer) (cell : Nat) (held : Option W64) (ea : W64) (n : Nat) : List SeenLine :=
  match s.engAccess who cell held ea n 1 .load false with
  | (_, .error _) => []
  | (s1, .ok rs) => s1.runLines rs

/-- Runs from their byte `o` on, of which the first stands at it. -/
def runAt : List Run → Nat → Run
  | [], o => { loc := { home := none, pa := o }, n := 0, tag := none, cls := .a }
  | r :: rs, o => if o < r.n then { r with loc := { r.loc with pa := r.loc.pa + o }, n := r.n - o } else runAt rs (o - r.n)

/-! ## Writes -/

/-- One masked byte that a command writes. -/
structure Put where
  loc : Loc
  mask : Byte
  val : Byte
  /-- The virtual tag of its line, on the stash path. -/
  tag : Option Nat
  deriving DecidableEq, Repr

/-- Writes of masked bytes at offsets of runs. -/
def putsAt (rs : List Run) (cs : List MCell) : List Put :=
  cs.map (fun c => let p := runAt rs c.1; { loc := p.loc, mask := c.2.1, val := c.2.2, tag := p.tag })

/-- What puts write in this module and its hosts. -/
def State.localCells (s : State) (ps : List Put) : List MCell := (ps.filter (fun p => s.isHere p.loc)).map (fun p => (p.loc.pa, p.mask, p.val))

/-- The engine commit of puts waits: a line that they write is locked by a commit in progress, or another thread's commit goes first (02: R42, R44;
10: R187). -/
def State.putsHeld (s : State) (who : Issuer) (ps : List Put) : Bool :=
  !(s.localCells ps).isEmpty && s.barred who.tid (linesOf ((s.localCells ps).map (·.1)))

/-- The lines of puts that take the stash path, as the stash holds them. -/
def putHeld (ps : List Put) : List Held :=
  dedup (ps.filterMap (fun p => p.tag.map (fun t => { line := lineOf p.loc.pa, tag := t, read := true })))

/-- Deliver what a command of a cell writes: an engine commit for each 4 KiB segment of this module (R51; assumption 16), of which the lines on the
stash path go into the cell's stash, which owns them (04: R74); far bytes at their homes. -/
def State.deliverPuts (s : State) (cell : Nat) (ps : List Put) : State :=
  let far := (ps.filter (fun p => !s.isHere p.loc)).map (fun p => (farKey (s.homeOf p.loc) p.loc.pa, p.mask, p.val))
  (((pieces 4096 (s.localCells ps)).foldl State.engineCommit s).ownStash cell (putHeld ps)).farPut far

/-- One element a command adds into memory: the places of its bytes, the addition, the effective address it is recorded under, its class, the lines
that it takes the stash path to, and its place in the command's order. -/
structure Contrib where
  at_ : List Loc
  y : FVal
  rnd : Nat
  ea : W64
  cls : FabClass
  held : List Held
  first : Nat
  deriving DecidableEq, Repr

/-- Element `first`, of `n` bytes at offset `o` of runs, which may lie on two pages. -/
def contribAt (rs : List Run) (o n : Nat) (y : FVal) (rnd : Nat) (ea : W64) (first : Nat) : Contrib :=
  let mine := (countFrom o n).map (runAt rs)
  { at_ := mine.map (·.loc), y := y, rnd := rnd, ea := ea, cls := (runAt rs o).cls
    held := dedup (mine.filterMap (fun r => r.tag.map (fun t => { line := lineOf r.loc.pa, tag := t, read := true }))), first := first }

/-- The line in which an element begins. -/
def Contrib.line (c : Contrib) : Loc := let l := c.at_.headD { home := none, pa := 0 }; { l with pa := l.pa / 64 * 64 }

/-- The contributions of a command: all that it adds into one line is one (11: R198). -/
def contribItems (who : Issuer) (cell : Nat) (matrix : Bool) (fmt : Nat) (rm : Rm) (sat : Bool) (now : Nat) (cs : List Contrib) : List Released :=
  (dedup (cs.map (fun c => c.line))).map (fun l =>
    let mine := cs.filter (fun c => c.line == l)
    let eng : AddsFrom := { cell := cell, matrix := matrix, cls := (mine.map (·.cls)).headD .a, first := (mine.map (·.first)).headD 0
                            held := dedup (mine.map (·.held)).flatten }
    { item := .adds eng l fmt rm sat (mine.map (fun c => { at_ := c.at_, y := c.y, rnd := c.rnd })) ((mine.map (·.ea)).headD 0),
      tid := who.tid, gang := who.gang, rank := who.rank, gangSize := who.gangSize, stage := .waiting, sentAt := now })

/-- Add contributions: unordered ones at once, in commit order; ordered ones go each to the key register of its line (R198, R200), and the command
has not ended before the last of them is applied. -/
def State.addContribs (s : State) (ordered : Bool) (rs : List Released) : State :=
  if ordered then { s with released := s.released ++ rs } else rs.foldl State.applyContrib s

/-- What a place of memory that is added into would be written with, for the test of locked lines. -/
def contribPuts (cs : List Contrib) : List Put := (cs.map (fun c => c.at_.map (fun l => { loc := l, mask := 0, val := 0, tag := none }))).flatten

/-- An engine of a cell still has contributions under way: not yet offered, refused or buffered (R200). -/
def State.addsPending (s : State) (cell : Nat) (matrix : Bool) : Bool :=
  (s.released ++ s.buffered).any (fun r => match r.item with | .adds e _ _ _ _ _ _ => e.cell == cell && e.matrix == matrix | _ => false)

/-- An engine of a cell still has a completion target to perform: it comes after the command's data and before the next command (R142, R152). -/
def State.targetPending (s : State) (cell : Nat) (matrix : Bool) : Bool := s.finished.any (fun f => f.cell == cell && f.matrix == matrix)

/-! ## Ends of commands -/

/-- Record a command's failure in its issuer's ASYNCERR and its gang's flags (R99; 09: R167). -/
def State.engError (s : State) (who : Issuer) (src code : Nat) (addr : W64) (poison : Bool) : State :=
  let s1 := s.asyncErr who.tid src code addr
  if poison || code == 4 then s1.flagGang (some who.gang) 2#8 else s1

/-- A finished command's target waits to be performed (R152). -/
def State.finishTarget (s : State) (cell : Nat) (matrix : Bool) (t : Target) (poison : Bool) (who : Issuer) : State :=
  if t = .none then s else { s with finished := s.finished ++ [{ cell := cell, matrix := matrix, target := t, poison := poison, who := who }] }

/-- Change the issuer of the head command of an engine. -/
def State.updWho (s : State) (cell : Nat) (matrix : Bool) (f : Issuer → Issuer) : State :=
  s.updCell cell (fun c =>
    if matrix then { c with matq := match c.matq with | m :: ms => { m with who := f m.who } :: ms | [] => [] }
    else { c with copyq := match c.copyq with | m :: ms => { m with who := f m.who } :: ms | [] => [] })

/-- An access of the head command is held at its port, from now on if it was not before (12: R214). -/
def State.engineHeld (s : State) (cell : Nat) (matrix : Bool) : State :=
  s.updWho cell matrix (fun w => { w with heldAt := some (w.heldAt.getD s.time.up) })

/-- Send a fault record on behalf of a command's issuer (R92, R138, R153). -/
def State.engineFault (s : State) (who : Issuer) (cell : Nat) (matrix : Bool) (va : W64) (r : FaultReason) (acc : Access) : State :=
  let f : FaultRec := { tid := who.tid, gang := who.gang, rank := who.rank, asid := who.asid, va := va.toNat, acc := acc, reason := r,
                        engine := some (cell, matrix) }
  let s1 : State := { s with service := { s.service with faults := s.service.faults ++ [f] } }
  (s1.updWho cell matrix (fun w => { w with heldAt := none })).updCell cell (fun c =>
    if matrix then { c with matq := match c.matq with | m :: ms => { m with faulted := some va } :: ms | [] => [] }
    else { c with copyq := match c.copyq with | m :: ms => { m with faulted := some va } :: ms | [] => [] })

/-- A command may run: it waits on no page fault, or on one that was judged unresolvable. -/
def mayRun (faulted : Option W64) : Bool := match faulted with | none => true | some va => bit va 63

/-- ENGINE_FAULT_RESOLVED (R153): the head command's fault has been treated and resolved, so it continues. -/
def execEngineFaultResolved (cell : Nat) (matrix : Bool) (st : State) : Ans :=
  .next (
    let clear := fun (f : Option W64) => if mayRun f then f else none
    if st.service.faults.any (fun f => f.engine == some (cell, matrix)) then st
    else st.updCell cell (fun c =>
      if matrix then { c with matq := match c.matq with | m :: ms => { m with faulted := clear m.faulted } :: ms | [] => [] }
      else { c with copyq := match c.copyq with | m :: ms => { m with faulted := clear m.faulted } :: ms | [] => [] }))

/-! ## Completion targets (R152) -/

/-- Map a counter's 8 bytes; firmware's treatment of a page fault stands inside the event (assumption 23). No alignment is asked
(assumption 75). -/
def State.counterAt (s : State) (f : Finished) (ea : W64) : State × Except EngFail (List Run) :=
  match s.engAccess f.who f.cell none ea 8 1 .rmw true with
  | (s1, .error (.wait va r acc)) =>
    let q := s1.treat { tid := f.who.tid, gang := f.who.gang, rank := f.who.rank, asid := f.who.asid, va := va.toNat, acc := acc, reason := r, engine := none }
    if q.2 then q.1.engAccess f.who f.cell (some (badFault va)) ea 8 1 .rmw true else (q.1, .error .page)
  | x => x

/-- Add 1 to a counter as one engine commit; with poison, bit 63 is set. The failure `held` leaves the target to be performed. -/
def State.bumpCounter (s : State) (f : Finished) (ea : W64) : Except Bool State :=
  match s.counterAt f ea with
  | (_, .error .held) => .error true
  | (s1, .error e) => .ok (s1.engError f.who 7 e.code ea false)
  | (s1, .ok rs) =>
    let v := (leNat (rs.map (fun r => s1.homeBytes r.loc r.n)).flatten + 1) % 2 ^ 64
    let new := if f.poison then v % 2 ^ 63 + 2 ^ 63 else v
    let ps := putsAt rs (mcellsAt 0 (leBytes 8 new))
    if s1.putsHeld f.who ps then .error false
    else .ok ((s1.putLocs (ps.map (fun p => (p.loc, p.mask, p.val)))).ownStash f.cell (putHeld ps))

/-- COMPLETION_TARGET (R152): the n-th finished command performs its target. -/
def execCompletionTarget (n : Nat) (st : State) : Ans :=
  .next (match st.finished[n]? with
    | none => st
    | some f =>
      let s0 : State := { st with finished := dropAt st.finished n }
      match f.target with
      | .none => s0
      | .sem k =>
        let p := s0.signal f.cell k 1
        if p.2 then p.1.engError f.who 5 5 (BitVec.ofNat 64 k) false else p.1
      | .barrier b phase => s0.arrive f.who.gang f.who.rank b phase f.poison
      | .counter ea => match s0.bumpCounter f ea with
        | .ok s1 => s1
        | .error false => st
        | .error true => { st with finished := setAt st.finished n { f with who := { f.who with heldAt := some (f.who.heldAt.getD st.time.up) } } })

end Sys2Proof.Machine
end

