-- ==== Sys2Proof/Machine/Vector.lean ====
section
/-! DEFINITION. Vector arithmetic, lane movement, comparison, conversion and reductions, and mask operations
(06: R116 to R118; R330, R372 to R380, R384). -/
namespace Sys2Proof.Machine

/-! ## Shapes of vector instructions (R372) -/

/-- Active elements of v[vd] become the new ones. -/
def State.vecResult (s : State) (d : Reg) (k : MaskReg) (w : Nat) (new : List Nat) : State :=
  s.plain (fun q => q.setV d (vec w (blend (s.m k) w (lanes (s.v d) w) new)))

/-- An integer operation on each element (R373). -/
def State.vecInt (s : State) (d a b : Reg) (k : MaskReg) (t : BitVec 2) (f : Nat → Nat → Nat → Nat) : State :=
  let w := etBytes t
  s.vecResult d k w (List.zipWith (f (8 * w)) (lanes (s.v a) w) (lanes (s.v b) w))

/-- The floating type of a vector type code (R266, R378). -/
def vfmt (t : BitVec 2) : Flt := if t = 0#2 then fBF16 else if t = 1#2 then fF16 else if t = 2#2 then fF32 else fF64
/-- Bytes of an element of a floating type. -/
def Flt.bytes (f : Flt) : Nat := f.width / 8

/-- The flags of active elements. -/
def activeFlags (k : W64) (w : Nat) (fs : List Nat) : Nat :=
  orFlags ((fs.zipIdx).map (fun p => if active k w p.2 then p.1 else 0))

/-- Floating results with flags, element by element; the flags of active elements enter FCSR (R372). -/
def State.vecFloat (s : State) (d : Reg) (k : MaskReg) (f : Flt) (rs : List (Nat × Nat)) : State :=
  let w := f.bytes
  let new := blend (s.m k) w (lanes (s.v d) w) (rs.map (·.1))
  s.plain (fun q => (q.setV d (vec w new)).updArch (fun a => a.raiseFlags (activeFlags (s.m k) w (rs.map (·.2)))))

/-- A vector instruction that rounds in FCSR.RM (R372): ILLEGAL for a mode R109 refuses. -/
def State.vecRounded (s : State) (i : Instr) (f : Rm → State) : State :=
  match s.th.arch.dynMode false with
  | none => s.illegalOf i
  | some rm => f rm

/-- A two-operand floating operation in FCSR.RM. -/
def State.vecArith (s : State) (i : Instr) (d a b : Reg) (k : MaskReg) (t : BitVec 2)
    (op : Flt → Rm → Bool → Nat → Nat → Nat × Nat) : State :=
  let f := vfmt t
  s.vecRounded i (fun rm =>
    s.vecFloat d k f (List.zipWith (op f rm s.th.arch.ftz) (lanes (s.v a) f.bytes) (lanes (s.v b) f.bytes)))

/-- The signed value of an element. -/
def sgn (w8 x : Nat) : Int := sextInt x w8

/-- Mask bits of each active element set to a condition (R375). -/
def maskOf (k : W64) (w : Nat) (old : W64) (cs : List Bool) : W64 :=
  (cs.zipIdx).foldl (fun m p => if active k w p.2 then setFld m (p.2 * w + w - 1) (p.2 * w) (if p.1 then 2 ^ w - 1 else 0) else m) old

/-- One level of the reduction tree (R118). -/
def pairUp {α : Type} (f : α → α → α) : List α → List α
  | a :: b :: rest => f a b :: pairUp f rest
  | l => l

/-- The reduction tree over at most 2^n elements (R118). -/
def reduceTree {α : Type} (f : α → α → α) : Nat → List α → List α
  | 0, l => l
  | n + 1, l => reduceTree f n (pairUp f l)

/-- The tree's value. -/
def reduced {α : Type} (d : α) (f : α → α → α) (l : List α) : α := (reduceTree f 6 l).headD d

/-- Elements with masked-off ones replaced (R384). -/
def maskedIn (k : W64) (w neutral : Nat) (es : List Nat) : List Nat :=
  (es.zipIdx).map (fun p => if active k w p.2 then p.1 else neutral)

/-- A reduction's result: element 0, every other bit zero (R384). -/
def State.redResult (s : State) (d : Reg) (w v fl : Nat) : State :=
  s.plain (fun q => (q.setV d (vec w [v])).updArch (fun a => a.raiseFlags fl))

/-- An integer reduction. -/
def State.redInt (s : State) (d a : Reg) (k : MaskReg) (w neutral : Nat) (f : Nat → Nat → Nat) : State :=
  s.redResult d w (reduced 0 f (maskedIn (s.m k) w neutral (lanes (s.v a) w))) 0

/-- A floating reduction; flags of every step are ORed. -/
def State.redFloat (s : State) (d a : Reg) (k : MaskReg) (f : Flt) (neutral : Nat) (op : Nat → Nat → Nat × Nat) : State :=
  let step := fun (x y : Nat × Nat) => let r := op x.1 y.1; (r.1, Nat.lor r.2 (Nat.lor x.2 y.2))
  let r := reduced (0, 0) step ((maskedIn (s.m k) f.bytes neutral (lanes (s.v a) f.bytes)).map (fun x => (x, 0)))
  s.redResult d f.bytes r.1 r.2

/-! ## Integer vector arithmetic -/

/-- VADD (R373): a + b. -/
def execVadd (d : BitVec 5) (a : BitVec 5) (b : BitVec 5) (k : BitVec 3) (t : BitVec 2) (st : State) : Ans :=
  .next (st.vecInt d a b k t (fun _ x y => x + y))

/-- VSUB (R373): a − b. -/
def execVsub (d : BitVec 5) (a : BitVec 5) (b : BitVec 5) (k : BitVec 3) (t : BitVec 2) (st : State) : Ans :=
  .next (st.vecInt d a b k t (fun n x y => x + 2 ^ n - y))

/-- VMUL (R373): the low bits of a × b. -/
def execVmul (d : BitVec 5) (a : BitVec 5) (b : BitVec 5) (k : BitVec 3) (t : BitVec 2) (st : State) : Ans :=
  .next (st.vecInt d a b k t (fun _ x y => x * y))

/-- VAND (R373): bitwise and. -/
def execVand (d : BitVec 5) (a : BitVec 5) (b : BitVec 5) (k : BitVec 3) (t : BitVec 2) (st : State) : Ans :=
  .next (st.vecInt d a b k t (fun _ x y => Nat.land x y))

/-- VOR (R373): bitwise or. -/
def execVor (d : BitVec 5) (a : BitVec 5) (b : BitVec 5) (k : BitVec 3) (t : BitVec 2) (st : State) : Ans :=
  .next (st.vecInt d a b k t (fun _ x y => Nat.lor x y))

/-- VXOR (R373): bitwise exclusive or. -/
def execVxor (d : BitVec 5) (a : BitVec 5) (b : BitVec 5) (k : BitVec 3) (t : BitVec 2) (st : State) : Ans :=
  .next (st.vecInt d a b k t (fun _ x y => Nat.xor x y))

/-- VSLL (R373): shift left by the low log2(8w) bits of b. -/
def execVsll (d : BitVec 5) (a : BitVec 5) (b : BitVec 5) (k : BitVec 3) (t : BitVec 2) (st : State) : Ans :=
  .next (st.vecInt d a b k t (fun n x y => x * 2 ^ (y % n)))

/-- VSRL (R373): logical shift right. -/
def execVsrl (d : BitVec 5) (a : BitVec 5) (b : BitVec 5) (k : BitVec 3) (t : BitVec 2) (st : State) : Ans :=
  .next (st.vecInt d a b k t (fun n x y => x / 2 ^ (y % n)))

/-- VSRA (R373): arithmetic shift right. -/
def execVsra (d : BitVec 5) (a : BitVec 5) (b : BitVec 5) (k : BitVec 3) (t : BitVec 2) (st : State) : Ans :=
  .next (st.vecInt d a b k t (fun n x y => (sgn n x / (2 ^ (y % n) : Nat) % (2 ^ n : Nat)).toNat))

/-- VMIN (R373): signed minimum. -/
def execVmin (d : BitVec 5) (a : BitVec 5) (b : BitVec 5) (k : BitVec 3) (t : BitVec 2) (st : State) : Ans :=
  .next (st.vecInt d a b k t (fun n x y => if sgn n x < sgn n y then x else y))

/-- VMAX (R373): signed maximum. -/
def execVmax (d : BitVec 5) (a : BitVec 5) (b : BitVec 5) (k : BitVec 3) (t : BitVec 2) (st : State) : Ans :=
  .next (st.vecInt d a b k t (fun n x y => if sgn n x < sgn n y then y else x))

/-- VMINU (R373): unsigned minimum. -/
def execVminu (d : BitVec 5) (a : BitVec 5) (b : BitVec 5) (k : BitVec 3) (t : BitVec 2) (st : State) : Ans :=
  .next (st.vecInt d a b k t (fun _ x y => Nat.min x y))

/-- VMAXU (R373): unsigned maximum. -/
def execVmaxu (d : BitVec 5) (a : BitVec 5) (b : BitVec 5) (k : BitVec 3) (t : BitVec 2) (st : State) : Ans :=
  .next (st.vecInt d a b k t (fun _ x y => Nat.max x y))

/-! ## Floating vector arithmetic -/

/-- VFADD (R378): the sum, rounded once in FCSR.RM. -/
def execVfadd (d : BitVec 5) (a : BitVec 5) (b : BitVec 5) (k : BitVec 3) (t : BitVec 2) (st : State) : Ans :=
  .next (st.vecArith (.vfadd d a b k t) d a b k t Flt.addOp)

/-- VFSUB (R378): the difference, rounded once in FCSR.RM. -/
def execVfsub (d : BitVec 5) (a : BitVec 5) (b : BitVec 5) (k : BitVec 3) (t : BitVec 2) (st : State) : Ans :=
  .next (st.vecArith (.vfsub d a b k t) d a b k t Flt.subOp)

/-- VFMUL (R378): the product, rounded once in FCSR.RM. -/
def execVfmul (d : BitVec 5) (a : BitVec 5) (b : BitVec 5) (k : BitVec 3) (t : BitVec 2) (st : State) : Ans :=
  .next (st.vecArith (.vfmul d a b k t) d a b k t Flt.mulOp)

/-- VFDIV (R378): the quotient, rounded once in FCSR.RM. -/
def execVfdiv (d : BitVec 5) (a : BitVec 5) (b : BitVec 5) (k : BitVec 3) (t : BitVec 2) (st : State) : Ans :=
  .next (st.vecArith (.vfdiv d a b k t) d a b k t Flt.divOp)

/-- VFMIN (R378): minimumNumber. -/
def execVfmin (d : BitVec 5) (a : BitVec 5) (b : BitVec 5) (k : BitVec 3) (t : BitVec 2) (st : State) : Ans :=
  .next (let f := vfmt t
    st.vecFloat d k f (List.zipWith (f.pick st.th.arch.ftz false) (lanes (st.v a) f.bytes) (lanes (st.v b) f.bytes)))

/-- VFMAX (R378): maximumNumber. -/
def execVfmax (d : BitVec 5) (a : BitVec 5) (b : BitVec 5) (k : BitVec 3) (t : BitVec 2) (st : State) : Ans :=
  .next (let f := vfmt t
    st.vecFloat d k f (List.zipWith (f.pick st.th.arch.ftz true) (lanes (st.v a) f.bytes) (lanes (st.v b) f.bytes)))

/-- 2^x, correctly rounded with RNE (R117). -/
def Flt.exp2Op (f : Flt) (ftz : Bool) (a : Nat) : Nat × Nat :=
  let x := f.read ftz a
  f.result .rne ftz x.isSig x.exp2

/-- 1/x, correctly rounded with RNE (R117). -/
def Flt.rcpOp (f : Flt) (ftz : Bool) (a : Nat) : Nat × Nat :=
  let x := f.read ftz a
  let r := f.result .rne ftz x.isSig ((FVal.fin false 1 0).div x)
  (r.1, Nat.lor r.2 (if x.isZero then fDZ else 0))

/-- 1/√x, correctly rounded with RNE (R117). -/
def Flt.rsqOp (f : Flt) (ftz : Bool) (a : Nat) : Nat × Nat :=
  let x := f.read ftz a
  let r := f.result .rne ftz (x.isSig || (x.isNeg && !x.isZero)) x.rsqrt
  (r.1, Nat.lor r.2 (if x.isZero then fDZ else 0))

/-- VFEXP2 (R378): 2^x, rounded with RNE. -/
def execVfexp2 (d : BitVec 5) (a : BitVec 5) (k : BitVec 3) (t : BitVec 2) (st : State) : Ans :=
  .next (let f := vfmt t
    st.vecFloat d k f ((lanes (st.v a) f.bytes).map (f.exp2Op st.th.arch.ftz)))

/-- VFRCP (R378): 1/x, rounded with RNE. -/
def execVfrcp (d : BitVec 5) (a : BitVec 5) (k : BitVec 3) (t : BitVec 2) (st : State) : Ans :=
  .next (let f := vfmt t
    st.vecFloat d k f ((lanes (st.v a) f.bytes).map (f.rcpOp st.th.arch.ftz)))

/-- VFRSQ (R378): 1/√x, rounded with RNE. -/
def execVfrsq (d : BitVec 5) (a : BitVec 5) (k : BitVec 3) (t : BitVec 2) (st : State) : Ans :=
  .next (let f := vfmt t
    st.vecFloat d k f ((lanes (st.v a) f.bytes).map (f.rsqOp st.th.arch.ftz)))

/-- VFMA (R380): vs1 × vs2 + vs3, rounded once. -/
def execVfma (d : BitVec 5) (a : BitVec 5) (b : BitVec 5) (c : BitVec 5) (k : BitVec 3) (t : BitVec 2) (st : State) : Ans :=
  .next (let f := vfmt t
    st.vecRounded (.vfma d a b c k t) (fun rm => st.vecFloat d k f
      (List.zipWith (fun p z => f.fmaOp rm st.th.arch.ftz false false p.1 p.2 z)
        ((lanes (st.v a) f.bytes).zip (lanes (st.v b) f.bytes)) (lanes (st.v c) f.bytes))))

/-- VFMS (R380): vs1 × vs2 − vs3, rounded once. -/
def execVfms (d : BitVec 5) (a : BitVec 5) (b : BitVec 5) (c : BitVec 5) (k : BitVec 3) (t : BitVec 2) (st : State) : Ans :=
  .next (let f := vfmt t
    st.vecRounded (.vfms d a b c k t) (fun rm => st.vecFloat d k f
      (List.zipWith (fun p z => f.fmaOp rm st.th.arch.ftz false true p.1 p.2 z)
        ((lanes (st.v a) f.bytes).zip (lanes (st.v b) f.bytes)) (lanes (st.v c) f.bytes))))

/-! ## Lane movement -/

/-- VSEL (R374): vs1 where active, vs2 elsewhere; every element is written. -/
def execVsel (d : BitVec 5) (a : BitVec 5) (b : BitVec 5) (k : BitVec 3) (t : BitVec 2) (st : State) : Ans :=
  .next (let w := etBytes t
    st.plain (fun q => q.setV d (vec w (blend (st.m k) w (lanes (st.v b) w) (lanes (st.v a) w)))))

/-- VBCAST (R374): the low bits of x[vs1] in every active element. -/
def execVbcast (d : BitVec 5) (a : BitVec 5) (k : BitVec 3) (t : BitVec 2) (st : State) : Ans :=
  .next (let w := etBytes t
    st.vecResult d k w (List.replicate (64 / w) (st.x a).toNat))

/-- VMVX (R374): one element, sign-extended, to a scalar register. -/
def execVmvx (d : BitVec 5) (a : BitVec 5) (b : BitVec 5) (t : BitVec 2) (st : State) : Ans :=
  .next (let w := etBytes t
    st.setResult d (sext64 (lane (st.v a) w ((st.x b).toNat % (64 / w))) (8 * w)))

/-- VMVV (R374): active elements copied. -/
def execVmvv (d : BitVec 5) (a : BitVec 5) (k : BitVec 3) (t : BitVec 2) (st : State) : Ans :=
  .next (let w := etBytes t
    st.vecResult d k w (lanes (st.v a) w))

/-- VPERM (R374): elements of vs1 selected by vs2. -/
def execVperm (d : BitVec 5) (a : BitVec 5) (b : BitVec 5) (k : BitVec 3) (t : BitVec 2) (st : State) : Ans :=
  .next (let w := etBytes t
    st.vecResult d k w ((lanes (st.v b) w).map (fun j => lane (st.v a) w (j % (64 / w)))))

/-- VSLIDE (R374): elements moved by x[vs2], zero from outside. -/
def execVslide (d : BitVec 5) (a : BitVec 5) (b : BitVec 5) (k : BitVec 3) (t : BitVec 2) (st : State) : Ans :=
  .next (let w := etBytes t
    let s := (st.x b).toInt
    st.vecResult d k w ((countFrom 0 (64 / w)).map (fun (i : Nat) =>
      if 0 ≤ (i : Int) + s ∧ (i : Int) + s < ((64 / w : Nat) : Int) then lane (st.v a) w ((i : Int) + s).toNat else 0)))

/-! ## Comparison and masks -/

/-- The condition of VCMP on elements of n bits (R375). -/
def icond (c : BitVec 5) (n x y : Nat) : Bool :=
  match c.toNat with
  | 0 => x == y
  | 1 => x != y
  | 2 => decide (sgn n x < sgn n y)
  | 3 => !decide (sgn n x < sgn n y)
  | 4 => decide (x < y)
  | _ => !decide (x < y)

/-- The condition of VFCMP with its flags (R379). -/
def fcond (c : BitVec 2) (f : Flt) (ftz : Bool) (x y : Nat) : Bool × Nat :=
  match c.toNat with
  | 0 => f.cmpEq ftz x y
  | 1 => f.cmpLt ftz x y
  | 2 => f.cmpLe ftz x y
  | _ => ((f.read ftz x).isNan || (f.read ftz y).isNan, nvIf ((f.read ftz x).isSig || (f.read ftz y).isSig))

/-- VCMP (R375): mask bits of active elements from an integer comparison. -/
def execVcmp (d : BitVec 3) (a : BitVec 5) (b : BitVec 5) (k : BitVec 3) (t : BitVec 2) (c : BitVec 5) (st : State) : Ans :=
  .next (let w := etBytes t
    if 5 < c.toNat then st.illegalOf (.vcmp d a b k t c)
    else st.plain (fun q => q.setM d (maskOf (st.m k) w (st.m d) (List.zipWith (icond c (8 * w)) (lanes (st.v a) w) (lanes (st.v b) w)))))

/-- VFCMP (R379): mask bits of active elements from a floating comparison. -/
def execVfcmp (d : BitVec 3) (a : BitVec 5) (b : BitVec 5) (k : BitVec 3) (t : BitVec 2) (c : BitVec 2) (st : State) : Ans :=
  .next (let f := vfmt t
    let rs := List.zipWith (fcond c f st.th.arch.ftz) (lanes (st.v a) f.bytes) (lanes (st.v b) f.bytes)
    st.plain (fun q => (q.setM d (maskOf (st.m k) f.bytes (st.m d) (rs.map (·.1)))).updArch
      (fun r => r.raiseFlags (activeFlags (st.m k) f.bytes (rs.map (·.2))))))

/-- MAND (R330): mask and. -/
def execMand (d : BitVec 3) (a : BitVec 3) (b : BitVec 3) (st : State) : Ans :=
  .next (st.plain (fun q => q.setM d (st.m a &&& st.m b)))

/-- MOR (R330): mask or. -/
def execMor (d : BitVec 3) (a : BitVec 3) (b : BitVec 3) (st : State) : Ans :=
  .next (st.plain (fun q => q.setM d (st.m a ||| st.m b)))

/-- MXOR (R330): mask exclusive or. -/
def execMxor (d : BitVec 3) (a : BitVec 3) (b : BitVec 3) (st : State) : Ans :=
  .next (st.plain (fun q => q.setM d (st.m a ^^^ st.m b)))

/-- MNOT (R330): mask not. -/
def execMnot (d : BitVec 3) (a : BitVec 3) (st : State) : Ans :=
  .next (st.plain (fun q => q.setM d (~~~ st.m a)))

/-- MPOPC (R330): the number of mask bits set. -/
def execMpopc (d : BitVec 5) (a : BitVec 3) (st : State) : Ans :=
  .next (st.setResult d (BitVec.ofNat 64 (popCount (st.m a))))

/-- MSET (R330): a mask from a scalar register. -/
def execMset (d : BitVec 3) (a : BitVec 5) (st : State) : Ans :=
  .next (st.plain (fun q => q.setM d (st.x a)))

/-- MGET (R330): a mask to a scalar register. -/
def execMget (d : BitVec 5) (a : BitVec 3) (st : State) : Ans :=
  .next (st.setResult d (st.m a))

/-! ## Reductions -/

/-- The floating type of a VMISC type code 4 to 7 (R266). -/
def rfmt (t : BitVec 3) : Flt := vfmt (t.setWidth 2)
/-- Bytes of an integer VMISC type code 0 to 3. -/
def rbytes (t : BitVec 3) : Nat := 2 ^ (t.toNat % 4)

/-- VREDSUM (R384): the sum over the fixed tree. -/
def execVredsum (d : BitVec 5) (a : BitVec 5) (k : BitVec 3) (t : BitVec 3) (st : State) : Ans :=
  .next (if t.toNat < 4 then st.redInt d a k (rbytes t) 0 (fun x y => (x + y) % 2 ^ (8 * rbytes t))
    else st.vecRounded (.vredsum d a k t) (fun rm => st.redFloat d a k (rfmt t) ((rfmt t).pack true 0) ((rfmt t).addOp rm st.th.arch.ftz)))

/-- VREDMAX (R384): the maximum over the fixed tree. -/
def execVredmax (d : BitVec 5) (a : BitVec 5) (k : BitVec 3) (t : BitVec 3) (st : State) : Ans :=
  .next (let n := 8 * rbytes t
    if t.toNat < 4 then st.redInt d a k (rbytes t) (2 ^ (n - 1)) (fun x y => if sgn n x < sgn n y then y else x)
    else st.redFloat d a k (rfmt t) (rfmt t).nanEnc ((rfmt t).pick st.th.arch.ftz true))

/-- VREDMIN (R384): the minimum over the fixed tree. -/
def execVredmin (d : BitVec 5) (a : BitVec 5) (k : BitVec 3) (t : BitVec 3) (st : State) : Ans :=
  .next (let n := 8 * rbytes t
    if t.toNat < 4 then st.redInt d a k (rbytes t) (2 ^ (n - 1) - 1) (fun x y => if sgn n x < sgn n y then x else y)
    else st.redFloat d a k (rfmt t) (rfmt t).nanEnc ((rfmt t).pick st.th.arch.ftz false))

/-! ## Dot product and conversion -/

/-- The element format of VDOT's sources (R377). -/
def dotElem (t : BitVec 2) : Elem :=
  if t = 0#2 then .int true 8 else if t = 1#2 then .flt fE4M3 else if t = 2#2 then .flt fE5M2 else .flt fBF16

/-- The sources of one lane as values; BF16 subnormals read as zero under FTZ. -/
def dotVals (t : BitVec 2) (ftz : Bool) (x : Nat) : List FVal :=
  let e := dotElem t
  let w := e.bits
  (countFrom 0 (32 / w)).map (fun j =>
    let v := e.unpack (x / 2 ^ (w * j) % 2 ^ w)
    if t = 3#2 then fBF16.flush ftz v else v)

/-- The exact sum of terms. -/
def exactSum (ts : List FVal) : FVal :=
  match ts with
  | [] => .fin false 0 0
  | t :: rest => rest.foldl (FVal.add false) t

/-- One VDOT lane: INT32 with wrap, or the exact sum rounded once to FP32 with RNE (R377). FTZ flushes the bf16 sources and the result and not the old
lane, and a signalling NaN among the terms sets NV (assumption 74; R116, R118). -/
def dotLane (t : BitVec 2) (ftz : Bool) (old x y : Nat) : Nat × Nat :=
  if t = 0#2 then
    let sum := (countFrom 0 4).foldl (fun (z : Int) j => z + sextInt (x / 2 ^ (8 * j)) 8 * sextInt (y / 2 ^ (8 * j)) 8) (old : Int)
    ((sum % (2 ^ 32 : Nat)).toNat, 0)
  else
    let ps := (dotVals t ftz x).zip (dotVals t ftz y)
    let o := fF32.unpack old
    let terms := o :: ps.map (fun p => p.1.mul p.2)
    let invalid := o.isSig || ps.any (fun p => p.1.isSig || p.2.isSig || p.1.mulInvalid p.2) ||
      (terms.contains (.inf true) && terms.contains (.inf false))
    fF32.result .rne ftz invalid (exactSum terms)

/-- VDOT (R377): packed products added to each active 32-bit lane. -/
def execVdot (d : BitVec 5) (a : BitVec 5) (b : BitVec 5) (k : BitVec 3) (t : BitVec 2) (st : State) : Ans :=
  .next (let rs := List.zipWith (fun o p => dotLane t st.th.arch.ftz o p.1 p.2) (lanes (st.v d) 4) ((lanes (st.v a) 4).zip (lanes (st.v b) 4))
    st.vecFloat d k fF32 rs)

/-- The container step of an element width in VCVT: 6-bit elements count as 8 (R376). -/
def cvtWidth (w : Nat) : Nat := if w = 6 then 8 else w
/-- The formats FTZ acts on (R116). -/
def Elem.ftzActs (e : Elem) : Bool := e == .flt fF16 || e == .flt fBF16 || e == .flt fF32 || e == .flt fF64
/-- An element read for a conversion (R116, R376). -/
def Elem.read (e : Elem) (ftz : Bool) (bits : Nat) : FVal :=
  match e with
  | .flt f => if e.ftzActs then f.read ftz bits else f.unpack bits
  | _ => e.unpack bits
/-- A list of `w`-bit elements packed from bit 0 (R107). -/
def packBits (w : Nat) : List Nat → Nat
  | [] => 0
  | e :: es => e % 2 ^ w + 2 ^ w * packBits w es

/-- VCVT's results and flags (R376). -/
def cvtAll (se de : Elem) (rm : Rm) (sat ftz : Bool) (seed count : W64) (v : V512) : List (Nat × Nat) :=
  let n := 512 / Nat.max (cvtWidth se.bits) (cvtWidth de.bits)
  (countFrom 0 n).map (fun i =>
    de.convert rm sat ftz (srBits seed count i) (se.read ftz (v.toNat / 2 ^ (se.bits * i) % 2 ^ se.bits)))

/-- VCVT (R376): every element converted; SR advances the count. -/
def execVcvt (d : BitVec 5) (a : BitVec 5) (s : BitVec 5) (t : BitVec 5) (r : BitVec 3) (x : BitVec 1) (st : State) : Ans :=
  .next (if !(fmtOk s && fmtOk t) then st.illegalOf (.vcvt d a s t r x)
    else match st.th.arch.modeOf true r.toNat with
      | none => st.illegalOf (.vcvt d a s t r x)
      | some rm =>
        let rs := cvtAll (fmtElem s.toNat) (fmtElem t.toNat) rm (x == 1#1) st.th.arch.ftz st.th.arch.srseed st.th.arch.srcount (st.v a)
        st.plain (fun q => (q.setV d (BitVec.ofNat 512 (packBits (fmtElem t.toNat).bits (rs.map (·.1))))).updArch
          (fun k => (k.raiseFlags (orFlags (rs.map (·.2)))).srStep rm)))

end Sys2Proof.Machine
end

