-- ==== Sys2Proof/Machine/VecMem.lean ====
section
/-! DEFINITION. Vector loads and stores: whole line, strided, indexed and typed (R381 to R383). -/
namespace Sys2Proof.Machine

/-! ## Shapes -/

/-- Complete a vector load with the new value of v[vN]. -/
def State.vecLoad (s : State) (v : Reg) (es : List (W64 × Nat × Nat)) (f : List (List Byte) → V512) : State :=
  match s.loadMany es with
  | .stop s1 w => s.endWith s1 w
  | .ok s1 bss atB => (s1.setV v (f bss)).finish atB

/-- Complete a vector store of elements. -/
def State.vecStore (s : State) (align : Nat) (es : List Elt) : State :=
  match s.store align es with
  | .stop s1 w => s.endWith s1 w
  | .ok s1 _ atB => s1.finish atB

/-- Values for the active elements in order, the old ones elsewhere. -/
def spread (k : W64) (w : Nat) : Nat → List Nat → List Nat → List Nat
  | _, [], _ => []
  | i, o :: os, vs =>
    if active k w i then (match vs with | v :: rest => v :: spread k w (i + 1) os rest | [] => o :: spread k w (i + 1) os [])
    else o :: spread k w (i + 1) os vs

/-! ## Whole line (R381) -/

/-- VLD (R381): 64 bytes are checked and loaded; active bytes enter the register. -/
def execVld (v : BitVec 5) (a : BitVec 5) (k : BitVec 3) (o : BitVec 12) (st : State) : Ans :=
  .next (st.vecLoad v [(st.ea12 a o, 64, 64)] (fun bss =>
    vec 1 (blend (st.m k) 1 (lanes (st.v v) 1) ((bss.headD []).map (·.toNat)))))

/-- The active bytes of a register, as an element of 64 checked bytes. -/
def lineElt (ea : W64) (k : W64) (v : V512) : Elt :=
  { ea := ea, n := 64, cells := (mcellsAt 0 (vbytes v)).filter (fun c => active k 1 c.1) }

/-- VST (R381): 64 bytes are checked; active bytes are stored. -/
def execVst (v : BitVec 5) (a : BitVec 5) (k : BitVec 3) (o : BitVec 12) (st : State) : Ans :=
  .next (st.vecStore 64 [lineElt (st.ea12 a o) (st.m k) (st.v v)])

/-! ## Strided and indexed (R383) -/

/-- Active elements with their addresses: (index, address). -/
def activeEas (k : W64) (w : Nat) (eas : List W64) : List (Nat × W64) :=
  ((eas.zipIdx).map (fun p => (p.2, p.1))).filter (fun p => active k w p.1)

/-- Addresses of a strided access: element i at rs1 + i × x[rs2]. -/
def State.strided (s : State) (a b : Reg) (w : Nat) : List W64 :=
  (countFrom 0 (64 / w)).map (fun i => s.x a + BitVec.ofNat 64 i * s.x b)
/-- Addresses of an indexed access: element i at rs1 + zext(lane i). -/
def State.indexed (s : State) (a v : Reg) (w : Nat) : List W64 :=
  (lanes (s.v v) w).map (fun j => s.x a + BitVec.ofNat 64 j)

/-- Load each active element from its address. -/
def State.gather (s : State) (v : Reg) (k : MaskReg) (w : Nat) (eas : List W64) : State :=
  s.vecLoad v ((activeEas (s.m k) w eas).map (fun p => (p.2, w, w)))
    (fun bss => vec w (spread (s.m k) w 0 (lanes (s.v v) w) (bss.map leNat)))

/-- Store each active element to its address, in element order. -/
def State.scatter (s : State) (v : Reg) (k : MaskReg) (w : Nat) (eas : List W64) : State :=
  s.vecStore w ((activeEas (s.m k) w eas).map (fun p => Elt.ofBytes p.2 (leBytes w (lane (s.v v) w p.1))))

/-- VLDS (R383): strided load. -/
def execVlds (v : BitVec 5) (a : BitVec 5) (b : BitVec 5) (k : BitVec 3) (e : BitVec 2) (st : State) : Ans :=
  .next (st.gather v k (etBytes e) (st.strided a b (etBytes e)))
/-- VSTS (R383): strided store. -/
def execVsts (v : BitVec 5) (a : BitVec 5) (b : BitVec 5) (k : BitVec 3) (e : BitVec 2) (st : State) : Ans :=
  .next (st.scatter v k (etBytes e) (st.strided a b (etBytes e)))
/-- VLDX (R383): indexed load. -/
def execVldx (v : BitVec 5) (a : BitVec 5) (w : BitVec 5) (k : BitVec 3) (e : BitVec 2) (st : State) : Ans :=
  .next (st.gather v k (etBytes e) (st.indexed a w (etBytes e)))
/-- VSTX (R383): indexed store. -/
def execVstx (v : BitVec 5) (a : BitVec 5) (w : BitVec 5) (k : BitVec 3) (e : BitVec 2) (st : State) : Ans :=
  .next (st.scatter v k (etBytes e) (st.indexed a w (etBytes e)))

/-! ## Typed (R382) -/

/-- The lane type of a dt code. -/
def laneElem (t : BitVec 2) : Elem :=
  if t = 0#2 then .flt fF32 else if t = 1#2 then .flt fF16 else if t = 2#2 then .flt fBF16 else .int true 32

/-- Bytes of a footprint. -/
def typedBytes (t : BitVec 2) (f : Elem) : Nat := (64 / ((laneElem t).bits / 8)) * f.bits / 8

/-- The smallest power of two at least `n`, at most 64. -/
def typedAlign (n : Nat) : Nat := ([1, 2, 4, 8, 16, 32, 64].find? (fun p => decide (n ≤ p))).getD 64

/-- The scale: x[rs2] as FP32, 1.0 for x0 (R382). -/
def State.typedScale (s : State) (b : Reg) : FVal :=
  if b = 0#5 then .fin false 1 0 else fF32.read s.th.arch.ftz ((s.x b).toNat % 2 ^ 32)

/-- value × scale with the invalid flag. -/
def scaledVal (x sc : FVal) : FVal × Nat := (x.mul sc, nvIf (x.isSig || sc.isSig || x.mulInvalid sc))

/-- The bits of memory the active elements occupy, by byte offset: mask and value. -/
def typedCells (w F : Nat) (act : List Bool) (es : List Nat) : List MCell :=
  let m := packBits w (act.map (fun b => if b then 2 ^ w - 1 else 0))
  let v := packBits w es
  (countFrom 0 F).filterMap (fun j =>
    let mj := BitVec.ofNat 8 (m / 256 ^ j)
    if mj = 0 then none else some (j, mj, BitVec.ofNat 8 (v / 256 ^ j)))

/-- The active bytes grouped by 32-byte piece: offset of the first, bytes up to the last, and what is written. -/
def typedPieces (cs : List MCell) : List (Nat × Nat × List MCell) :=
  (dedup (cs.map (fun c => c.1 / 32))).map (fun k =>
    let ps := cs.filter (fun c => c.1 / 32 == k)
    let lo := (ps.headD (0, 0, 0)).1
    (lo, (ps.getLastD (0, 0, 0)).1 + 1 - lo, ps.map (fun c => (c.1 - lo, c.2))))

/-- A byte of what pieces have loaded, 0 where nothing was. -/
def pieceByte (ps : List (Nat × Nat × List MCell)) (bss : List (List Byte)) (j : Nat) : Byte :=
  match (ps.zip bss).find? (fun p => decide (p.1.1 ≤ j) && decide (j < p.1.1 + p.2.length)) with
  | some p => p.2.getD (j - p.1.1) 0
  | none => 0

/-- Active lanes of a typed access. -/
def typedActive (k : W64) (t : BitVec 2) : List Bool :=
  let w := (laneElem t).bits / 8
  (countFrom 0 (64 / w)).map (active k w)

/-- The lanes of a VLDC with their flags, from the footprint as a number. -/
def typedIn (f le : Elem) (rm : Rm) (ftz : Bool) (sc : FVal) (n mem : Nat) : List (Nat × Nat) :=
  (countFrom 0 n).map (fun i =>
    let p := scaledVal (f.read ftz (mem / 2 ^ (f.bits * i) % 2 ^ f.bits)) sc
    let r := le.convert rm true ftz 0 p.1
    (r.1, Nat.lor r.2 p.2))

/-- VLDC (R382): active lanes := convert(element × scale), saturating, in FCSR.RM without SR. -/
def execVldc (v : BitVec 5) (a : BitVec 5) (b : BitVec 5) (k : BitVec 3) (f : BitVec 5) (t : BitVec 2) (st : State) : Ans :=
  .next (
    if !fmtOk f then st.illegalOf (.vldc v a b k f t)
    else match st.th.arch.dynMode false with
      | none => st.illegalOf (.vldc v a b k f t)
      | some rm =>
        let fe := fmtElem f.toNat
        let le := laneElem t
        let w := le.bits / 8
        let F := typedBytes t fe
        let ea := st.x a
        if ea.toNat % typedAlign F ≠ 0 then st.raise .align ea
        else
          let act := typedActive (st.m k) t
          let ps := typedPieces (typedCells fe.bits F act (act.map (fun _ => 0)))
          match st.loadMany (ps.map (fun p => (ea + BitVec.ofNat 64 p.1, p.2.1, 1))) with
          | .stop s1 h => st.endWith s1 h
          | .ok s1 bss atB =>
            let mem := leNat ((countFrom 0 F).map (pieceByte ps bss))
            let rs := typedIn fe le rm st.th.arch.ftz (st.typedScale b) act.length mem
            let new := blend (st.m k) w (lanes (st.v v) w) (rs.map (·.1))
            ((s1.setV v (vec w new)).updArch (fun q => q.raiseFlags (activeFlags (st.m k) w (rs.map (·.2))))).finish atB)

/-- The elements of a VSTC with their flags. -/
def typedOut (f le : Elem) (rm : Rm) (ftz : Bool) (sc : FVal) (seed count : W64) (ls : List Nat) : List (Nat × Nat) :=
  (ls.zipIdx).map (fun q =>
    let p := scaledVal (le.read ftz q.1) sc
    let r := f.convert rm true ftz (srBits seed count q.2) p.1
    (r.1, Nat.lor r.2 p.2))

/-- VSTC (R382): memory elements of active lanes := convert(lane × scale), saturating; SR is accepted and advances the
count. -/
def execVstc (v : BitVec 5) (a : BitVec 5) (b : BitVec 5) (k : BitVec 3) (f : BitVec 5) (t : BitVec 2) (st : State) : Ans :=
  .next (
    if !fmtOk f then st.illegalOf (.vstc v a b k f t)
    else match st.th.arch.dynMode true with
      | none => st.illegalOf (.vstc v a b k f t)
      | some rm =>
        let fe := fmtElem f.toNat
        let le := laneElem t
        let w := le.bits / 8
        let F := typedBytes t fe
        let ea := st.x a
        if ea.toNat % typedAlign F ≠ 0 then st.raise .align ea
        else
          let act := typedActive (st.m k) t
          let rs := typedOut fe le rm st.th.arch.ftz (st.typedScale b) st.th.arch.srseed st.th.arch.srcount (lanes (st.v v) w)
          let ps := typedPieces (typedCells fe.bits F act (rs.map (·.1)))
          match st.store 1 (ps.map (fun p => { ea := ea + BitVec.ofNat 64 p.1, n := p.2.1, cells := p.2.2 })) with
          | .stop s1 h => st.endWith s1 h
          | .ok s1 _ atB =>
            (s1.updArch (fun q => (q.raiseFlags (activeFlags (st.m k) w (rs.map (·.2)))).srStep rm)).finish atB)

end Sys2Proof.Machine
end

