-- ==== Sys2Proof/Machine/MatrixEngine.lean ====
section
/-! DEFINITION. The matrix engine: MMA, MZERO and MDRAIN as its queue executes them (06: R120 to R122; 07: R124 to R139). -/
namespace Sys2Proof.Machine

/-! ## Sums (R120, R121) -/

/-- A number from an integer. -/
def FVal.ofInt (v : Int) : FVal := .fin (decide (v < 0)) v.natAbs 0
/-- The integer an integer element stands for. -/
def FVal.toInt : FVal → Int
  | .fin n m _ => if n then -(m : Int) else (m : Int)
  | _ => 0
/-- A number times 2^k. -/
def FVal.scale2 (x : FVal) (k : Int) : FVal := match x with | .fin n m e => .fin n m (e + k) | y => y

/-- −0, which leaves every sum unchanged. -/
def negZero : FVal := .fin true 0 0
/-- An exact sum (R120). -/
def mmaSum (ts : List FVal) : FVal := ts.foldl (FVal.add false) negZero
/-- rne32 of a sum of two. -/
def add32 (a b : FVal) : FVal := rne32 (a.add false b)
/-- One level of a tree: value i is rne32 of values 2i and 2i + 1. -/
def pair32 : List FVal → List FVal
  | a :: b :: rest => add32 a b :: pair32 rest
  | rest => rest
/-- A tree of `n` levels. -/
def treeSum : Nat → List FVal → FVal
  | 0, ps => ps.headD negZero
  | n + 1, ps => treeSum n (pair32 ps)

/-! ## Operand entries (R130, R107) -/

/-- Element `n` of `w` bits of an array at a ring-area offset. -/
def ringElem (mem : List Host.Cell) (off w n : Nat) : Nat :=
  leNat (Memory.readBytes mem (off + n * w / 8) ((n * w % 8 + w + 7) / 8)) / 2 ^ (n * w % 8) % 2 ^ w

/-- The kept elements of row `i` of an A entry, with the k they stand at. -/
def aRow (mem : List Host.Cell) (off : Nat) (c : FmtCtx) (rows k i : Nat) : List (Nat × FVal) :=
  let e := fmtElem c.af
  let b := e.bits
  if c.sp then
    let index := fun (n : Nat) => nbits (Memory.read mem (off + rows * (k * b / 16) + i * (k / 8) + n / 4)).toNat (2 * (n % 4) + 1) (2 * (n % 4))
    (countFrom 0 (k / 2)).map (fun n => (4 * (n / 2) + index n, e.unpack (ringElem mem (off + i * (k * b / 16)) b n)))
  else (countFrom 0 k).map (fun n => (n, e.unpack (ringElem mem (off + i * (k * b / 8)) b n)))

/-- Column `j` of a B entry. -/
def bCol (mem : List Host.Cell) (off : Nat) (c : FmtCtx) (k j : Nat) : List FVal :=
  let e := fmtElem c.bf
  (countFrom 0 k).map (fun n => e.unpack (ringElem mem (off + j * (k * e.bits / 8)) e.bits n))

/-- An FP32 scale. -/
def fp32At (mem : List Host.Cell) (off : Nat) : FVal := fF32.unpack (leNat (Memory.readBytes mem off 4))
/-- An E8M0 scale (R106). -/
def e8m0 (b : Byte) : FVal := if b = 0xFF#8 then .nan false else .fin false 1 ((b.toNat : Int) - 127)
/-- A UE5M3 scale (R106). -/
def ue5m3 (b : Byte) : FVal :=
  let ex := b.toNat / 8
  let fr := b.toNat % 8
  if b = 0xFF#8 then .nan false else if ex = 0 then .fin false fr (-17) else .fin false (8 + fr) ((ex : Int) - 18)

/-- An operand of one MMA: where its entry and its trailer lie. -/
structure Operand where
  off : Nat
  trailer : Nat
  deriving DecidableEq, Repr

/-! ## One K-block (R121) -/

/-- Products of the kept elements of a stretch of k with a column. A zero product has the sign of its factors' signs, also where the elements are
integers (assumption 74; R105, R120). -/
def products (row : List (Nat × FVal)) (col : List FVal) (lo n : Nat) : List FVal :=
  (row.filter (fun p => decide (lo ≤ p.1) && decide (p.1 < lo + n))).map (fun p => p.2.mul (col.getD p.1 negZero))

/-- What a K-block adds into the accumulator of row `i` and column `j`; `lo` is the block's first k. -/
def blockTerm (mem : List Host.Cell) (rule : MmaRule) (a b : Operand) (rows k i j lo : Nat) (row : List (Nat × FVal)) (col : List FVal) : FVal :=
  match rule with
  | .vt =>
    let s := rne32 ((fp32At mem (a.trailer + 256 * (lo / 128) + 4 * i)).mul (fp32At mem (b.trailer + 4 * (lo / 128))))
    rne32 ((mmaSum (products row col lo 128)).mul s)
  | .mx32 =>
    treeSum 2 ((countFrom 0 4).map (fun q =>
      let g := lo / 32 + q
      let sc := (e8m0 (Memory.read mem (a.trailer + i * (k / 32) + g))).mul (e8m0 (Memory.read mem (b.trailer + j * (k / 32) + g)))
      (mmaSum (products row col (lo + 32 * q) 32)).mul sc))
  | .b16 =>
    let t := treeSum 4 ((countFrom 0 16).map (fun q =>
      let sc := (ue5m3 (Memory.read mem (a.trailer + 16 * i + q))).mul (ue5m3 (Memory.read mem (b.trailer + 16 * j + q)))
      (mmaSum (products row col (lo + 16 * q) 16)).mul sc))
    rne32 ((rne32 ((fp32At mem (a.trailer + 16 * rows + 4 * i)).mul (fp32At mem (b.trailer + 512 + 4 * j)))).mul t)
  | .g128 =>
    let g := fBF16.unpack (leNat (Memory.readBytes mem (b.trailer + 2 * j) 2))
    rne32 (mmaSum ((products row col lo k).map (fun p => p.mul g)))
  | .tree =>
    let leaf := fun (n : Nat) => match row.find? (fun p => p.1 == n) with
      | some p => rne32 (p.2.mul (col.getD n negZero))
      | none => negZero
    treeSum (Nat.log2 k) ((countFrom 0 k).map leaf)
  | _ => rne32 (mmaSum (products row col lo k))

/-- Elements of one K-block of a rule (R121). -/
def blockSize (rule : MmaRule) (k : Nat) : Nat := match rule with | .vt | .mx32 => 128 | _ => k

/-- The FP32 accumulator after the K-blocks of an MMA (R135). -/
def floatAcc (mem : List Host.Cell) (rule : MmaRule) (a b : Operand) (rows k i j : Nat) (neg : Bool) (row : List (Nat × FVal)) (col : List FVal)
    (start : FVal) : FVal :=
  let n := blockSize rule k
  (countFrom 0 (k / n)).foldl (fun s q =>
    let t := blockTerm mem rule a b rows k i j (n * q) row col
    add32 s (if neg then t.neg else t)) start

/-- The INT32 accumulator after an MMA, with IOVF (R122). -/
def intAcc (neg : Bool) (row : List (Nat × FVal)) (col : List FVal) (start : Int) : Nat × Bool :=
  let p := (row.map (fun q => q.2.toInt * (col.getD q.1 negZero).toInt)).foldl (· + ·) 0
  let v := if neg then start - p else start + p
  ((v % (2 ^ 32 : Nat)).toNat, decide (v < -((2 ^ 31 : Nat) : Int)) || decide (((2 ^ 31 : Nat) : Int) ≤ v))

/-- Element bits of an accumulator. -/
def Acc.get (a : Acc) (i j : Nat) : BitVec 32 := Map.get 0 a.el (32 * i + j)

/-- Two kept values of the row stand at one k (R130). -/
def doubled (row : List (Nat × FVal)) : Bool := decide ((dedup (row.map (·.1))).length < row.length)

/-- One row of an MMA: its 32 new elements, with IOVF and SNF. `free` numbers the free values that stand for the
elements of a tree whose two kept values share one k (assumption 24). -/
def mmaRow (mem : List Host.Cell) (c : FmtCtx) (rule : MmaRule) (a b : Operand) (rows k : Nat) (zero neg : Bool) (cols : List (List FVal))
    (acc : Acc) (free i : Nat) : List (BitVec 32 × Bool) × Bool :=
  let row := aRow mem a.off c rows k i
  let keep := row.map (·.1)
  let snf := c.sp && cols.any (fun col => (col.zipIdx).any (fun p => !p.1.isFin && !keep.contains p.2))
  let el := fun (p : List FVal × Nat) =>
    let old := acc.get i p.2
    if c.int then (let r := intAcc neg row p.1 (if zero then 0 else sextInt old.toNat 32); (BitVec.ofNat 32 r.1, r.2))
    else if rule = .tree ∧ doubled row = true then ((Config.freeWord (free + 32 * i + p.2)).setWidth 32, false)
    else
      let v := floatAcc mem rule a b rows k i p.2 neg row p.1 (if zero then negZero else fF32.unpack old.toNat)
      (BitVec.ofNat 32 (fF32.round .rne false false 0 v).1, false)
  ((cols.zipIdx).map el, snf)

/-- Store a row of elements in an accumulator. -/
def Acc.putRow (a : Acc) (i : Nat) (es : List (BitVec 32)) : Acc :=
  { a with el := (es.zipIdx).foldl (fun m p => Map.set 0 m (32 * i + p.2) p.1) a.el }

/-! ## The queue -/

/-- The head of a cell's matrix queue. -/
def State.matHead (s : State) (cell : Nat) : Option MatCmd := (s.cell cell).matq.head?
/-- Take the head command off a cell's queue; entries that waited for it may be freed (R345). -/
def Cell.retireMat (c : Cell) : Cell :=
  let c1 : Cell := { c with matq := c.matq.drop 1, matDone := c.matDone + 1 }
  { c1 with rings := c1.rings.map (fun p => (p.1, c1.settleRing p.1 { p.2 with freed := p.2.freed.map (fun e => (e.1, e.2 - 1)) })) }

/-- The head command of the queue has finished: its flags go to its issuer (R115). -/
def State.matDone (s : State) (cell : Nat) (who : Issuer) (flags cycles : Nat) : State :=
  let s1 := (s.updCell cell Cell.retireMat).perfCell cell 0x16 cycles
  if flags = 0 then s1 else s1.mergeTo who.tid (.flags (BitVec.ofNat 64 flags))

/-- An accumulator of a cell. -/
def Cell.acc (c : Cell) (n : Nat) : Acc := Map.get Acc.reset c.accs n

/-- Run an MMA whose entries are published (R135, R136). -/
def State.runMma (s : State) (cell : Nat) (who : Issuer) (acc qa qb ea eb : Nat) (popA popB : Bool) (w : W64) (rows : Nat) (zero neg : Bool) : State :=
  let c := fmtCtx w
  match c.combo rows with
  | none => s.matDone cell who 0 0
  | some (k, rule) =>
    let k0 := s.cell cell
    let oa := (s.ringOf cell qa).entryAt ea
    let ob := (s.ringOf cell qb).entryAt eb
    let a : Operand := { off := oa, trailer := oa + up256 (aBytes c rows k) }
    let b : Operand := { off := ob, trailer := ob + up256 (bBytes c k) }
    let cols := (countFrom 0 32).map (bCol k0.ringMem ob c k)
    let old := k0.acc acc
    let rs := (countFrom 0 rows).map (mmaRow k0.ringMem c rule a b rows k zero neg cols old s.free)
    let new := ((rs.zipIdx).foldl (fun m r => m.putRow r.2 (r.1.1.map (·.1))) old)
    let iovf := rs.any (fun r => r.1.any (·.2))
    let snf := rs.any (·.2)
    let cycles := 2 * rows / (if c.sp then 2 else 1)
    let s1 := State.updCell { s with free := s.free + 2048 } cell (fun q => { q with accs := Map.set Acc.reset q.accs acc { new with int := c.int } })
    let s2 := s1.matDone cell who ((if snf then 1 else 0) + (if iovf then 2 else 0)) cycles
    let s3 := if popA then s2.freeEntry cell qa ea 0 else s2
    if popB then s3.freeEntry cell qb eb 0 else s3

/-- MMA_EXECUTE (R135, R141): waits until both entries are published. -/
def execMmaExecute (cell : Nat) (st : State) : Ans :=
  .next (match st.matHead cell with
    | some { op := .mma acc qa qb ea eb popA popB ctx rows zero neg, who := who, .. } =>
      if ea < (st.ringOf cell qa).t ∧ eb < (st.ringOf cell qb).t then st.runMma cell who acc qa qb ea eb popA popB ctx rows zero neg else st
    | _ => st)

/-- MZERO_EXECUTE (R125, R338). -/
def execMzeroExecute (cell : Nat) (st : State) : Ans :=
  .next (match st.matHead cell with
    | some { op := .mzero acc, who := who, .. } =>
      (st.updCell cell (fun c => { c with accs := Map.set Acc.reset c.accs acc Acc.reset })).matDone cell who 0 8
    | _ => st)

/-! ## MDRAIN (R137 to R139) -/

/-- The value of an accumulator element under its tag: an INT32 zero is +0, so that a negative SCALE makes it −0 (assumption 75). -/
def Acc.value (a : Acc) (i j : Nat) : FVal :=
  if a.int then FVal.ofInt (sextInt (a.get i j).toNat 32) else fF32.unpack (a.get i j).toNat

/-- The exact values of a drained row (R138; assumption 75 for the sign of a zero). -/
def drainVals (a : Acc) (scale : FVal) (r : Nat) : List FVal := (countFrom 0 32).map (fun j => (a.value r j).mul scale)

/-- emax of an element format (R139). -/
def emaxOf (e : Elem) : Int :=
  match e with
  | .int _ w => if w = 8 then 6 else 2
  | .flt f => if f = fE4M3 then 8 else if f = fE5M2 then 15 else if f = fE3M2 then 4 else 2

/-- A row's largest magnitude. -/
def rowMax (ys : List FVal) : FVal :=
  if ys.any (·.isNan) then .nan false else ys.foldl (fun m y => if m.lt y.abs then y.abs else m) (.fin false 0 0)

/-- The exponent of a row's scale; none for a NaN in the row (R139). -/
def rowExp (e : Elem) (ys : List FVal) : Option Int :=
  match rowMax ys with
  | .nan _ => none
  | .inf _ => some 1000
  | .fin _ m x => if m = 0 then some 0 else some (x + Nat.log2 m - emaxOf e)

/-- An exponent within bounds. -/
def clampInt (v lo hi : Int) : Int := if v < lo then lo else if hi < v then hi else v

/-- A row's scale in its trailer's bytes, and the values its elements convert (R139). -/
def rowScale (fmt : Nat) (ys : List FVal) : List Byte × List FVal :=
  let x := rowExp (fmtElem fmt) ys
  match fmtScheme fmt with
  | 1 =>
    (match x with
     | none => (leBytes 4 fF32.nanEnc, ys.map (fun _ => .nan false))
     | some e =>
       let k := clampInt e (-126) 127
       (leBytes 4 ((k + 127).toNat * 2 ^ 23), ys.map (·.scale2 (-k))))
  | 2 =>
    let b := match x with | none => 255 | some e => (clampInt (e + 127) 0 254).toNat
    ([BitVec.ofNat 8 b], ys.map (·.scale2 (127 - (b : Int))))
  | _ => ([], ys)

/-- What an MDRAIN carries besides its accumulator and address. -/
structure DrainArg where
  fmt : Nat
  rm : Rm
  sat : Bool
  seed : W64
  count : W64
  deriving DecidableEq, Repr

/-- A row converted: its bytes and whether SATF is raised (R138). -/
def drainRow (d : DrainArg) (r : Nat) (ys : List FVal) : List Byte × Bool :=
  let e := fmtElem d.fmt
  let os := (ys.zipIdx).map (fun p => e.convert d.rm d.sat false (if d.rm = .sr then srBits d.seed d.count (32 * r + p.2) else 0) p.1)
  (leBytes (4 * e.bits) (packBits e.bits (os.map (·.1))), os.any (fun o => satf e o.2))

/-- What a drain has produced so far. -/
structure Drained where
  puts : List Put
  adds : List Contrib
  flags : Bool
  deriving DecidableEq, Repr

/-- The address of a drained row: in the index list for scatter forms, none for a skipped row (R138). Where the list entry itself cannot be read, the
row has no address and the entry's is recorded (assumption 74). -/
def State.drainAddr (s : State) (who : Issuer) (cell : Nat) (held : Option W64) (mode : Nat) (addr : W64) (stride r : Nat) :
    State × Except (EngFail × W64) (Option W64) :=
  if mode = 2 ∨ mode = 5 ∨ mode = 6 then
    let ea := addr + BitVec.ofNat 64 (8 * r)
    match s.engRead who cell held ea 8 8 with
    | (s1, .error f) => (s1, .error (f, ea))
    | (s1, .ok bs) =>
      let w := BitVec.ofNat 64 (leNat bs)
      (s1, .ok (if w = BitVec.allOnes 64 then none else some w))
  else (s, .ok (some (addr + BitVec.ofNat 64 (r * stride))))

/-- Drain the rows of a memory form from row `r` on, `n` of them: what they write, and the first failure with the address
of the first row not written. -/
def State.drainRows (s : State) (who : Issuer) (cell : Nat) (held : Option W64) (mode : Nat) (addr : W64) (stride : Nat) (d : DrainArg)
    (vals : Nat → List FVal) : Nat → Nat → Drained → State × Drained × Option (EngFail × W64)
  | 0, _, o => (s, o, none)
  | n + 1, r, o =>
    match s.drainAddr who cell held mode addr stride r with
    | (s1, .error e) => (s1, o, some e)
    | (s1, .ok none) => s1.drainRows who cell held mode addr stride d vals n (r + 1) o
    | (s1, .ok (some ea)) =>
      let e := fmtElem d.fmt
      let add := decide (3 ≤ mode)
      match s1.engAccess who cell held ea (4 * e.bits) 8 .store add with
      | (s2, .error f) => (s2, o, some (f, ea))
      | (s2, .ok rs) =>
        let row := drainRow d r (vals r)
        let o1 : Drained :=
          if add then { o with adds := o.adds ++ ((vals r).zipIdx).map (fun p =>
            contribAt rs (p.2 * e.bits / 8) (e.bits / 8) p.1 (if d.rm = .sr then srBits d.seed d.count (32 * r + p.2) else 0) ea r) }
          else { o with puts := o.puts ++ putsAt rs (mcellsAt 0 row.1), flags := o.flags || row.2 }
        s2.drainRows who cell held mode addr stride d vals n (r + 1) o1

/-- The completion target of a drain word (R138). -/
def drainTarget (word : W64) : Target := if bit word 63 then .sem (fld word 62 59) else .none

/-- Engine cycles of a drain (R332). -/
def drainCycles (mode rows : Nat) : Nat := if mode ≤ 1 then rows else 2 * rows

/-- An MDRAIN in ring form (R129, R138, R139): none while the ring has no free entry. -/
def State.drainRing (s : State) (cell : Nat) (who : Issuer) (q rows : Nat) (word : W64) (d : DrainArg) (vals : Nat → List FVal) : State :=
  let ring := s.ringOf cell q
  if !ring.on || decide (ring.entryBytes < Machine.drainEntry d.fmt rows) then
    ((s.matDone cell who 0 0).engError who 8 2 (BitVec.ofNat 64 q) false).finishTarget cell true (drainTarget word) false who
  else if !ring.hasRoom then s
  else
    let rb := 4 * (fmtElem d.fmt).bits
    let base := ring.entryAt ring.t
    let out := (countFrom 0 rows).map (fun r => let q := rowScale d.fmt (vals r); (q.1, drainRow d r q.2))
    let data := (out.map (fun p => p.2.1)).flatten
    let scales := (out.map (·.1)).flatten
    let cells := cellsAt base data ++ cellsAt (base + up256 (rows * rb)) scales
    let s1 := s.updCell cell (fun c => { c with ringMem := Memory.writeCells c.ringMem cells })
    ((s1.publish cell q).matDone cell who (if out.any (fun p => p.2.2) then 4 else 0) (drainCycles 1 rows)).finishTarget cell true (drainTarget word) false who

/-- An MDRAIN into memory has ended: its flags, its failure, its signal (R138). -/
def State.drainEnd (s : State) (cell : Nat) (who : Issuer) (word : W64) (e : DrainEnd) : State :=
  let s1 := s.matDone cell who e.flags e.cycles
  let s2 := match e.fail with | some (code, ea) => s1.engError who 8 code ea false | none => s1
  s2.finishTarget cell true (drainTarget word) false who

/-- How the head drain ends once the last of its contributions has been applied, which can add a flag or a failure (06: R115). -/
def Cell.drainSent (c : Cell) (e : DrainEnd) : Cell := { c with matq := match c.matq with | m :: ms => { m with ended := some e } :: ms | [] => [] }

/-- An MDRAIN into memory (R138). -/
def State.drainMem (s : State) (cell : Nat) (who : Issuer) (held : Option W64) (mode rows : Nat) (addr word : W64) (d : DrainArg)
    (vals : Nat → List FVal) : State :=
  let p := s.drainRows who cell held mode addr (fld word 51 32) d vals rows 0 { puts := [], adds := [], flags := false }
  match p.2.2 with
  | some (.wait va r acc, _) => p.1.engineFault who cell true va r acc
  | some (.held, _) => s.engineHeld cell true
  | f =>
    if p.1.putsHeld who (p.2.1.puts ++ contribPuts p.2.1.adds) then s
    else
      let ordered := mode == 3 || mode == 5
      let items := contribItems who cell true d.fmt d.rm d.sat s.time.up p.2.1.adds
      let list := if mode = 2 ∨ mode = 5 ∨ mode = 6 then p.1.readLines who cell held addr (8 * rows) else []
      let e : DrainEnd := { flags := if p.2.1.flags then 4 else 0, cycles := drainCycles mode rows, fail := f.map (fun x => (x.1.code, x.2)) }
      let s1 := (((p.1.deliverPuts cell p.2.1.puts).updCell cell (fun c => c.drainSent e)).addContribs ordered items).engSeen cell list
      if ordered && !items.isEmpty then s1 else s1.drainEnd cell who word (((s1.cell cell).matq.head?.bind (·.ended)).getD e)

/-- MDRAIN_EXECUTE (R138): the head drain executes once the target of the one before it has been performed, and with ordered contributions ends
when they have all been applied. -/
def execMdrainExecute (cell : Nat) (st : State) : Ans :=
  .next (match st.matHead cell with
    | some { op := .mdrain acc mode addr word fmt rm sat seed count, who := who, faulted := held, ended := ended } =>
      if !mayRun held || st.targetPending cell true || st.addsPending cell true then st
      else match ended with
      | some e => st.drainEnd cell who word e
      | none =>
        let d : DrainArg := { fmt := fmt.toNat, rm := (rmOfCode rm.toNat).getD .rne, sat := sat, seed := seed, count := count }
        let rows := fld word 57 52 + 1
        let vals := drainVals ((st.cell cell).acc acc) (fF32.unpack (fld word 31 0))
        if mode = 1 then st.drainRing cell who addr.toNat rows word d vals
        else st.drainMem cell who held mode rows addr word d vals
    | _ => st)

end Sys2Proof.Machine
end

