-- ==== Sys2Proof/Machine/CopyEngine.lean ====
section
/-! DEFINITION. The copy engine: layout records, addressing, conversion, scales, gathering, reduce-on-write and faults
(08: R142 to R155). -/
namespace Sys2Proof.Machine

/-! ## Layout records (R144) -/

/-- One dimension of a record. -/
structure Dim where
  size : Nat
  org : Int
  stride : Nat
  win : Nat
  deriving DecidableEq, Repr

/-- A tensor layout record. -/
structure Layout where
  base : W64
  sptr : W64
  rank : Nat
  fmt : Nat
  dims : List Dim
  ilv : Nat
  fillm : Nat
  ssch : Nat
  rng : Bool
  q : Nat
  fill : Nat
  reserved : Bool
  deriving DecidableEq, Repr

/-- Dimension `k` of the twelve doublewords of a record. -/
def dimOf (w : Nat → W64) (k : Nat) : Dim :=
  { size := fld (w (2 + k)) 31 0, org := sextInt (fld (w (2 + k)) 63 32) 32, stride := fld (w (7 + k)) 39 0, win := fld (w (7 + k)) 55 40 }

/-- A dimension with every field zero. -/
def Dim.zero (d : Dim) : Bool := d.size == 0 && d.org == 0 && d.stride == 0 && d.win == 0

/-- Read a record from its 96 bytes. -/
def layoutOf (bs : List Byte) : Layout :=
  let w := fun (i : Nat) => (wordsOf 12 bs).getD i 0
  let rank := fld (w 7) 63 61
  let dims := (countFrom 0 5).map (dimOf w)
  { base := w 0, sptr := w 1, rank := rank, fmt := fld (w 7) 60 56, dims := dims.take (Nat.min rank 5), ilv := fld (w 8) 57 56, fillm := fld (w 8) 59 58,
    ssch := fld (w 8) 61 60, rng := bit (w 8) 62, q := fld (w 9) 59 56, fill := fld (w 11) 63 56 * 256 + fld (w 10) 63 56,
    reserved := bit (w 8) 63 || decide (fld (w 9) 63 60 ≠ 0) || decide (fld (w 8) 61 60 = 3) || decide (0x1C ≤ fld (w 7) 60 56) ||
      (dims.drop rank).any (fun d => !d.zero) }

/-- Elements of a record's window. -/
def Layout.count (l : Layout) : Nat := (l.dims.map (·.win)).foldl (· * ·) 1
/-- WIN of a dimension, 1 above RANK. -/
def Layout.winAt (l : Layout) (k : Nat) : Nat := match l.dims[k]? with | some d => d.win | none => 1
/-- Bits of an element. -/
def Layout.bits (l : Layout) : Nat := (fmtElem l.fmt).bits
/-- The interleave granule. -/
def Layout.granule (l : Layout) : Nat := 32 * 2 ^ l.ilv

/-! ## Addressing (R146, R147, R150) -/

/-- Coordinates of window element `n`; a gathered index replaces the source coordinate 1. -/
def coordsOf (idx : Option Nat) : Nat → Nat → List Dim → List Int
  | _, _, [] => []
  | k, n, d :: ds =>
    (match k, idx with | 1, some j => (j : Int) | _, _ => d.org + (n % d.win : Nat)) :: coordsOf idx (k + 1) (n / d.win) ds

/-- Every coordinate lies in its dimension. -/
def inBounds (cs : List Int) (ds : List Dim) : Bool := (cs.zip ds).all (fun p => decide (0 ≤ p.1) && decide (p.1 < (p.2.size : Int)))
/-- The element index of coordinates. -/
def elemIndex (cs : List Int) (ds : List Dim) : Int := ((cs.zip ds).map (fun p => p.1 * (p.2.stride : Int))).foldl (· + ·) 0
/-- Coordinates clamped to the dimensions' ends (EDGE). -/
def clampCoords (cs : List Int) (ds : List Dim) : List Int := (cs.zip ds).map (fun p => clampInt p.1 0 ((p.2.size : Int) - 1))

/-- The interleave of a byte offset (R146). -/
def Layout.swizzle (l : Layout) (o : Int) : Int :=
  if l.ilv = 0 then o
  else
    let g : Int := (l.granule : Nat)
    let m := (o / g) % (g / 16)
    -- the swizzled bits lie within the granule
    (o / g) * g + ((Nat.xor (o % g).toNat (16 * m).toNat : Nat) : Int)

/-- What element `n` of a side is (R147). -/
inductive Where where
  | at (e : Int)
  | outside
  | bounds (e : Int)
  deriving DecidableEq, Repr

/-- Locate element `n` of a side; `src` says which. -/
def Layout.find (l : Layout) (src : Bool) (idx : Option Nat) (n : Nat) : Where :=
  let cs := coordsOf idx 0 n l.dims
  if inBounds cs l.dims then .at (elemIndex cs l.dims)
  else if l.fillm = 2 then .bounds (elemIndex cs l.dims)
  else if src && l.fillm == 1 then .at (elemIndex (clampCoords cs l.dims) l.dims)
  else .outside

/-- Byte offsets that hold element `e`, swizzled, and the bit the element begins at in the first. -/
def Layout.bytesOf (l : Layout) (e : Int) : List Int × Nat :=
  let b : Int := e * (l.bits : Int)
  let sub := (b % 8).toNat
  ((countFrom 0 ((sub + l.bits + 7) / 8)).map (fun (j : Nat) => l.swizzle (b / 8 + (j : Int))), sub)

/-- The effective address of a byte offset. -/
def Layout.addr (l : Layout) (o : Int) : W64 := l.base + BitVec.ofInt 64 o

/-- Offsets grouped in runs of consecutive ones. -/
def runsOf : List Int → List (Int × Nat)
  | [] => []
  | o :: os => match runsOf os with
    | (p, n) :: rest => if p = o + 1 then (o, n + 1) :: rest else (o, 1) :: (p, n) :: rest
    | [] => [(o, 1)]

/-- Places of runs of bytes, in order; a failure names the run's address. -/
def State.copyRuns (s : State) (who : Issuer) (cell : Nat) (held : Option W64) (acc : Access) (dataIn : Bool) (l : Layout) :
    List (Int × Nat) → State × Except (EngFail × W64) (List Run)
  | [] => (s, .ok [])
  | (o, n) :: rest =>
    match s.engAccess who cell held (l.addr o) n 1 acc dataIn with
    | (s1, .error f) => (s1, .error (f, l.addr o))
    | (s1, .ok rs) =>
      match s1.copyRuns who cell held acc dataIn l rest with
      | (s2, .error e) => (s2, .error e)
      | (s2, .ok more) => (s2, .ok (rs ++ more))

/-! ## Checks of records (R145) -/

/-- A failed check: status, ASYNCERR code, side. -/
structure RecFail where
  status : Nat
  code : Nat
  side : Bool
  deriving DecidableEq, Repr

/-- Granule of a scale scheme along K (R148). -/
def granuleOf (scheme : Nat) : Nat := match scheme with | 1 => 128 | 2 => 32 | 3 => 16 | 4 => 128 | _ => 0

/-- Bytes of data before a side's trailer (R130, R148). -/
def Layout.dataBytes (l : Layout) : Nat := up256 ((l.winAt 0 * l.winAt 1 * l.bits + 7) / 8)

/-- Bytes of the trailer of a side under its SSCH, in the layout of an entry whose K is its WIN0 and whose rows or columns are its WIN1 (R130,
R148). -/
def Layout.trailerLen (l : Layout) : Nat :=
  let m := l.winAt 1
  let k := l.winAt 0
  match fmtScheme l.fmt, l.ssch with
  | 1, 1 => 256 * (k / 128)
  | 1, _ => up256 (4 * (k / 128))
  | 2, _ => up256 (m * (k / 32))
  | 3, 1 => up256 (20 * m)
  | 3, _ => Nat.max 768 (up256 (512 + 4 * m))
  | 4, 1 => 0
  | 4, _ => up256 (2 * m * (k / 128))
  | _, _ => 0

/-- A side's own conditions of the BADREC row, but for ring and scales. -/
def Layout.badSelf (l : Layout) (dst : Bool) : Bool :=
  decide (l.rank = 0) || decide (5 < l.rank) || l.dims.any (fun d => d.size == 0 || d.win == 0) ||
  (decide (l.ilv ≠ 0) && decide (l.base.toNat % l.granule ≠ 0)) || decide (l.fillm = 3) || (dst && decide (l.fillm = 1)) ||
  (!dst && l.rng) ||
  (decide (l.ssch ≠ 0) && (decide (granuleOf (fmtScheme l.fmt) = 0) || decide (l.winAt 0 % granuleOf (fmtScheme l.fmt) ≠ 0) ||
    (l.dims.drop 2).any (fun d => d.win != 1)))

/-- The highest byte offset over every position of a window, in bounds or not, after the swizzle (R149). -/
def Layout.top (l : Layout) : Int :=
  ((countFrom 0 l.count).map (fun n => (l.bytesOf (elemIndex (coordsOf none 0 n l.dims) l.dims)).1.foldl max (-1))).foldl max (-1)

/-- The window's highest byte offset o of R146, which leaves BASE out, and the trailer's end lie in an entry of `size` bytes (R149;
assumption 25). -/
def Layout.fitsEntry (l : Layout) (size : Nat) : Bool :=
  decide (l.top < (size : Int)) && (decide (l.ssch = 0) || decide (l.dataBytes + l.trailerLen ≤ size))

/-- The scale granules of the two sides pair (R148): tile scales of VT and block scales of B16 need equal shapes. -/
def scalesPair (a b : Layout) : Bool :=
  if a.ssch = 0 ∧ b.ssch = 0 then true
  else a.fmt == b.fmt && a.ssch == b.ssch &&
    (match fmtScheme a.fmt with
     | 1 => a.ssch != 2 || a.winAt 0 == b.winAt 0
     | 3 => a.winAt 0 == b.winAt 0
     | _ => true)

/-- The first failing check of two records, in the table's order (R145). -/
def State.recordFail (s : State) (cell rw : Nat) (a b : Layout) : Option RecFail :=
  if a.reserved then some ⟨1, 6, false⟩
  else if b.reserved then some ⟨1, 6, true⟩
  else if a.badSelf false then some ⟨2, 6, false⟩
  else
    let ring := s.ringOf cell b.q
    if b.badSelf true || a.count != b.count || !scalesPair a b ||
        (b.rng && (!ring.on || !b.fitsEntry ring.entryBytes || rw != 0)) ||
        (rw != 0 && !(b.fmt == 0x0B || b.fmt == 0x0A || b.fmt == 0x09)) then some ⟨2, 6, true⟩
    else none

/-! ## Moving elements -/

/-- The fill value of a source element (R147). -/
def Layout.fillBits (l : Layout) : Nat := if l.bits ≤ 16 then l.fill % 2 ^ l.bits else l.fill * 65536

/-- Convert an element's bits between two codes, with SATF (R148). -/
def copyConvert (a b bits : Nat) : Nat × Bool :=
  if a = b then (bits, false)
  else
    let r := (fmtElem b).convert .rne true false 0 ((fmtElem a).unpack bits)
    (r.1, satf (fmtElem b) r.2)

/-- What the copy has produced so far: bytes of memory, bytes of the entry, additions, and the lines of this module that it
has read. -/
structure Copied where
  puts : List Put
  ring : List MCell
  adds : List Contrib
  flags : Bool
  seen : List SeenLine
  deriving DecidableEq, Repr

/-- Why the copy stopped: the failure, its address, its side, and the first undelivered offset. -/
structure CopyStop where
  fail : EngFail
  addr : W64
  side : Bool
  n : Nat
  deriving DecidableEq, Repr

/-- The masked bytes of an element's value that begins at bit `sub`. -/
def elemCells (bits sub v n : Nat) : List MCell :=
  let m := (2 ^ bits - 1) * 2 ^ sub
  (countFrom 0 n).map (fun j => (j, BitVec.ofNat 8 (m / 256 ^ j), BitVec.ofNat 8 (v % 2 ^ bits * 2 ^ sub / 256 ^ j)))

/-- The gathered index of window element `n`, when there is a list (R150). -/
def State.gatherIndex (s : State) (cell : Nat) (cmd : CopyCmd) (a : Layout) (n : Nat) : State × Except (EngFail × W64) (Option Nat) :=
  if !cmd.gather || decide (a.rank < 2) then (s, .ok none)
  else
    let j := n / a.winAt 0 % a.winAt 1
    let ea := cmd.list + BitVec.ofNat 64 (4 * j)
    if cmd.list.toNat % 4 ≠ 0 then (s, .error (.align, ea))
    else match s.engRead cmd.who cell cmd.faulted ea 4 1 with
      | (s1, .error f) => (s1, .error (f, ea))
      | (s1, .ok bs) => (s1, .ok (some (leNat bs)))

/-- Read source element `n`: its bits, and the lines it is read from (R146, R147). -/
def State.sourceElem (s : State) (cell : Nat) (cmd : CopyCmd) (a : Layout) (idx : Option Nat) (n : Nat) :
    State × Except (EngFail × W64) (Nat × List SeenLine) :=
  match a.find true idx n with
  | .outside => (s, .ok (a.fillBits, []))
  | .bounds e => (s, .error (.bounds, a.addr ((a.bytesOf e).1.headD 0)))
  | .at e =>
    let p := a.bytesOf e
    match s.copyRuns cmd.who cell cmd.faulted .load true a (runsOf p.1) with
    | (s1, .error f) => (s1, .error f)
    | (s1, .ok rs) => (s1.seeRuns rs, .ok (leNat (s1.runBytes rs) / 2 ^ p.2 % 2 ^ a.bits, s1.runLines rs))

/-- Place destination element `n` (R146, R147, R151). -/
def State.placeElem (s : State) (cell : Nat) (cmd : CopyCmd) (b : Layout) (n bits : Nat) (y : FVal) (o : Copied) :
    State × Except (EngFail × W64) Copied :=
  match b.find false none n with
  | .outside => (s, .ok o)
  | .bounds e => (s, .error (.bounds, b.addr ((b.bytesOf e).1.headD 0)))
  | .at e =>
    let p := b.bytesOf e
    let cs := elemCells b.bits p.2 bits p.1.length
    if b.rng then
      (s, .ok { o with ring := o.ring ++ (p.1.zip cs).map (fun q => ((((b.base.toNat : Int) + q.1).toNat, q.2.2) : MCell)) })
    else match s.copyRuns cmd.who cell cmd.faulted .store (cmd.rw != 0) b (runsOf p.1) with
      | (s1, .error f) => (s1, .error f)
      | (s1, .ok rs) =>
        if cmd.rw ≠ 0 then (s1, .ok { o with adds := o.adds ++ [contribAt rs 0 (b.bits / 8) y 0 (b.addr (p.1.headD 0)) n] })
        else (s1, .ok { o with puts := o.puts ++ putsAt rs cs })

/-- Move elements from `n` on, `k` of them, in canonical order up to the first failure (R153). An element whose destination is out of bounds is
converted, and can raise SATF, before it is dropped (assumption 74; R115). -/
def State.moveElems (s : State) (cell : Nat) (cmd : CopyCmd) (a b : Layout) : Nat → Nat → Copied → State × Copied × Option CopyStop
  | 0, _, o => (s, o, none)
  | k + 1, n, o =>
    match s.gatherIndex cell cmd a n with
    | (s1, .error f) => (s1, o, some { fail := f.1, addr := f.2, side := false, n := n })
    | (s1, .ok idx) =>
      match s1.sourceElem cell cmd a idx n with
      | (s2, .error f) => (s2, o, some { fail := f.1, addr := f.2, side := false, n := n })
      | (s2, .ok (bits, ls)) =>
        let c := copyConvert a.fmt b.fmt bits
        match s2.placeElem cell cmd b n c.1 ((fmtElem a.fmt).unpack bits) o with
        | (s3, .error f) => (s3, o, some { fail := f.1, addr := f.2, side := true, n := n })
        | (s3, .ok o1) => s3.moveElems cell cmd a b k (n + 1) { o1 with
            flags := o1.flags || (c.2 && cmd.rw == 0)
            seen := o1.seen ++ ls.filter (fun l => !o1.seen.contains l) }

/-! ## Scales (R148, R130) -/

/-- Offset in a side's trailer, and bytes, of the scale of the granule that begins at canonical element `n`. Granules of a G128
column longer than 128 lie one after another (assumption 75). -/
def Layout.scaleAt (l : Layout) (n : Nat) : Nat × Nat :=
  let k := l.winAt 0
  let i := n / k
  let e := n % k
  match fmtScheme l.fmt with
  | 1 => if l.ssch = 1 then (256 * (e / 128) + 4 * i, 4) else (4 * (e / 128), 4)
  | 2 => (i * (k / 32) + e / 32, 1)
  | 3 => (16 * i + e / 16, 1)
  | _ => (2 * (i * (k / 128) + e / 128), 2)

/-- Offset in a B16 side's trailer of the block scale of row or column `i` (R130). -/
def Layout.blockAt (l : Layout) (i : Nat) : Nat := if l.ssch = 1 then 16 * l.winAt 1 + 4 * i else 512 + 4 * i

/-- The scale moves of a command: source offset, destination offset, bytes; the B16 block scales last. -/
def scaleMoves (a b : Layout) : List (Nat × Nat × Nat) :=
  if a.ssch = 0 then []
  else
    let scheme := fmtScheme a.fmt
    if scheme = 4 ∧ a.ssch = 1 then []
    else
      let g := granuleOf scheme
      let rows := if scheme = 1 ∧ a.ssch = 2 then 1 else a.winAt 1
      let ns := (countFrom 0 (rows * (a.winAt 0 / g))).map (fun q => q / (a.winAt 0 / g) * a.winAt 0 + q % (a.winAt 0 / g) * g)
      let main := ns.map (fun n => ((a.scaleAt n).1, (b.scaleAt n).1, (a.scaleAt n).2))
      let blocks := if scheme = 3 then (countFrom 0 (a.winAt 1)).map (fun i =>
          (a.blockAt i, b.blockAt i, 4)) else []
      main ++ blocks

/-- Move scales; a failure leaves none written (R153). -/
def State.moveScales (s : State) (cell : Nat) (cmd : CopyCmd) (a b : Layout) :
    List (Nat × Nat × Nat) → Copied → State × Except (EngFail × W64 × Bool) Copied
  | [], o => (s, .ok o)
  | (so, dof, n) :: rest, o =>
    let sa := a.sptr + BitVec.ofNat 64 so
    match s.engRead cmd.who cell cmd.faulted sa n 1 with
    | (s1, .error f) => (s1, .error (f, sa, false))
    | (s1, .ok bs) =>
      let seen := o.seen ++ s1.readLines cmd.who cell cmd.faulted sa n
      if b.rng then s1.moveScales cell cmd a b rest { o with ring := o.ring ++ mcellsAt (b.dataBytes + dof) bs, seen := seen }
      else
        let da := b.sptr + BitVec.ofNat 64 dof
        match s1.engAccess cmd.who cell cmd.faulted da n 1 .store false with
        | (s2, .error f) => (s2, .error (f, da, true))
        | (s2, .ok rs) => s2.moveScales cell cmd a b rest { o with puts := o.puts ++ putsAt rs (mcellsAt 0 bs), seen := seen }

/-- Elements, then scales: what is delivered, and the first failure. -/
def State.copyAll (s : State) (cell : Nat) (cmd : CopyCmd) (a b : Layout) : State × Copied × Option CopyStop :=
  match s.moveElems cell cmd a b a.count 0 { puts := [], ring := [], adds := [], flags := false, seen := [] } with
  | (s1, o, some f) => (s1, o, some f)
  | (s1, o, none) =>
    match s1.moveScales cell cmd a b (scaleMoves a b) o with
    | (s2, .ok o1) => (s2, o1, none)
    | (s2, .error f) => (s2, o, some { fail := f.1, addr := f.2.1, side := f.2.2, n := a.count })

/-! ## The command -/

/-- The head command has finished: its record, its flags and its target (R115, R152, R154). -/
def State.copyDone (s : State) (cell : Nat) (cmd : CopyCmd) (e : CopyEnd) : State :=
  let s1 := (s.updCell cell (fun c => { c with copyq := c.copyq.drop 1, copyDone := c.copyDone + 1 })).updTid cmd.who.tid
    (fun t => { t with copyRec := { t.copyRec with out := t.copyRec.out - 1 } })
  let s2 := if e.flags = 0 then s1 else s1.mergeTo cmd.who.tid (.flags (BitVec.ofNat 64 e.flags))
  let s3 := s2.mergeTo cmd.who.tid (.copyDone e.count)
  let s4 := match e.fail with
    | some (side, status, code, n, addr) =>
      (s3.mergeTo cmd.who.tid (.copyFault cmd.gather side status n addr)).engError cmd.who 7 code addr (cmd.target != Target.none)
    | none => s3
  s4.finishTarget cell false cmd.target e.fail.isSome cmd.who

/-- Change the head command of a cell's copy queue. -/
def State.updCopy (s : State) (cell : Nat) (f : CopyCmd → CopyCmd) : State :=
  s.updCell cell (fun c => { c with copyq := match c.copyq with | m :: ms => f m :: ms | [] => [] })

/-- Read a record (R145): its 96 bytes at a multiple of 32. -/
def State.readRecord (s : State) (cell : Nat) (cmd : CopyCmd) (ea : W64) : State × Except EngFail (List Byte) :=
  if ea.toNat % 32 ≠ 0 then (s, .error .align) else s.engRead cmd.who cell cmd.faulted ea 96 1

/-- A record that cannot be read: a page fault to wait for, or the command's end. -/
def State.recordStop (s : State) (cell : Nat) (cmd : CopyCmd) (f : EngFail) (side : Bool) (ea : W64) : State :=
  match f with
  | .wait va r acc => s.engineFault cmd.who cell false va r acc
  | .held => s.engineHeld cell false
  | _ => s.copyDone cell cmd { count := 0, flags := 0, fail := some (side, f.status, f.code, 0, ea) }

/-- Read the records that are still to be read, the source's first, and keep them: they are read once, when execution begins (R145). None when
one cannot be read. -/
def State.readRecords (s : State) (cell : Nat) (cmd : CopyCmd) : State × Option (List Byte × List Byte) :=
  match cmd.recs with
  | a :: b :: _ => (s, some (a, b))
  | a :: [] =>
    (match s.readRecord cell cmd cmd.dst with
     | (s1, .error f) => (s1.recordStop cell cmd f true cmd.dst, none)
     | (s1, .ok b) => (s1.updCopy cell (fun c => { c with recs := [a, b] }), some (a, b)))
  | [] =>
    match s.readRecord cell cmd cmd.src with
    | (s1, .error f) => (s1.recordStop cell cmd f false cmd.src, none)
    | (s1, .ok a) =>
      let s2 := s1.updCopy cell (fun c => { c with recs := [a] })
      match s2.readRecord cell cmd cmd.dst with
      | (s3, .error f) => (s3.recordStop cell cmd f true cmd.dst, none)
      | (s3, .ok b) => (s3.updCopy cell (fun c => { c with recs := [a, b] }), some (a, b))

/-- The lines of this module that hold a command's two records, and its index list (R150). -/
def State.recordLines (s : State) (cell : Nat) (cmd : CopyCmd) (list : Nat) : List SeenLine :=
  let f := s.readLines cmd.who cell cmd.faulted
  f cmd.src 96 ++ f cmd.dst 96 ++ (if cmd.gather then f cmd.list (4 * list) else [])

/-- Move and deliver what a command whose records are sound moves; its reads of other dies' lines are counted (04: R78). A command with ordered
additions ends when they have all been applied (R142, R151), any other at once. -/
def State.runCopy (s : State) (cell : Nat) (cmd : CopyCmd) (a b : Layout) : State :=
  let ring := s.ringOf cell b.q
  if b.rng && !ring.hasRoom then s
  else
    let p := s.copyAll cell cmd a b
    match p.2.2 with
    | some { fail := .wait va r acc, .. } => p.1.engineFault cmd.who cell false va r acc
    | some { fail := .held, .. } => s.engineHeld cell false
    | f =>
      let o := p.2.1
      if p.1.putsHeld cmd.who (o.puts ++ contribPuts o.adds) then s
      else
        let items := contribItems cmd.who cell false b.fmt .rne true s.time.up o.adds
        let bytes := (dedup (o.puts.map (·.loc))).length + (dedup (o.ring.map (·.1))).length + o.adds.length * (b.bits / 8)
        let e : CopyEnd := { count := a.count, flags := if o.flags then 4 else 0, fail := f.map (fun x => (x.side, x.fail.status, x.fail.code, x.n, x.addr)) }
        let s1 := ((p.1.deliverPuts cell o.puts).updCopy cell (fun c => { c with ended := some e })).addContribs (cmd.rw == 1) items
        let base := ring.entryAt ring.t
        let into := (o.ring.map (fun x => ((base + x.1, x.2) : MCell))).filter (fun x => decide (x.1 < (s.cell cell).area))
        let s2 := (s1.engSeen cell (p.1.recordLines cell cmd (a.winAt 1) ++ o.seen)).updCell cell (fun c => { c with ringMem := Memory.writeMasked c.ringMem into })
        let s3 := if b.rng && f.isNone then s2.publish cell b.q else s2
        let s4 := s3.perfCell cell 0x17 bytes
        if cmd.rw == 1 && !items.isEmpty then s4 else s4.copyDone cell cmd (((s4.cell cell).copyq.head?.bind (·.ended)).getD e)

/-- CPY_EXECUTE (R142, R145 to R153): the head command executes once the target of the one before it has been performed and its additions have been
applied. -/
def execCpyExecute (cell : Nat) (st : State) : Ans :=
  .next (match (st.cell cell).copyq.head? with
    | none => st
    | some cmd =>
      if !mayRun cmd.faulted || st.targetPending cell false || st.addsPending cell false then st
      else match cmd.ended with
        | some e => st.copyDone cell cmd e
        | none =>
          match st.readRecords cell cmd with
          | (s1, none) => s1
          | (s1, some (x, y)) =>
            let a := layoutOf x
            let b := layoutOf y
            match s1.recordFail cell cmd.rw a b with
            | some f => (s1.engSeen cell (s1.recordLines cell cmd 0)).copyDone cell cmd
                { count := 0, flags := 0, fail := some (f.side, f.status, f.code, 0, if f.side then cmd.dst else cmd.src) }
            | none => s1.runCopy cell cmd a b)

end Sys2Proof.Machine
end

