-- ==== Sys2Proof/Machine/DebugEvents.lean ====
section
/-! DEFINITION. Events of the debug window (14: R244 to R247, R253). -/
namespace Sys2Proof.Machine

/-- DBGCTL_HALT (R244). -/
def execDbgctlHalt (core : Nat) (st : State) : Ans := .next (if (st.core core).dbg.halt then st else st.dbgHalt core)
/-- DBGCTL_RESUME (R244, R245). -/
def execDbgctlResume (core : Nat) (st : State) : Ans := .next (if (st.core core).dbg.halt then st.dbgResume core else st)
/-- DBGCTL_STEP (R247). -/
def execDbgctlStep (core : Nat) (st : State) : Ans := .next (st.dbgStep core)
/-- DACC_ACCESS (R246). -/
def execDaccAccess (core : Nat) (st : State) : Ans := .next (st.daccGo core)
/-- ORBIT_END (R253). -/
def execOrbitEnd (core : Nat) (st : State) : Ans := .next (st.rotateSet core)
/-- CLR_COUNTERS (R253). -/
def execClrCounters (core : Nat) (st : State) : Ans := .next (st.clearCounters core)
/-- CLR_STALL (R253). -/
def execClrStall (core : Nat) (st : State) : Ans := .next (st.clearStall core)
/-- CLR_DELAY (R253, R256). -/
def execClrDelay (core : Nat) (st : State) : Ans := .next (st.clearDelay core)
/-- CLR_RAS (R253). -/
def execClrRas (core : Nat) (st : State) : Ans := .next (st.clearRas core)
/-- CLR_TRLOST (R251, R253). -/
def execClrTrlost (core : Nat) (st : State) : Ans := .next (st.clearTrlost core)

end Sys2Proof.Machine
end

