-- ==== Sys2Proof/Machine/FabricEvents.lean ====
section
/-! DEFINITION. Events of the fabric: links, routing, the chassis spare, class-S slots (04: R83; 11: R210; 12: R214, R217;
13: R231). -/
namespace Sys2Proof.Machine

/-! ## Transfers and the ports they leave by -/

/-- The module that an effect travels to, and its class: once it has been handed over, an ordered contribution from its release on, and while this
module holds it at its port after a refusal (11: R200). -/
def State.travels (s : State) (r : Released) : Option (BitVec 16 × FabClass) :=
  if r.stage != .handed && r.stage != .refused && !(r.stage == .waiting && r.item.ordered) then none
  else match r.item with
    | .stage _ _ _ ⟨some h, _⟩ _ _ => if h = s.moduleId then none else some (h, .a)
    | i => i.farTo

/-- The module a waiting thread's access travels to, and its class. -/
def Thread.travels (t : Thread) : Option (BitVec 16 × FabClass) :=
  if t.st != .dataWait then none
  else match t.pend with
    | .outer ⟨some h, _⟩ _ cls => some (h, cls)
    | .rmw ⟨some h, _⟩ _ _ _ _ cls _ => some (h, cls)
    | .key ⟨some h, _⟩ _ cls _ => some (h, cls)
    | .pageWord ⟨some h, _⟩ _ _ cls _ => some (h, cls)
    | _ => none

/-- A handed effect is undeliverable (R214 step 1): ASYNCERR NOHOME, or its caravan's record notes it. -/
def State.undeliver (s : State) (n : Nat) : State :=
  match s.released[n]? with
  | none => s
  | some r =>
    match r.item with
    | .stage cid gen _ l _ _ =>
      let s1 := s.clearRel n
      if s.cvOurs cid && s.stageLives cid gen then
        (s1.updCaravan (cidRecord cid) (fun c => { c with undelivered := dedup (c.undelivered ++ [s.homeOf l]) })).wakeCv cid
      else s1
    | .amo _ _ _ _ _ => (s.clearRel n).replyFail r.tid false
    | _ => s.failRel n 1

/-- Every effect that meets a test is undeliverable, in release order. One that an earlier one's failure has taken back with its command is reported
with that (07: R138; 08: R153). -/
def State.undeliverAll (s : State) (p : Nat → Released → Bool) : State :=
  ((s.released.zipIdx.filter (fun q => p q.2 q.1)).map (·.1)).foldl (fun k r => match k.released.findIdx? (· == r) with
    | some n => k.undeliver n
    | none => k) s

/-- Every waiting access that meets a test gets FARERR. -/
def State.unreplyAll (s : State) (p : Thread → Bool) : State :=
  ((s.allThreads.filter p).map (·.tid)).foldl (fun k tid => k.replyFail tid false) s

/-- A transfer can leave by a direction, its detour's included. -/
def State.leavesBy (s : State) (d : Nat) (h : BitVec 16 × FabClass) : Bool := (s.leaveDirs h.1 h.2).contains d

/-- Take `n` free values off the counter. -/
def State.skipFree (s : State) (n : Nat) : State := { s with free := s.free + n }

/-- A neighbour stands in a direction: the meshes X and Y end at the chassis, and a ring of one position has none (R212). -/
def State.hasNeighbour (s : State) (d : Nat) : Bool :=
  let x := nbits s.moduleId.toNat 15 14
  let y := nbits s.moduleId.toNat 13 12
  match d with
  | 0 => decide (x < 3) | 1 => decide (0 < x) | 2 => decide (y < 3) | 3 => decide (0 < y)
  | 4 | 5 => decide (1 < s.service.zlen)
  | _ => decide (1 < s.service.wlen)

/-- Link states of R230: 2 for an up port of a direction that detours take. -/
def State.markDetours (s : State) : State :=
  let takes := fun (d : Nat) => (countFrom 0 4).any (fun e => s.hasNeighbour e && !s.dirUp e && s.detourDir e == some d)
  { s with fabric := { s.fabric with
      links := s.fabric.links.map (fun p => if p.2 = 0 then p else (p.1, if takes (p.1 / 3) then 2 else 1)) } }

/-! ## Links and routing (R214) -/

/-- Regions of other modules whose pushes a failing link may have dropped lose their subscription (R83): which, is a free
value (assumption 5). -/
def State.loseSubs (s : State) : State :=
  let base := s.free
  let lost := (s.subs.zipIdx.filter (fun p => p.1.2 == 2 && bit (Config.freeWord (base + p.2)) 0)).map (fun p => p.1.1)
  State.skipFree { s with
    subs := s.subs.map (fun p => if lost.contains p.1 then (p.1, 3) else p)
    farMoons := s.farMoons.filter (fun p => !lost.contains (regionOf (64 * p.1))) } s.subs.length

/-- The flits on a failing link are dropped (R214 step 1). Which of the transfers whose routes may use it are on it, is a
free value (assumption 5). An effect that has been performed and whose acknowledgement is on it is reported as well, since none comes (assumption
75). -/
def State.dropFlits (s : State) (dir : Nat) : State :=
  let base := s.free
  let n := s.released.length
  let onLink := fun (i : Nat) => bit (Config.freeWord (base + i)) 0
  let far := fun (r : Released) => if r.stage = .performed then r.item.farTo else if r.stage = .handed then s.travels r else none
  let hitR := fun (i : Nat) (r : Released) => (match far r with | some h => s.leavesBy dir h && onLink i | none => false)
  let hitT := fun (t : Thread) => (match t.travels with | some h => s.leavesBy dir h && onLink (n + t.tid) | none => false)
  let s1 := (s.skipFree (n + s.nextTid + 1)).undeliverAll hitR
  (s1.unreplyAll hitT).loseSubs

/-- LINK_DOWN (R214, R231): an up port goes down; with the last port of its direction, routing begins to reconverge. -/
def execLinkDown (port : Nat) (st : State) : Ans :=
  .next (if 24 ≤ port ∨ st.portUp port = false then st
    else
      let dir := port / 3
      let s1 := st.dropFlits dir
      let s2 : State := { s1 with fabric := { s1.fabric with links := Map.set 0 s1.fabric.links port 0 } }
      let s3 : State := if s2.dirUp dir then s2
        else { s2 with fabric := { s2.fabric with reconverging := true, falling := s2.fabric.falling.filter (fun p => p.1 != dir) ++ [(dir, s2.time.up)] } }
      s3.healthEvent .linkDown port)

/-- LINK_UP (R212, R214, R231); a port of a missing neighbour stays down. -/
def execLinkUp (port : Nat) (st : State) : Ans :=
  .next (if 24 ≤ port ∨ st.portUp port = true ∨ st.hasNeighbour (port / 3) = false then st
    else (State.markDetours { st with fabric := { st.fabric with links := Map.set 0 st.fabric.links port 1 } }).healthEvent .linkUp port)

/-- ROUTE_RECONVERGED (R214 step 3, R403): held transfers go on, or fail where no route is left. -/
def execRouteReconverged (st : State) : Ans :=
  .next (if !st.fabric.reconverging then st
    else
      let s1 := State.markDetours { st with fabric := { st.fabric with reconverging := false, falling := [] } }
      let none_ := fun (x : Option (BitVec 16 × FabClass)) => match x with | some h => s1.noRoute h.1 h.2 | none => false
      (s1.undeliverAll (fun _ r => none_ (s1.travels r))).unreplyAll (fun t => none_ t.travels))

/-- Transfers of waiting threads are numbered from here, behind the released effects. -/
def threadTransfer : Nat := 2 ^ 32

/-- ROUTE_HOLD_TIMEOUT (R214 step 2): the n-th released effect, or with n from 2^32 on the access of thread n - 2^32. -/
def execRouteHoldTimeout (n : Nat) (st : State) : Ans :=
  .next (
    if n < threadTransfer then
      match st.released[n]? with
      | some r => (match st.travels r with
        | some h => if st.heldOut h.1 h.2 r.sentAt then st.undeliver n else st
        | none => st)
      | none => st
    else match st.findTid (n - threadTransfer) with
      | some t => (match t.travels with
        | some h => if st.heldOut h.1 h.2 t.waitAt then st.replyFail t.tid false else st
        | none => st)
      | none => st)

/-- SPARE_SUBSTITUTION (R214, R83): the chassis spare, with memory as at reset, takes another module's identifier; its
traffic takes up to two hops more, a free value (assumption 5), and subscriptions to its regions are lost. -/
def execSpareSubstitution (ident : BitVec 16) (st : State) : Ans :=
  .next (if ident = st.moduleId then st
    else
      let mine := fun (key : Nat) => key / 2 ^ 44 == ident.toNat
      let ours := fun (region : Nat) => mine (2097152 * region)
      let extra := (ident, (Config.freeWord st.free).toNat % 3)
      { st with
        free := st.free + 1
        farMem := st.farMem.filter (fun c => !mine c.1)
        poisoned := st.poisoned.filter (fun l => !(decide (2 ^ 64 ≤ l) && mine (64 * (l - 2 ^ 64))))
        keyRegs := st.keyRegs.filter (fun k => k.loc.home != some ident)
        farMoons := st.farMoons.filter (fun p => !mine (64 * p.1))
        subs := st.subs.map (fun p => if ours p.1 && p.2 != 0 then (p.1, 3) else p)
        fabric := { st.fabric with spares := extra :: st.fabric.spares.filter (fun p => p.1 != ident) } })

/-! ## Class-S slots (11: R210; 12: R217) -/

/-- The first held class-S transfer to a destination whose turn has come. -/
def State.nextHeld (s : State) (dest : BitVec 16) : Option Nat :=
  (countFrom 0 s.released.length).find? (fun n =>
    !s.heldBack n && (match s.released[n]? with | some r => s.travels r == some (dest, .s) | none => false))

/-- Send held class-S transfers to a destination; at most `fuel` of them. -/
def State.sendHeld (s : State) (dest : BitVec 16) : Nat → State
  | 0 => s
  | fuel + 1 =>
    match s.nextHeld dest with
    | none => s
    | some n =>
      match (match s.released[n]? with | some r => if r.item.ordered then execOrderedContribution n s else execFarStoreArrival n s | none => .next s) with
      | .next s1 => if s1.released = s.released then s else s1.sendHeld dest fuel
      | _ => s

/-- SLOT_OPEN (R210, R217): transfers held for the slot's destination are sent. -/
def execSlotOpen (entry : Nat) (st : State) : Ans :=
  .next (
    let e := Map.get Slot.reset st.fabric.slots entry
    if e.openAt st.time.now then st.sendHeld e.dest st.released.length else st)

/-- SLOT_TABLE_UPDATE (R217): a write that waited takes effect at the end of the slot that was open when it came. -/
def execSlotTableUpdate (entry : Nat) (st : State) : Ans :=
  .next (match st.fabric.slotWrites.find? (fun p => p.1 == entry) with
    | none => st
    | some p =>
      if st.time.now.toNat < p.2.2 then st
      else { st with fabric := { st.fabric with
        slots := Map.set Slot.reset st.fabric.slots entry p.2.1
        slotWrites := st.fabric.slotWrites.filter (fun q => q.1 != entry) } })

end Sys2Proof.Machine
end

