-- ==== Sys2Proof/Machine/Fetch.lean ====
section
/-! DEFINITION. Fetching an instruction, the checks before it issues, and the passing of time (02: R26, R37; 05: R87,
R102; 14: R244, R247, R250, R255). -/
namespace Sys2Proof.Machine

/-- The word of a line's bytes that an address names. -/
def codeWord (bs : List Byte) (a : Nat) : W32 := BitVec.ofNat 32 (leNat ((bs.drop (a % 64)).take 4))

/-- Fetch a word of outer memory as an outer load (03: R55; 12: R214, R216): what its reply has brought, its error response or uncorrectable data
(R102), or a wait for it. -/
def State.outerFetch (s : State) (pc : W64) (loc : Loc) (cls : FabClass) : State × Except Stop W32 :=
  match s.th.replies.find? (fun r => r.1 == loc && r.2.length == 4) with
  | some r => (s, .ok (BitVec.ofNat 32 (leNat r.2)))
  | none =>
    if s.th.replyBad then (s, .error (.halt (.trap .farerr pc)))
    else if s.th.replyPoison then (s, .error (.halt (.trap .poison pc)))
    else (s, .error (.wait (.outer loc 4 cls)))

/-- Fetch the word at a virtual address that no line of the instruction cache is tagged with: it is translated at the port (R88), and an
inner line fills the cache, once the host that holds it has given it up (12: R221). -/
def State.fetchMiss (s : State) (pc : W64) (va : Nat) : State × Except Stop W32 :=
  let core := s.th.core
  match s.translate (s.asidOf core) (s.rootOf core) (clusterOf (cellOf core)) va .fetch with
  | (s1, .error r) => (s1, .error (.halt (.fault (BitVec.ofNat 64 va) r .fetch)))
  | (s1, .ok e) =>
    match s1.placeOf (segOf s1.th.seg pc) (s.asidOf core) (clusterOf (cellOf core)) va e with
    | .inner key _ _ _ =>
      if s1.poisoned.contains (lineOf key) then (s1, .error (.halt (.trap .poison pc)))
      else if !isHostKey key && !s1.permits (s1.coreInit core) key false then (s1.logAddr key, .error (.halt (.trap .farerr pc)))
      else if s1.hostHolds (lineOf key) && !s1.th.got.contains (lineOf key) then (s1, .error (.wait (.direct [lineOf key])))
      else (s1.fillCode (lineOf key) (vtag (s.asidOf core) va), .ok (codeWord (s1.bytesAt (64 * lineOf key) 64) key))
    | .far home pa cls => s1.outerFetch pc { home := some home, pa := pa } cls
    | .hostPcie port a => s1.outerFetch pc { home := none, pa := hostKey port a } .a
    | _ => (s1, .error (.halt (.trap .farerr pc)))

/-- Fetch the word at the pc: the steps of R87 with g0, n = 4 and the right X. -/
def State.fetch (s : State) : State × Except Stop W32 :=
  let pc := s.th.arch.pc
  let trap := fun (c : Cause) => (s, Except.error (.halt (.trap c pc)))
  if fld pc 1 0 ≠ 0 then trap .align
  else if fld pc 63 61 ≠ 0 then trap .seglimit
  else match segCheck s.th.seg pc 4 4 .fetch with
    | .error c => trap c
    | .ok (.inl off) =>
      if (s.cell s.myCell).area < off + 4 then trap .seglimit
      else (s, .ok (BitVec.ofNat 32 (leNat (Memory.readBytes (s.cell s.myCell).ringMem off 4))))
    | .ok (.inr va) =>
      match s.codeHit (vtag (s.asidOf s.th.core) va) with
      | (s0, some bs) => (s0, .ok (codeWord bs va))
      | (s0, none) => s0.fetchMiss pc va

/-- Breakpoints that match the instruction about to issue (14: R248, R250). -/
def State.bpHits (s : State) : List (Nat × Bool) :=
  if s.th.bpSkip.contains s.th.arch.pc then []
  else ((countFrom 0 8).filterMap s.bpMatch).filter (fun p => !(p.2 && s.th.inh))

/-- What stands before the issue of the next instruction (R37, R101, R244, R250): the end of an ended gang's thread,
merges at a boundary, a DEFERRED trap, which a CVCOMMIT or GCHK that has begun precedes (R101), a debug stop, a requested cut, the end of a save or restore routine (09: R177). None
when the instruction may issue. -/
def State.before (s : State) : Option State :=
  let isOpen := s.th.chunk.isOpen
  if s.gangEnded then some (if isOpen then s.cut .reissue else s.updTh Thread.gone)
  else if !isOpen && !s.th.merges.isEmpty then some (s.updTh Thread.mergeAll)
  else if !isOpen && s.th.deferredDue && s.th.wait != .caravan && s.th.wait != .guard then some (s.trapStep .deferred s.th.asyncaddr)
  else if (s.core s.th.core).dbg.halt && !s.th.stepping && isOpen then some (s.cut .stop)
  else if (s.core s.th.core).dbg.halt && !s.th.stepping && !s.th.woken then some s.stopHere
  else if s.th.cutReq then some ((s.updTh (fun t => { t with cutReq := false })).cut .reissue)
  else match s.routineOver with
    | some r => some (if isOpen then s.cut .reissue else s.endRoutine r)
    | none => none

/-- Count the issue of an instruction (14: R254, R255). -/
def State.counted (s : State) : State :=
  let s1 : State := if s.th.yielded then s.updTh (fun t => { t with yielded := false }) else s
  if bit (s1.core s1.th.core).dbg.pmctl 63 && !s1.th.issued then (s1.perf s1.th.core 0x02 1).updTh (fun t => { t with issued := true }) else s1

/-- What an instruction meets comes before the BREAK of a breakpoint on it (R95). -/
def After.beforeBreak (a : After) : Bool :=
  match a with
  | .trap c _ => c != .farerr && c != .poison && c != .ecall && c != .breakpoint
  | .fault _ _ _ => true
  | _ => false

/-- A BREAK of breakpoint `u` is due at the instruction about to issue at its boundary: what the instruction itself meets decides between its
own trap or page fault, a watchpoint that stops the core, and the BREAK (R95; 14: R250). -/
def State.breakAt (ex : Instr → State → Ans) (s : State) (u : Nat) : Ans :=
  let brk := s.cut (.hit 2 u true)
  match s.fetch with
  | (s1, .error (.halt (.trap c v))) => .next (if (After.trap c v).beforeBreak then s1.raise c v else brk)
  | (s1, .error w) => .next (s.endWith s1 w)
  | (s1, .ok w) =>
    match decode w with
    | .error _ => .next (s1.illegal w)
    | .ok i => match ex i (s1.updTh (fun t => { t with met := .reissue })) with
      | .next t => .next (if t.th.met.beforeBreak then t else match t.th.met with | .hit 3 _ false => s.cut (.hit 2 u false) | _ => brk)
      | _ => .next brk

/-- Issue one instruction of the issuing thread: fetch, decode, and the meaning `ex` of what was decoded; a word
that decodes to nothing raises ILLEGAL (15: R270). -/
def State.issue (ex : Instr → State → Ans) (s : State) : Ans :=
  match s.before with
  | some s1 => .next s1
  | none =>
    match pickHit s.th.inh s.bpHits [] with
    | some (.hit c u false) => .next (s.cut (.hit c u false))
    | some (.hit _ u true) => if s.th.chunk.isOpen then .next (s.cut .reissue) else s.breakAt ex u
    | _ =>
      match s.fetch with
      | (s1, .error w) => .next (s.endWith s1 w)
      | (s1, .ok w) =>
        match decode w with
        | .error _ => .next (s1.illegal w)
        | .ok i => ex i s1.counted

/-- The stall counter a state counts in; a thread that exits waits for its effects as in DATA-WAIT (14: R255; assumption 75). -/
def Thread.stallClass (t : Thread) (farOrOtherDie : Bool) : Option Nat :=
  match t.st with
  | .runnable => some 1
  | .dataWait | .exiting => some (if farOrOtherDie then 3 else 2)
  | .requesting | .committing => some 4
  | .parked => some 5
  | .faultWait => some 6
  | .spillWait => some 7
  | _ => none

/-- A released effect is performed outside a die: at another one, a far module or a host. -/
def State.effectFar (s : State) (die : Nat) (i : Item) : Bool :=
  let away := fun (l : Loc) => l.home.isSome || s.keyDie l.pa != die
  match i with
  | .farStore _ _ _ _ | .hostStore _ _ _ => true
  | .comet l _ _ _ _ _ => away l
  | .tsemSig l _ _ _ => away l
  | .amo l _ _ _ _ => away l
  | .stage _ _ _ l _ _ => away l
  | .ringStore c _ | .semSig c _ _ | .radv c _ | .rpop c _ _ _ | .rcfg c _ _ _ => dieOf c != die
  | _ => false

/-- A pending access is served outside its own die (R255); a fence, and a thread that exits, wait for effects. -/
def State.waitsFar (s : State) (t : Thread) : Bool :=
  let die := dieOf (cellOf t.core)
  let effects := fun (scope : Nat) => (s.released ++ s.buffered).any (fun r => r.tid == t.tid && r.blocks scope && s.effectFar die r.item)
  if t.st = .exiting then effects 2
  else match t.pend with
  | .lines ls _ _ | .direct ls => ls.any (fun l => (s.serveRead die l).2 != die)
  | .rmw l _ _ _ _ _ _ | .key l _ _ _ | .pageWord l _ _ _ _ => l.home.isSome || s.keyDie l.pa != die
  | .outer l n _ => (match l.home with
    | some h => if (s.farMoonBytes l n).isSome then farMoonDie (farLineKey h l.pa) != die else true
    | none => true)
  | .fence scope => effects scope
  | _ => false

/-- Add the cycles a core has run to its counters (R253, R255). In how many of them a runnable thread issues, is a free value
(assumptions 5 and 12). -/
def State.addCycles (s : State) (base : Nat) (t : Thread) (n : Nat) : State :=
  if n = 0 || t.slot.isNone then s
  else
    let add := fun (c n : Nat) (m : Map W64) => Map.upd 0 m (8 * t.slotNo + c) (fun v => satAdd v n)
    match t.stallClass (s.waitsFar t) with
    | none => s
    | some 1 =>
      let k := (Config.freeWord (base + t.tid)).toNat % (n + 1)
      s.updDbg t.core (fun d => { d with stall := add 0 k (add 1 (n - k) d.stall) })
    | some c => s.updDbg t.core (fun d => { d with stall := add c n d.stall })

/-- TENA, TRUN and the cycle events of a core over `n` cycles, `idle` of them without an issue (R253, R254). -/
def Debug.tick (d : Debug) (n idle : Nat) : Debug :=
  if bit d.pmctl 63 then
    let d1 := { d with
      tena := satAdd d.tena n
      trun := (countFrom 0 8).foldl (fun m k => Map.upd 0 m (8 * d.curSet + k) (fun v => satAdd v n)) d.trun }
    (d1.countEvent 0x01 n).countEvent 0x04 idle
  else d

/-- The timebase after `n` units: it stands still while held, and slews at 100 ppm (11: R206, R207); it never wraps. -/
def Time.pass (t : Time) (n : Nat) : Time :=
  let held := Nat.min t.hold n
  let run := n - held
  let room : Int := ((t.up + run) / 10000 - t.up / 10000 : Nat)
  let corr : Int := if t.slew < 0 then max t.slew (-room) else min t.slew room
  { t with up := t.up + n, hold := t.hold - held, slew := t.slew - corr, now := satAdd t.now ((run : Int) + corr).toNat }

/-- A stretch of time without an edge passes: `n` timebase units, and the cycles of every island but those the governor withholds, which it does not
inside the window of an awaited time (R259). How many of a core's cycles are idle, is a free value, all of them where no thread of the core is
runnable (assumptions 5 and 12). -/
def State.spell (s : State) (n : Nat) : State :=
  let off := fun (i : Nat) => if s.atFull i then 0 else Map.get 0 s.service.withheld i
  let kept := fun (i : Nat) => n * s.mhz i - off i
  let ticks := (countFrom 0 64).foldl (fun m i => Map.upd 0 m i (· + kept i)) s.islandTicks
  let s1 : State := { s with
    time := s.time.pass n
    islandTicks := ticks
    service := { s.service with withheld := s.service.withheld.filterMap (fun p =>
      if s.atFull p.1 then some p else if p.2 ≤ n * s.mhz p.1 then none else some (p.1, p.2 - n * s.mhz p.1)) } }
  let ran := fun (core : Nat) => s1.cyclesOf core - s.cyclesOf core
  let busy := fun (core : Nat) => s.allThreads.any (fun t => t.core == core && t.slot.isSome && t.st == .runnable)
  let idle := fun (core : Nat) => if busy core then (Config.freeWord (s.free + core)).toNat % (ran core + 1) else ran core
  let s2 : State := { s1 with
    free := s.free + 4096 + s.nextTid
    cores := s1.cores.map (fun (p : Nat × Core) => (p.1, { p.2 with dbg := p.2.dbg.tick (ran p.1) (idle p.1) })) }
  s2.allThreads.foldl (fun k t => k.addCycles (s.free + 4096) t (ran t.core)) s2

/-- Units from now on, at most `n`, without an edge: the end of an orbit of a core's counters (R253), or an end of a window of full speed (R259), of
whose distance a 4096th is left out, since the timebase may be slewed. -/
def State.untilEdge (s : State) (n : Nat) : Nat :=
  if n ≤ 1 then n
  else
    let now := s.time.now.toNat
    let orbits := s.cores.map (fun p => p.2.dbg.orbitAt + (s.orbitsDue p.1 + 1) * p.2.dbg.orbitUnits - s.time.up)
    let windows := ((countFrom 0 64).map (fun i => Map.get 0 s.service.fullSpeed i ::
      ((s.awaited i).map (fun v => [v - 2 * Config.usUnits, v + Config.usUnits + 1])).flatten)).flatten
    let dists := orbits ++ (windows.filter (fun v => decide (now < v))).map (fun v => v - now - (v - now) / 4096)
    Nat.max 1 (dists.foldl Nat.min n)

/-- Time passes from edge to edge; `fuel` bounds the stretches. The counter sets of cores whose orbits end switch (R253). -/
def State.elapseIn (s : State) : Nat → Nat → State
  | 0, _ => s
  | fuel + 1, n =>
    if n = 0 then s
    else
      let k := s.untilEdge n
      let s1 := s.spell k
      (s1.cores.foldl (fun (q : State) p => q.rotateSet p.1) s1).elapseIn fuel (n - k)

/-- Time passes: `n` timebase units. -/
def State.elapse (s : State) (n : Nat) : State := s.elapseIn n n

end Sys2Proof.Machine
end

