-- ==== Sys2Proof/Machine/Place.lean ====
section
/-! DEFINITION. One gang of one thread with one instruction in memory: what a placement leaves, for a machine on which
none has been made (assumption 3). -/
namespace Sys2Proof.Machine

/-- A kernel without safe points. -/
def Kernel.plain : Kernel :=
  { entry := 0, imgsz := 0, trap := 0, area := 1048576, fmtdef := 0, spill := 65536, segs := [], rings := [], safepts := [] }

/-- A launch of one C-core thread on cell 1. -/
def Launch.plain : Launch :=
  { inst := 0, deps := [], port := 0, cring := 0, tag := 0, lid := 1, image := 0x10000, tpc := 1, cores := 2, ord := false, rrm := 0, det := false,
    prio := 0, asid := 1, ox := 1, oy := 0, wd := 1, ht := 1, anyOrg := false, bms := 0, bmc := 0xFF,
    ww := [0, 0, 0, 0, 0, 0], widFirst := 0, widLast := 0, prods := [], start := 0, tsaddr := 0, tsval := 0, wtab := 0,
    args := [0, 0, 0, 0], guarded := false, gtol := 0, gbudget := 65536, xtpc := 0, xcores := 0, xany := false, xht := 0,
    xwd := 0, xoy := 0, xox := 0, ximage := 0 }

/-- A gang of one thread as its placement leaves it (09: R162). -/
def Gang.plain : Gang :=
  { ident := 1, launch := Launch.plain, kernel := Kernel.plain, exact := false, mate := none, size := 1, ox := 1, oy := 0,
    wd := 1, ht := 1, placed := true, released := true, swapped := false, everPreempted := false, nextItem := 0, items := 1,
    queue := [], barriers := [], exited := [], retired := 0, passed := 0, failed := 0, overflowed := 0,
    flags := 0, grade := 0, code := 0, cause := 0, ended := false, triggered := false, req := .none, reqNext := false,
    savedCells := [], reqAt := 0, saves := [], record := [], recBase := 0, recSize := 0, recOverflow := false, recMismatch := false }

/-- Page tables at 2 MiB that map virtual 0x10000 to the code page at 0x500000 (R88, R89). -/
def codeTables (mem : List Host.Cell) (plc : Bool) : List Host.Cell :=
  let m1 := Memory.write64 mem 0x200000 0x400001
  let m2 := Memory.write64 m1 0x400000 0x401001
  let m3 := Memory.write64 m2 0x401000 0x402001
  Memory.write64 m3 0x402008 (if plc then 0x5000BF else 0x50003F)

/-- A state in which the next step fetches the word: a gang of one thread runs on cell 1, its code page is mapped and
readable, and nothing stands before the issue. -/
def State.withWord (s : State) (w : Nat) : State :=
  let core : Core := { Core.reset with ptroot := 0x0001000000200000 }
  let rule : FwRule := { lo := 0, hi := 0xE2000000FFFFFFFF }
  { s with
    th := { Thread.reset with tid := 1, st := .runnable, gang := some 1, core := 3, slot := some 0,
                              seg := [(0, mkSeg 0x10000 65536 5)] }
    threads := s.threads.filter (fun t => t.tid != 1)
    nextTid := Nat.max s.nextTid 2
    agenda := [.select 1]
    gangs := Gang.plain :: s.gangs.filter (fun g => g.ident != 1)
    cores := Map.set Core.reset s.cores 3 core
    tlbs := Map.set [] s.tlbs 0 []
    poisoned := s.poisoned.filter (· != 0x14000)
    service := { s.service with firewall := Map.set FwRule.reset s.service.firewall 0 rule }
    mem := Memory.writeBytes (codeTables s.mem (decide (s.service.ibnd ≤ 0x500000))) 0x500000 (leBytes 4 w) }

end Sys2Proof.Machine
end

