-- ==== Sys2Proof/Machine/ServiceEvents.lean ====
section
/-! DEFINITION. Events of boot, the service column, health, power and errors (13: R224 to R231; 14: R257 to R259). -/
namespace Sys2Proof.Machine

/-! ## Reset and boot (R224, R227) -/

/-- MODULE_RESET (R224): the state after reset; what lies outside the module stays. -/
def execModuleReset (st : State) : Ans :=
  .next { State.reset with
    agenda := st.agenda
    free := st.free
    farMem := st.farMem
    hosts := st.hosts.map (fun p => (p.1, { HostPort.reset with mem := p.2.mem })) }

/-- A fatal condition: the module is RETIRED and its live gangs end KILLED, grade D (R232). -/
def State.retireModule (s : State) : State := if s.service.drain = .retired then s else (s.enterDrain .retired).killAll 4

/-- The table gives each cell of the column one role, and each role a cell (R227, R228). -/
def rolesOk (img : BootImage) : Bool :=
  img.roles.length == 8 * img.columnWidth && [Role.front, .sched, .fault, .mgmt, .ckpt].all img.roles.contains

/-- Each field of the table lies in its range (R14, R227). -/
def rangesOk (img : BootImage) : Bool :=
  (img.columnWidth == 1 || img.columnWidth == 2) && decide (img.ibndGiB ≤ 48) && decide (img.degMin ≤ img.degMax) && decide (img.degMax ≤ 4) &&
  decide (64 ≤ img.pinTimeMs) && decide (img.pinTimeMs ≤ 64000) && decide (1 ≤ img.indoubtS) && decide (img.indoubtS ≤ 600) &&
  decide (100 ≤ img.gatherMs) && decide (img.gatherMs ≤ 60000) && decide (1 ≤ img.zlen) && decide (img.zlen ≤ 32) && decide (1 ≤ img.wlen) &&
  decide (img.wlen ≤ 32) && img.cxl.all (fun p => decide (p.1 < 2) && decide (p.2.1 + p.2.2 ≤ Config.hbmEnd))

/-- The configuration table is valid: its signature, its roles and its ranges (R224, R227, R228; assumption 50). -/
def tableOk (img : BootImage) : Bool := img.tableValid && rolesOk img && rangesOk img

/-- Boot progress, which the BOOT field of the health window shows at once (R224, R230). -/
def State.setBoot (s : State) (n : Nat) : State :=
  { s with service := { s.service with boot := n }, health := { s.health with dw1 := setFld s.health.dw1 18 16 n } }

/-- The firewall as the root monitor programs it (R224 step 4, R226). -/
def bootFirewall (rules : List (Nat × W64 × W64)) : Map FwRule :=
  rules.foldl (fun m p => if p.1 < 256 then Map.set FwRule.reset m p.1 { lo := p.2.1 &&& 0xFFFFFFFF, hi := p.2.2 &&& 0xFE000000FFFFFFFF } else m) []

/-- The root monitor loads the configuration table, programs the firewall and starts the service column, or the module is
RETIRED (R224 step 4). -/
def State.startModule (s : State) (img : BootImage) : State :=
  if !tableOk img then State.retireModule ({ s with service := { s.service with monitor := none } }.setBoot 4)
  else State.setBoot { s with
    moduleId := img.moduleId &&& moduleIdMask
    service := { s.service with
      monitor := none, firewall := bootFirewall img.firewall, degMin := img.degMin, degMax := img.degMax,
      columnWidth := img.columnWidth, ibnd := img.ibndGiB * 1073741824, cthr := img.cthr, pinTimeMs := img.pinTimeMs,
      indoubtS := img.indoubtS, zlen := img.zlen, wlen := img.wlen, pps := img.pps, gatherMs := img.gatherMs,
      roles := img.roles, tbepoch := img.tbepoch, ptpDomain := img.ptpDomain, ptpRank := img.ptpRank, cxl := img.cxl, watchdogAt := s.time.up } } 5

/-- A verified image, of the flash (1) or of a host (2): the root monitor starts from it (R224). -/
def State.startMonitor (s : State) (n : Nat) (img : BootImage) : State := { s with service := { s.service with monitor := some img } }.setBoot n

/-- The root monitor that has started does the rest of step 4 (R224). -/
def State.rootMonitor (s : State) : State := match s.service.monitor with | some img => s.startModule img | none => s

/-- SECURITY_BOOT (R224 steps 1 to 4): the flash image is verified once after reset; the root monitor that then runs does its
part in the next step of the boot. -/
def execSecurityBoot (img : BootImage) (st : State) : Ans :=
  .next (if st.service.monitor.isSome = true then st.rootMonitor
    else if st.service.boot ≠ 0 ∨ st.service.flashBad.isSome = true then st
    else if img.imageValid then st.startMonitor 1 img
    else { st with service := { st.service with flashBad := some st.time.up } })

/-- HOST_IMAGE_DELIVERY (R224 step 3): within 60 s, from host port 0 or 1; an image that fails its verification changes
nothing. -/
def execHostImageDelivery (port : Nat) (img : BootImage) (st : State) : Ans :=
  .next (match st.service.flashBad with
    | some t =>
      if st.service.boot ≠ 0 ∨ 2 ≤ port ∨ img.imageValid = false ∨ t + 60000 * Config.msUnits ≤ st.time.up then st else st.startMonitor 2 img
    | none => st)

/-- BOOT_IMAGE_TIMEOUT (R224). -/
def execBootImageTimeout (st : State) : Ans :=
  .next (match st.service.flashBad with
    | some t =>
      if st.service.boot = 0 ∧ t + 60000 * Config.msUnits ≤ st.time.up then State.retireModule (st.setBoot 3) else st
    | none => st)

/-! ## The scheduler's watchdog (R229) -/

/-- WATCHDOG_WRITE (R229). -/
def execWatchdogWrite (st : State) : Ans := .next { st with service := { st.service with watchdogAt := st.time.up } }

/-- The service column's cores are reset, and the contexts of its firmware go. -/
def State.resetColumn (s : State) : State :=
  let out := fun (t : Thread) => t.gang.isNone && s.inColumn (cellOf t.core)
  { s with
    th := if out s.th then { s.th with st := .vacant, chunk := Chunk.reset, wait := .none, pend := .none } else s.th
    threads := s.threads.filter (fun t => !out t)
    cores := s.cores.filter (fun p => !s.inColumn (cellOf p.1)) }

/-- Running checkpoints are not restarted: each ends CARAVAN with detail 4, and its caravan, unless it is decided, with that outcome (R241). -/
def State.endCkpts (s : State) : State :=
  (s.ckpts.filter (·.running)).foldl (fun (k : State) (c : Ckpt) =>
    match c.carav with
    | none => k.ckptEnd c .caravan 4 0 0
    | some id =>
      let open_ := (k.caravan id).st == CvState.opened || (k.caravan id).st == CvState.preparing
      State.ckptEnd (if open_ then k.cvEnd id 4 else k) c .caravan 4 (k.cidOf id).toNat 0) s

/-- Restart the service column (R229): uncommitted transactions are rolled back; the third restart within 1 s retires the
module. -/
def State.restartColumn (s : State) : State :=
  let v := s.service
  let recent := v.restarts.filter (fun t => decide (s.time.up < t + 1000 * Config.msUnits)) ++ [s.time.up]
  let s1 : State := { s.resetColumn with service := { v with
    restarts := recent, restartCount := v.restartCount + 1, watchdogAt := s.time.up, log := v.log.filter (·.1) } }
  let s2 := s1.endCkpts.healthEvent .watchdog (v.restartCount + 1)
  if 3 ≤ recent.length then s2.retireModule else s2

/-- WATCHDOG_TIMEOUT (R229): 100 ms without a write. -/
def execWatchdogTimeout (st : State) : Ans :=
  .next (if st.serving && decide (st.service.watchdogAt + 100 * Config.msUnits ≤ st.time.up) then st.restartColumn else st)

/-- SERVICE_CRASH (R229). -/
def execServiceCrash (core : Nat) (st : State) : Ans := .next (if st.serving && st.inColumn (cellOf core) then st.restartColumn else st)

/-! ## The health window (R230) -/

/-- The cell map: bit n set when cell n is free. -/
def State.cellMap (s : State) : BitVec 2048 := BitVec.ofNat 2048 ((countFrom 0 2048).foldl (fun a c => if s.cellFree c then a + 2 ^ c else a) 0)

/-- HEALTH_REFRESH (R230): SEQ rises before and after; power, current and the HBM stacks' status are free values (assumption
5). -/
def execHealthRefresh (st : State) : Ans :=
  .next (if !st.serving then st
    else
      let links := (countFrom 0 24).foldl (fun a p => a + Map.get 0 st.fabric.links p % 4 * 4 ^ p) 0
      { st with
        free := st.free + 33
        health := { st.health with
          seq := st.health.seq + 2
          dw1 := BitVec.ofNat 64 (st.moduleId.toNat + st.service.boot % 8 * 2 ^ 16 + st.service.drain.code * 2 ^ 20)
          tbstat := st.tbstat
          links := BitVec.ofNat 64 links
          live := st.gangs.length
          waiting := sumOf (fun w => w.launch.ids.length) st.waiting
          refused := st.service.refusedLaunches
          freeCells := st.cellMap
          power := Config.freeWord st.free
          freqs := (countFrom 0 72).map (fun i => st.mhz i / 100)
          hbmStacks := (countFrom 0 32).map (fun i => (Config.freeWord (st.free + 1 + i)).toNat % 3) } })

/-! ## Power (R259) -/

/-- THROTTLE (R259, R231). -/
def execThrottle (island : Nat) (mhz : Nat) (st : State) : Ans :=
  .next (if 72 ≤ island ∨ mhz < 300 ∨ 1700 < mhz ∨ mhz % 100 ≠ 0 ∨ mhz = Map.get 1700 st.service.islands island then st
    else State.healthEvent { st with service := { st.service with islands := Map.set 1700 st.service.islands island mhz } } .throttle island)

/-- WAITT_WINDOW (R259): from 2 µs before an awaited time until 1 µs after it. `State.mhz` follows the awaited times themselves;
this step keeps the window's end for when the wait has ended. -/
def execWaittWindow (island : Nat) (st : State) : Ans :=
  .next (match st.nearTime island with
    | some v => st.keepFull island v
    | none => st)

/-- CURRENT_GOVERNOR (R259): cycles are withheld from an island outside a WAITT window, and counted in SKIP of its cores (R254). -/
def execCurrentGovernor (island : Nat) (cycles : Nat) (st : State) : Ans :=
  .next (if 64 ≤ island ∨ st.atFull island = true then st
    else ((countFrom 0 4096).filter (fun c => islandOf c == island)).foldl
      (fun k c => (k.updDbg c (fun d => { d with skip := satAdd d.skip cycles })).perf c 0x18 cycles)
      { st with service := { st.service with withheld := Map.upd 0 st.service.withheld island (· + 16000 * cycles) } })

/-! ## Errors (14: R257, R258) -/

/-- Mark a line poisoned; the first marking raises POISON (R258). -/
def State.poisonLine (s : State) (line : Nat) : State :=
  if s.poisoned.contains line then s else State.healthEvent { s with poisoned := s.poisoned ++ [line] } .poison (64 * line)

/-- A core that soft errors will not let go on (R257): its gang ends with grade B, its cell leaves the cell map. -/
def State.coreFaulty (s : State) (t : Thread) : State :=
  let cell := cellOf t.core
  let s1 := s.updCell cell (fun c => { c with faulty := true })
  let s2 := match t.gang with | some g => s1.endGang g 2 2 0 0#8 | none => s1
  { s2 with free := s2.free + 1 }.healthEvent .poison (Config.freeWord s2.free).toNat

/-- A soft error that an uncommitted chunk may have met (R257). -/
def State.softSquash (s : State) (t : Thread) : State :=
  if !t.uncommitted then s
  else
    let n := t.softSquashes + 1
    let s1 := (s.squashTid t.tid 2).updTid t.tid (fun u => { u with softSquashes := n })
    let s2 := s1.updDbg t.core (fun d => { d with sesq := satAdd d.sesq 1 })
    if 16 ≤ n then s2.coreFaulty t else s2

/-- A core's instruction cache does not serve the line: it is fetched again when an instruction from it issues (R257; 05:
R102). -/
def State.forgetCode (s : State) (core line : Nat) : State :=
  s.updCore core (fun c => { c with icache := c.icache.filter (fun p => p.line != line) })

/-- SOFT_ERROR (R257, R258; 05: R102): a clean line is dropped, a dirty one written back poisoned. -/
def execSoftError (e : SoftErr) (st : State) : Ans :=
  .next (match e with
    | .chunk tid => (match st.findTid tid with | some t => st.softSquash t | none => st)
    | .single core => st.updDbg core (fun d => { d with corr := satAdd d.corr 1 })
    | .cleanLine core line => if (st.core core).dirty.contains line then st
        else (st.updCore core (fun c => { c with dcache := c.dcache.filter (fun h => h.line != line) })).forgetCode core line
    | .dirtyLine core line => if (st.core core).dirty.contains line then
        (st.updCore core (fun c => { c with dirty := c.dirty.filter (· != line) })).poisonLine line else st
    | .line line => st.poisonLine line
    | .fetchAhead core line => (st.forgetCode core line).updDbg core (fun d => { d with latent := satAdd d.latent 1 }))

/-- PATROL_SCRUB (R258): correctable errors are corrected, which nothing of this state shows. -/
def execPatrolScrub (_line : Nat) (_l2 : Bool) (st : State) : Ans := .next st

end Sys2Proof.Machine
end

