-- ==== Sys2Proof/Machine/TimeEvents.lean ====
section
/-! DEFINITION. Events of the timebase's discipline: PTP messages, PPS, loss and holdover (11: R206, R207). -/
namespace Sys2Proof.Machine

/-- Units of a Sync interval: 2^-4 s (R207). -/
def syncUnits : Nat := 1000000000
/-- Units of a second. -/
def secondUnits : Nat := 16000000000

/-- A valid message has come: SRC, and ACQUIRING out of FREERUN (R207). -/
def Time.heard (t : Time) (src : Nat) : Time :=
  { t with syncAt := t.up, src := src, st := if t.st = .freerun then .acquiring else t.st, good := if t.st = .freerun then 0 else t.good }

/-- The next discipline state after an estimate (R207). -/
def Time.judge (t : Time) (o : Int) : Time :=
  match t.st with
  | .locked => if 320 < o.natAbs then { t with st := .holdover, holdAt := t.up, good := 0 } else t
  | .freerun => t
  | _ =>
    let good := if o.natAbs ≤ 160 then t.good + 1 else 0
    if 16 ≤ good then { t with st := .locked, good := 0 } else { t with good := good }

/-- The correction that an offset asks for: a step forward or a hold beyond 1 ms while ACQUIRING, else a slew. A timebase that is
held stays so until the reference has reached it, also once it is less than 1 ms ahead. -/
def Time.correct (t : Time) (o : Int) : Time :=
  let far := t.st == .acquiring && decide (Config.msUnits < o.natAbs)
  if far && decide (0 < o) then { t with now := satAdd t.now o.toNat, slew := 0, hold := 0 }
  else if o < 0 ∧ (far = true ∨ 0 < t.hold) then { t with slew := 0, hold := (-o).toNat }
  else { t with slew := o, hold := 0 }

/-- Put a timed event behind those of no later value. -/
def insertTimed (e : Nat × (State → Ans)) : List (Nat × (State → Ans)) → List (Nat × (State → Ans))
  | [] => [e]
  | x :: xs => if x.1 ≤ e.1 then x :: insertTimed e xs else e :: x :: xs

/-- Timed events in order of value. -/
def sortTimed (es : List (Nat × (State → Ans))) : List (Nat × (State → Ans)) := es.foldl (fun a e => insertTimed e a) []

/-- What awaits a value of the timebase: WAITT, START, and a caravan's times: the decision cut-off D - 200 µs, D, the locking of lines at T - 2 µs, T,
and the in-doubt limit (R206; 10: R184, R187, R190). -/
def State.timedEvents (s : State) : List (Nat × (State → Ans)) :=
  s.allThreads.filterMap (fun t => match t.wait with
    | .time v => if t.st = .parked then some (v.toNat, execWaittExpiry t.tid) else none
    | _ => none) ++
  s.gangs.filterMap (fun g => if g.placed && !g.released then some (g.launch.start.toNat, execGangRelease g.ident) else none) ++
  ((s.caravans.filter (fun p => p.2.st != .free && p.2.st != .done)).map (fun p =>
    (if p.2.st = .preparing then [(p.2.d.toNat - 200 * Config.usUnits, execCvDeadline (s.cidOf p.1))] else []) ++
    [(p.2.d.toNat, execCvDeadline (s.cidOf p.1))])).flatten ++
  ((s.cvDests.filter (fun d => !d.gone)).map (fun d => match d.commit with
    | some v => [(v.toNat - 2 * Config.usUnits, execCvPrelock d.cid), (v.toNat, execCvPublish d.cid)]
    | none => [(d.d.toNat, execCvDeadline d.cid), (d.d.toNat + s.service.indoubtS * 1000 * Config.msUnits, execCvIndoubtLimit d.cid)])).flatten

/-- Release every awaited value that the timebase has passed, in order of value (R206). -/
def State.passTimes (s : State) : State :=
  (sortTimed (s.timedEvents.filter (fun e => decide (e.1 ≤ s.time.now.toNat)))).foldl
    (fun k e => match e.2 k with | .next t => t | _ => k) s


/-- An offset estimate takes effect, and a step forward releases what it passes; a release writes nothing of the clock. OFFS keeps it as a signed number of 32 bits; what it reads beyond them is a free value
(assumption 5). -/
def State.discipline (s : State) (o : Int) : State :=
  let fits := decide (-2147483648 ≤ o) && decide (o < 2147483648)
  let t1 := (s.time.correct o).judge o
  let t2 := { t1 with offs := if fits then BitVec.ofInt 32 o else (Config.freeWord s.free).setWidth 32 }
  let s1 := State.passTimes { s with free := if fits then s.free else s.free + 1, time := t2 }
  { s1 with time := t2 }

/-- The best master: of lowest rank, below this module's own, among those whose last Announce is no older than three intervals; on a tie that of the
lower port (assumption 69). -/
def State.master (s : State) : Option (Nat × Nat) :=
  (s.time.masters.filter (fun m => decide (m.2.1 < s.service.ptpRank) && decide (s.time.up ≤ m.2.2 + 3 * syncUnits))).foldl
    (fun best m => match best with
      | none => some (m.1, m.2.1)
      | some b => if m.2.1 < b.2 ∨ (m.2.1 = b.2 ∧ m.1 < b.1) then some (m.1, m.2.1) else some b) none

/-- TBEPOCH in 1/16 ns of the PTP timescale (R206). -/
def State.epochUnits (s : State) : Nat := s.service.tbepoch * secondUnits

/-- A message is valid for the discipline: of the configured domain, from the port of the best master, with a time that the timebase
spans (R206, R207). -/
def State.ptpValid (s : State) (msg : PtpTime) : Bool :=
  msg.valid && (match s.master with | some b => b.1 == msg.port | none => false) && msg.domain == s.service.ptpDomain && decide (s.epochUnits ≤ msg.ptp) && decide (msg.ptp < s.epochUnits + 2 ^ 64)

/-- SYNC (R207): a valid Sync message; its precise time comes with Follow_Up. -/
def execSync (msg : PtpTime) (st : State) : Ans :=
  .next (if st.ptpValid msg then { st with time := { st.time.heard 1 with syncSeen := true, syncRx := st.time.now } } else st)

/-- FOLLOW_UP (R207): the Sync's timestamp and the path delay of the master's port, less the timebase at the Sync's receipt, give
the offset estimate. -/
def execFollowUp (msg : PtpTime) (st : State) : Ans :=
  .next (if !st.ptpValid msg || !st.time.syncSeen then st
    else
      let delay : Int := match st.master with | some b => Map.get 0 st.time.pathDelay b.1 | none => 0
      State.discipline { st with time := { st.time.heard 1 with syncSeen := false } } ((msg.ptp : Int) - st.epochUnits + delay - st.time.syncRx.toNat))

/-- Send PTP messages on a port (R207). -/
def State.sendPtp (s : State) (port : Nat) (ms : List PtpMsg) : State :=
  { s with time := { s.time with sent := s.time.sent ++ ms.map (fun m => (port, m)) } }

/-- PDELAY_REQ (R207): Pdelay_Resp and its follow-up are sent. -/
def execPdelayReq (port : Nat) (st : State) : Ans :=
  .next (if port < 24 ∧ st.portUp port = true then st.sendPtp port [.pdelayResp, .pdelayRespFollowUp] else st)

/-- PDELAY_RESP (R207): `t` is the turn-around of the request at this port, in 1/16 ns. -/
def execPdelayResp (port : Nat) (t : Int) (st : State) : Ans :=
  .next (if port < 24 then { st with time := { st.time with turn := Map.set 0 st.time.turn port t } } else st)

/-- PDELAY_RESP_FOLLOW_UP (R207): `t` is the time the peer held the request; half of the rest is the path delay. -/
def execPdelayRespFollowUp (port : Nat) (t : Int) (st : State) : Ans :=
  .next (if port < 24 then
      { st with time := { st.time with
        pathDelay := Map.set 0 st.time.pathDelay port ((Map.get 0 st.time.turn port - t) / 2), turn := Map.set 0 st.time.turn port 0 } }
    else st)

/-- ANNOUNCE (R207): what a master on a port says in the configured domain replaces what that port's said before; the best master follows from what
stands (`State.master`). -/
def execAnnounce (port : Nat) (msg : PtpAnnounce) (st : State) : Ans :=
  .next (if port < 24 ∧ msg.domain = st.service.ptpDomain then
      { st with time := { st.time with masters := st.time.masters.filter (fun m => m.1 != port) ++ [(port, msg.prio, st.time.up)] } }
    else st)

/-- PPS_EDGE (R206, R207): the edge marks a whole second, so the timebase is off by its distance to the nearest one. -/
def execPpsEdge (st : State) : Ans :=
  .next (if !st.service.pps then st
    else
      let r := st.time.now.toNat % secondUnits
      let o : Int := if 2 * r ≤ secondUnits then -(r : Int) else (secondUnits : Int) - r
      State.discipline { st with time := st.time.heard 2 } o)

/-- SYNC_LOSS (R207): LOCKED, and four intervals of the source without a valid message. -/
def execSyncLoss (st : State) : Ans :=
  .next (
    let interval := if st.time.src = 2 then secondUnits else syncUnits
    if st.time.st = .locked ∧ st.time.syncAt + 4 * interval ≤ st.time.up then
      { st with time := { st.time with st := .holdover, holdAt := st.time.up, good := 0 } }
    else st)

/-- HOLDOVER_TIMEOUT (R207): ten seconds in HOLDOVER. -/
def execHoldoverTimeout (st : State) : Ans :=
  .next (if st.time.st = .holdover ∧ st.time.holdAt + 10 * secondUnits ≤ st.time.up then
      { st with time := { st.time with st := .freerun, src := 0, good := 0 } }
    else st)

/-- SYNC_INTERVAL (R207): a port that is up and is not the port of the best master sends Sync and Follow_Up. With them every port that
is up sends Pdelay_Req, and a master port Announce (assumption 69: the spec gives these two no interval of their own). -/
def execSyncInterval (port : Nat) (st : State) : Ans :=
  .next (
    let slave := match st.master with | some b => b.1 == port | none => false
    if port < 24 ∧ st.portUp port = true then st.sendPtp port (.pdelayReq :: if slave then [] else [.sync, .followUp, .announce]) else st)

end Sys2Proof.Machine
end

