-- ==== Sys2Proof/Machine/Auto.lean ====
section
/-! DEFINITION. Whose turn it is (assumption 4): the agenda first; without one, an event that is due, else a thread, else time. -/
namespace Sys2Proof.Machine

/-! ## Events that may be due -/

/-- The event that carries on a released effect. -/
def Released.event (r : Released) (n : Nat) : Option (State → Ans) :=
  if r.stage == .performed then some (execFarStoreAck n)
  else if r.item.ordered then some (if r.stage == .refused then execContributionRetry n else execOrderedContribution n)
  else match r.item with
    | .ringStore _ _ => some (execRingAreaStore n)
    | .farStore _ _ _ _ => some (execFarStoreArrival n)
    | .hostStore port _ _ => some (execHostStoreAck port)
    | .comet l _ _ _ _ _ => some (if l.home.isSome then execFarStoreArrival n else execCometPerform n)
    | .tsemSig l _ _ _ => some (if l.home.isSome then execFarStoreArrival n else execTsemsigPerform n)
    | .semSig _ _ _ => some (execSemsigPerform n)
    | .radv _ _ => some (execRadvPerform n)
    | .rpop _ _ _ _ => some (execRpopFree n)
    | .rcfg _ _ _ _ => some (execRcfgPerform n)
    | .matrix _ _ => some (execEngineCommandAccept n)
    | .copy _ _ => some (execEngineCommandAccept n)
    | .stage _ _ _ _ _ _ => some (execCvStageArrival n)
    | .gstage _ => some (execCvStageArrival n)
    | .trigger _ _ => some (execTriggerRecord n)
    | .amo _ _ _ _ _ => none
    | .adds _ _ _ _ _ _ _ => none

/-- The events that may carry a context on. -/
def Thread.events (t : Thread) : List (State → Ans) :=
  match t.st with
  | .requesting => [execCommitGrant t.tid]
  | .committing => [execCommitComplete t.tid]
  | .spillWait => [execSpillFillComplete t.tid]
  | .faultWait => [execFaultWake t.tid]
  | .exiting => [execThreadExit t.tid]
  | .dataWait => (match t.pend with
    | .rmw l _ _ _ _ _ _ => if l.home.isSome then [execFarAmoService t.tid] else []
    | .key _ _ _ _ => [execFarAmoService t.tid]
    | .outer l _ _ => if l.home.isSome then [execDataReply t.tid, execFarLoadService t.tid] else [execDataReply t.tid]
    | .pageWord _ _ _ _ _ => [execFarLoadService t.tid]
    | _ => [execDataReply t.tid])
  | .parked => (match t.wait with
    | .time _ => [execWaittExpiry t.tid]
    | .word _ _ _ => [execWaitRecheck t.tid]
    | .timeline _ _ => [execWaitRecheck t.tid]
    | _ => [])
  | .runnable => if t.slot.isNone then (countFrom 0 16).map (execContextSwap t.core) else []
  | _ => []

/-- The events of a cell. -/
def Cell.events (c : Cell) (n : Nat) : List (State → Ans) :=
  (match c.matq with
   | m :: _ => (match m.op with | .mma _ _ _ _ _ _ _ _ _ _ _ => execMmaExecute n | .mzero _ => execMzeroExecute n | .mdrain _ _ _ _ _ _ _ _ _ => execMdrainExecute n) ::
       (if m.faulted.isSome then [execEngineFaultResolved n true] else [])
   | [] => []) ++
  (match c.copyq with | m :: _ => execCpyExecute n :: (if m.faulted.isSome then [execEngineFaultResolved n false] else []) | [] => []) ++
  (if c.owner.isSome then [execCellSave n] else [])

/-- The events that a packet at the head of a ring may be. -/
def packetEvents (q : CmdSource) : List (State → Ans) :=
  [execNop q, execLaunch q, execGuardedLaunch q, execTsemSignal q, execTsemWait q, execCkptOnce q, execCkptEverySteps q, execCkptEveryMs q, execCkptCancelPeriodic q,
   execCkptRestore q, execCkptVerify q, execDrainQuery q, execDrain q, execResume q, execRetire q]

/-- The events of a host port: its command rings' head packets. -/
def HostPort.events (h : HostPort) (p : Nat) : List (State → Ans) :=
  ((h.cmd.filter (fun c => !c.2.snap.isEmpty)).map (fun c => packetEvents (.ring p c.1))).flatten

/-- The events of the scheduler and of checkpoints. -/
def State.schedEvents (s : State) : List (State → Ans) :=
  (if s.waiting.isEmpty then [] else execGangPlacement :: (countFrom 0 s.waiting.length).map execPriorityAging) ++
  (s.gangs.map (fun g => [execGangRelease g.ident, execGangCompletion g.ident, execGangRestore g.ident, execPreemptRequest g.ident, execPreemptCancel g.ident])).flatten ++
  (dedup (s.ckpts.map (·.asid))).flatMap (fun a => [execCkptTrigger a, execCkptGather a, execCkptGatherTimeout a]) ++
  (if s.service.killMs = 0 then [] else [execDrainKillTimeout])

/-- The events of caravans. -/
def State.caravanEvents (s : State) : List (State → Ans) :=
  ((s.cvDests.filter (fun d => !d.gone)).map (fun d => [execCvPrelock d.cid, execCvPublish d.cid, execCvDeadline d.cid, execCvIndoubtLimit d.cid])).flatten ++
  ((s.caravans.filter (fun p => p.2.st != .free && p.2.st != .done)).map (fun p => execCvDeadline (s.cidOf p.1)))

/-- Every event that may be due, in the order in which they are tried. -/
def State.candidates (s : State) : List (State → Ans) :=
  (if s.service.monitor.isSome then [fun k => .next k.rootMonitor] else []) ++
  -- a full log's merge comes before the commits that wait for it (05: R91)
  (s.cores.filter (fun p => decide (256 ≤ p.2.dlog.length))).map (fun p => execDirtyLogMerge p.1) ++
  (s.allThreads.map Thread.events).flatten ++
  s.released.zipIdx.filterMap (fun p => p.1.event p.2) ++
  (countFrom 0 s.finished.length).map execCompletionTarget ++
  (s.cells.map (fun p => p.2.events p.1)).flatten ++
  (countFrom 0 s.service.faults.length).map execFaultService ++
  s.regions.map (fun p => execMoonWindowEnd p.1) ++ s.caravanEvents ++ s.schedEvents ++ (s.hosts.map (fun p => p.2.events p.1)).flatten ++
  (s.cores.filter (fun p => decide (s.time.up ≥ p.2.dbg.orbitAt + p.2.dbg.orbitUnits))).map (fun p => execOrbitEnd p.1) ++
  s.fabric.slotWrites.map (fun p => execSlotTableUpdate p.1)

/-- The state after the first of some events that changes the state. -/
def State.firstDue (s : State) : List (State → Ans) → Option State
  | [] => none
  | e :: es => match e s with
    | .next t => if t = s then s.firstDue es else some t
    | _ => s.firstDue es

/-! ## Turns -/

/-- Time passes, and what awaited a value that the timebase reaches goes on, in order of value (11: R206, R209). -/
def State.advance (s : State) (n : Nat) : State := (s.elapse n).passTimes

/-- A context may issue: it is runnable in a slot, and no save or restore routine of its cell runs in another (09: R177). -/
def State.mayIssue (s : State) (t : Thread) : Bool := t.st == .runnable && t.slot.isSome && !s.routineHolds t

/-- The issuing context issues its next instruction, when it may. -/
def State.run (ex : Instr → State → Ans) (s : State) : Ans := if s.mayIssue s.th then s.issue ex else .next s

/-- Another agent writes its own memory (assumption 8): a host, which takes each line first (12: R222), or with none another module, by keys of `farMem`. -/
def State.outsideWrite (s : State) (port : Option Nat) (cells : List Host.Cell) : State :=
  match port with
  | some p => s.hostWrites p cells
  | none => { s with farMem := Memory.writeCells s.farMem cells }

/-- The context that goes on when the issuing one cannot: one that has not yielded, if there is one (02: R27, R391). -/
def State.nextRunner (s : State) : Option Thread :=
  match s.allThreads.find? (fun t => s.mayIssue t && !t.yielded) with
  | some t => some t
  | none => s.allThreads.find? s.mayIssue

/-- A turn without an agenda: an event that is due, else a context that may issue, else one unit of time. -/
def State.freeTurn (ex : Instr → State → Ans) (s : State) : Ans :=
  match s.firstDue s.candidates with
  | some t => .next t
  | none =>
    if s.mayIssue s.th && !s.th.yielded then s.issue ex
    else match s.nextRunner with
      | some t => ((s.focus t.tid).getD s).run ex
      | none => .next (s.advance 1)

/-- One turn. An encoded instruction comes out of memory alone, so the agenda brings none. -/
def State.turn (ex : Instr → State → Ans) (s : State) : Ans :=
  match s.agenda with
  | [] => s.freeTurn ex
  | a :: rest =>
    let k : State := { s with agenda := rest }
    match a with
    | .event i => if (encode i).isSome then .next k else ex i k
    | .select tid => ((k.focus tid).getD k).run ex
    | .elapse n => .next (k.advance n)
    | .arrive r => .next { k with released := k.released ++ [r] }
    | .outside port cells => .next (k.outsideWrite port cells)
    | .subscriber region m on => .next (k.subscribe region m on)
    | .evict line die => .next (k.evict line die)
    | .bar0Read port off => .next (if port < 2 then k.bar0Fetch port off else k)
    | .mctpRead off => .next { k with service := { k.service with readBack := some ((k.health.word (off / 8 * 8)).getD (k.windowView (off / 8 * 8))) } }
    | .kill g => .next (match k.waiting.find? (fun w => w.launch.lid.toNat == g) with
        | some w => k.endWaiting w.launch 2 1
        | none => k.endGang g 2 1 0 8#8)
    | .message tid => .next (k.wakeIf (fun t => t.tid == tid && t.wait == .message) true)
    | .registerRead init r => .next { k with service := { k.service with readBack := k.registerRead init r } }

end Sys2Proof.Machine
end

