-- ==== Sys2Proof/Machine/Dispatch.lean ====
section
/-! DEFINITION. One arm per instruction and event. -/
namespace Sys2Proof.Machine

/-- What each instruction and event does: one direct call of its meaning. -/
def exec (i : Instr) (s : State) : Host.Outcome State Fault Refusal :=
  match i with
  | .add d a b => Sys2Proof.Machine.execAdd d a b s
  | .sub d a b => Sys2Proof.Machine.execSub d a b s
  | .and d a b => Sys2Proof.Machine.execAnd d a b s
  | .or d a b => Sys2Proof.Machine.execOr d a b s
  | .xor d a b => Sys2Proof.Machine.execXor d a b s
  | .sll d a b => Sys2Proof.Machine.execSll d a b s
  | .srl d a b => Sys2Proof.Machine.execSrl d a b s
  | .sra d a b => Sys2Proof.Machine.execSra d a b s
  | .ror d a b => Sys2Proof.Machine.execRor d a b s
  | .slt d a b => Sys2Proof.Machine.execSlt d a b s
  | .sltu d a b => Sys2Proof.Machine.execSltu d a b s
  | .min d a b => Sys2Proof.Machine.execMin d a b s
  | .max d a b => Sys2Proof.Machine.execMax d a b s
  | .minu d a b => Sys2Proof.Machine.execMinu d a b s
  | .maxu d a b => Sys2Proof.Machine.execMaxu d a b s
  | .mul d a b => Sys2Proof.Machine.execMul d a b s
  | .mulh d a b => Sys2Proof.Machine.execMulh d a b s
  | .mulhu d a b => Sys2Proof.Machine.execMulhu d a b s
  | .div d a b => Sys2Proof.Machine.execDiv d a b s
  | .divu d a b => Sys2Proof.Machine.execDivu d a b s
  | .rem d a b => Sys2Proof.Machine.execRem d a b s
  | .remu d a b => Sys2Proof.Machine.execRemu d a b s
  | .clz d a => Sys2Proof.Machine.execClz d a s
  | .ctz d a => Sys2Proof.Machine.execCtz d a s
  | .popc d a => Sys2Proof.Machine.execPopc d a s
  | .addw d a b => Sys2Proof.Machine.execAddw d a b s
  | .subw d a b => Sys2Proof.Machine.execSubw d a b s
  | .sllw d a b => Sys2Proof.Machine.execSllw d a b s
  | .srlw d a b => Sys2Proof.Machine.execSrlw d a b s
  | .sraw d a b => Sys2Proof.Machine.execSraw d a b s
  | .mulw d a b => Sys2Proof.Machine.execMulw d a b s
  | .addi d a imm => Sys2Proof.Machine.execAddi d a imm s
  | .andi d a imm => Sys2Proof.Machine.execAndi d a imm s
  | .ori d a imm => Sys2Proof.Machine.execOri d a imm s
  | .xori d a imm => Sys2Proof.Machine.execXori d a imm s
  | .slti d a imm => Sys2Proof.Machine.execSlti d a imm s
  | .sltiu d a imm => Sys2Proof.Machine.execSltiu d a imm s
  | .slli d a s0 => Sys2Proof.Machine.execSlli d a s0 s
  | .srli d a s0 => Sys2Proof.Machine.execSrli d a s0 s
  | .srai d a s0 => Sys2Proof.Machine.execSrai d a s0 s
  | .addiw d a imm => Sys2Proof.Machine.execAddiw d a imm s
  | .lui d imm => Sys2Proof.Machine.execLui d imm s
  | .auipc d imm => Sys2Proof.Machine.execAuipc d imm s
  | .jal d o => Sys2Proof.Machine.execJal d o s
  | .jalr d a imm => Sys2Proof.Machine.execJalr d a imm s
  | .callw d o => Sys2Proof.Machine.execCallw d o s
  | .beq a b o => Sys2Proof.Machine.execBeq a b o s
  | .bne a b o => Sys2Proof.Machine.execBne a b o s
  | .blt a b o => Sys2Proof.Machine.execBlt a b o s
  | .bge a b o => Sys2Proof.Machine.execBge a b o s
  | .bltu a b o => Sys2Proof.Machine.execBltu a b o s
  | .bgeu a b o => Sys2Proof.Machine.execBgeu a b o s
  | .retw a => Sys2Proof.Machine.execRetw a s
  | .repeatI a n => Sys2Proof.Machine.execRepeatI a n s
  | .lb d a imm => Sys2Proof.Machine.execLb d a imm s
  | .lbu d a imm => Sys2Proof.Machine.execLbu d a imm s
  | .lh d a imm => Sys2Proof.Machine.execLh d a imm s
  | .lhu d a imm => Sys2Proof.Machine.execLhu d a imm s
  | .lw d a imm => Sys2Proof.Machine.execLw d a imm s
  | .lwu d a imm => Sys2Proof.Machine.execLwu d a imm s
  | .ld d a imm => Sys2Proof.Machine.execLd d a imm s
  | .pref a imm => Sys2Proof.Machine.execPref a imm s
  | .sb b a imm => Sys2Proof.Machine.execSb b a imm s
  | .sh b a imm => Sys2Proof.Machine.execSh b a imm s
  | .sw b a imm => Sys2Proof.Machine.execSw b a imm s
  | .sd b a imm => Sys2Proof.Machine.execSd b a imm s
  | .fadd d a b p r => Sys2Proof.Machine.execFadd d a b p r s
  | .fsub d a b p r => Sys2Proof.Machine.execFsub d a b p r s
  | .fmul d a b p r => Sys2Proof.Machine.execFmul d a b p r s
  | .fdiv d a b p r => Sys2Proof.Machine.execFdiv d a b p r s
  | .fsqrt d a p r => Sys2Proof.Machine.execFsqrt d a p r s
  | .fmin d a b p => Sys2Proof.Machine.execFmin d a b p s
  | .fmax d a b p => Sys2Proof.Machine.execFmax d a b p s
  | .feq d a b p => Sys2Proof.Machine.execFeq d a b p s
  | .flt d a b p => Sys2Proof.Machine.execFlt d a b p s
  | .fle d a b p => Sys2Proof.Machine.execFle d a b p s
  | .fclass d a p => Sys2Proof.Machine.execFclass d a p s
  | .fsgnj d a b p => Sys2Proof.Machine.execFsgnj d a b p s
  | .fsgnjn d a b p => Sys2Proof.Machine.execFsgnjn d a b p s
  | .fsgnjx d a b p => Sys2Proof.Machine.execFsgnjx d a b p s
  | .fcvt d a t c r => Sys2Proof.Machine.execFcvt d a t c r s
  | .fma d a b c p r => Sys2Proof.Machine.execFma d a b c p r s
  | .fms d a b c p r => Sys2Proof.Machine.execFms d a b c p r s
  | .fnma d a b c p r => Sys2Proof.Machine.execFnma d a b c p r s
  | .vld v a k o => Sys2Proof.Machine.execVld v a k o s
  | .vst v a k o => Sys2Proof.Machine.execVst v a k o s
  | .vlds v a b k e => Sys2Proof.Machine.execVlds v a b k e s
  | .vsts v a b k e => Sys2Proof.Machine.execVsts v a b k e s
  | .vldx v a w k e => Sys2Proof.Machine.execVldx v a w k e s
  | .vstx v a w k e => Sys2Proof.Machine.execVstx v a w k e s
  | .vldc v a b k f t => Sys2Proof.Machine.execVldc v a b k f t s
  | .vstc v a b k f t => Sys2Proof.Machine.execVstc v a b k f t s
  | .vadd d a b k t => Sys2Proof.Machine.execVadd d a b k t s
  | .vsub d a b k t => Sys2Proof.Machine.execVsub d a b k t s
  | .vmul d a b k t => Sys2Proof.Machine.execVmul d a b k t s
  | .vand d a b k t => Sys2Proof.Machine.execVand d a b k t s
  | .vor d a b k t => Sys2Proof.Machine.execVor d a b k t s
  | .vxor d a b k t => Sys2Proof.Machine.execVxor d a b k t s
  | .vsll d a b k t => Sys2Proof.Machine.execVsll d a b k t s
  | .vsrl d a b k t => Sys2Proof.Machine.execVsrl d a b k t s
  | .vsra d a b k t => Sys2Proof.Machine.execVsra d a b k t s
  | .vmin d a b k t => Sys2Proof.Machine.execVmin d a b k t s
  | .vmax d a b k t => Sys2Proof.Machine.execVmax d a b k t s
  | .vminu d a b k t => Sys2Proof.Machine.execVminu d a b k t s
  | .vmaxu d a b k t => Sys2Proof.Machine.execVmaxu d a b k t s
  | .vfadd d a b k t => Sys2Proof.Machine.execVfadd d a b k t s
  | .vfsub d a b k t => Sys2Proof.Machine.execVfsub d a b k t s
  | .vfmul d a b k t => Sys2Proof.Machine.execVfmul d a b k t s
  | .vfdiv d a b k t => Sys2Proof.Machine.execVfdiv d a b k t s
  | .vfmin d a b k t => Sys2Proof.Machine.execVfmin d a b k t s
  | .vfmax d a b k t => Sys2Proof.Machine.execVfmax d a b k t s
  | .vfexp2 d a k t => Sys2Proof.Machine.execVfexp2 d a k t s
  | .vfrcp d a k t => Sys2Proof.Machine.execVfrcp d a k t s
  | .vfrsq d a k t => Sys2Proof.Machine.execVfrsq d a k t s
  | .vsel d a b k t => Sys2Proof.Machine.execVsel d a b k t s
  | .vbcast d a k t => Sys2Proof.Machine.execVbcast d a k t s
  | .vmvx d a b t => Sys2Proof.Machine.execVmvx d a b t s
  | .vmvv d a k t => Sys2Proof.Machine.execVmvv d a k t s
  | .vperm d a b k t => Sys2Proof.Machine.execVperm d a b k t s
  | .vslide d a b k t => Sys2Proof.Machine.execVslide d a b k t s
  | .vredsum d a k t => Sys2Proof.Machine.execVredsum d a k t s
  | .vredmax d a k t => Sys2Proof.Machine.execVredmax d a k t s
  | .vredmin d a k t => Sys2Proof.Machine.execVredmin d a k t s
  | .vfma d a b c k t => Sys2Proof.Machine.execVfma d a b c k t s
  | .vfms d a b c k t => Sys2Proof.Machine.execVfms d a b c k t s
  | .vcmp d a b k t c => Sys2Proof.Machine.execVcmp d a b k t c s
  | .mand d a b => Sys2Proof.Machine.execMand d a b s
  | .mor d a b => Sys2Proof.Machine.execMor d a b s
  | .mxor d a b => Sys2Proof.Machine.execMxor d a b s
  | .mnot d a => Sys2Proof.Machine.execMnot d a s
  | .mpopc d a => Sys2Proof.Machine.execMpopc d a s
  | .mset d a => Sys2Proof.Machine.execMset d a s
  | .mget d a => Sys2Proof.Machine.execMget d a s
  | .vdot d a b k t => Sys2Proof.Machine.execVdot d a b k t s
  | .vfcmp d a b k t c => Sys2Proof.Machine.execVfcmp d a b k t c s
  | .vcvt d a s0 t r x => Sys2Proof.Machine.execVcvt d a s0 t r x s
  | .mma c a b f s0 p q z => Sys2Proof.Machine.execMma c a b f s0 p q z s
  | .mmas c a b f s0 p q z => Sys2Proof.Machine.execMmas c a b f s0 p q z s
  | .mzero c => Sys2Proof.Machine.execMzero c s
  | .mdrain c m a b f r s0 => Sys2Proof.Machine.execMdrain c m a b f r s0 s
  | .mfmt n a => Sys2Proof.Machine.execMfmt n a s
  | .rcfg d a q => Sys2Proof.Machine.execRcfg d a q s
  | .radv q => Sys2Proof.Machine.execRadv q s
  | .rpop q => Sys2Proof.Machine.execRpop q s
  | .rstat d q => Sys2Proof.Machine.execRstat d q s
  | .smap d a b => Sys2Proof.Machine.execSmap d a b s
  | .sunmap d a b => Sys2Proof.Machine.execSunmap d a b s
  | .sflush d a b => Sys2Proof.Machine.execSflush d a b s
  | .cpy c a b k n w => Sys2Proof.Machine.execCpy c a b k n w s
  | .cpyg c a b k n => Sys2Proof.Machine.execCpyg c a b k n s
  | .cpyst d a => Sys2Proof.Machine.execCpyst d a s
  | .cut => Sys2Proof.Machine.execCut s
  | .fence s0 => Sys2Proof.Machine.execFence s0 s
  | .waitw d a b c => Sys2Proof.Machine.execWaitw d a b c s
  | .waitt a => Sys2Proof.Machine.execWaitt a s
  | .barrive d n => Sys2Proof.Machine.execBarrive d n s
  | .barwait d a n => Sys2Proof.Machine.execBarwait d a n s
  | .semsig a n => Sys2Proof.Machine.execSemsig a n s
  | .semwait a n => Sys2Proof.Machine.execSemwait a n s
  | .tsemsig a b => Sys2Proof.Machine.execTsemsig a b s
  | .tsemwait a b => Sys2Proof.Machine.execTsemwait a b s
  | .trigger => Sys2Proof.Machine.execTrigger s
  | .waitdep d => Sys2Proof.Machine.execWaitdep d s
  | .taskget => Sys2Proof.Machine.execTaskget s
  | .taskend => Sys2Proof.Machine.execTaskend s
  | .safept d imm => Sys2Proof.Machine.execSafept d imm s
  | .ckptstep a => Sys2Proof.Machine.execCkptstep a s
  | .yieldI => Sys2Proof.Machine.execYieldI s
  | .amoadd d a b w => Sys2Proof.Machine.execAmoadd d a b w s
  | .amoand d a b w => Sys2Proof.Machine.execAmoand d a b w s
  | .amoor d a b w => Sys2Proof.Machine.execAmoor d a b w s
  | .amoxor d a b w => Sys2Proof.Machine.execAmoxor d a b w s
  | .amomin d a b w => Sys2Proof.Machine.execAmomin d a b w s
  | .amomax d a b w => Sys2Proof.Machine.execAmomax d a b w s
  | .amominu d a b w => Sys2Proof.Machine.execAmominu d a b w s
  | .amomaxu d a b w => Sys2Proof.Machine.execAmomaxu d a b w s
  | .amoswap d a b w => Sys2Proof.Machine.execAmoswap d a b w s
  | .amofaddO d a b w => Sys2Proof.Machine.execAmofaddO d a b w s
  | .amofaddU d a b w => Sys2Proof.Machine.execAmofaddU d a b w s
  | .amokey d a b => Sys2Proof.Machine.execAmokey d a b s
  | .amocas d a b c w => Sys2Proof.Machine.execAmocas d a b c w s
  | .cmadd a b w => Sys2Proof.Machine.execCmadd a b w s
  | .cmfaddO a b w => Sys2Proof.Machine.execCmfaddO a b w s
  | .cmfaddU a b w => Sys2Proof.Machine.execCmfaddU a b w s
  | .cmmin a b w => Sys2Proof.Machine.execCmmin a b w s
  | .cmmax a b w => Sys2Proof.Machine.execCmmax a b w s
  | .cmor a b w => Sys2Proof.Machine.execCmor a b w s
  | .cvopen d a b => Sys2Proof.Machine.execCvopen d a b s
  | .cvcommit d => Sys2Proof.Machine.execCvcommit d s
  | .cvabort => Sys2Proof.Machine.execCvabort s
  | .cvstat d a b => Sys2Proof.Machine.execCvstat d a b s
  | .gchk d a => Sys2Proof.Machine.execGchk d a s
  | .cvst b a imm => Sys2Proof.Machine.execCvst b a imm s
  | .cvstv v a k o => Sys2Proof.Machine.execCvstv v a k o s
  | .moonhint d a b => Sys2Proof.Machine.execMoonhint d a b s
  | .moonqry d a b => Sys2Proof.Machine.execMoonqry d a b s
  | .rdtime d => Sys2Proof.Machine.execRdtime d s
  | .rdcycle d => Sys2Proof.Machine.execRdcycle d s
  | .rdid d s0 => Sys2Proof.Machine.execRdid d s0 s
  | .ecall => Sys2Proof.Machine.execEcall s
  | .ebreak => Sys2Proof.Machine.execEbreak s
  | .trapret => Sys2Proof.Machine.execTrapret s
  | .segld n a => Sys2Proof.Machine.execSegld n a s
  | .halt => Sys2Proof.Machine.execHalt s
  | .csrrw d a n c => Sys2Proof.Machine.execCsrrw d a n c s
  | .csrrs d a n o c => Sys2Proof.Machine.execCsrrs d a n o c s
  | .csrrc d a n c => Sys2Proof.Machine.execCsrrc d a n c s
  | .csrrwi d u n c => Sys2Proof.Machine.execCsrrwi d u n c s
  | .csrrsi d u n c => Sys2Proof.Machine.execCsrrsi d u n c s
  | .csrrci d u n c => Sys2Proof.Machine.execCsrrci d u n c s
  | .commitGrant tid => Sys2Proof.Machine.execCommitGrant tid s
  | .commitComplete tid => Sys2Proof.Machine.execCommitComplete tid s
  | .dirtyLogMerge core => Sys2Proof.Machine.execDirtyLogMerge core s
  | .dataReply tid => Sys2Proof.Machine.execDataReply tid s
  | .spillFillComplete tid => Sys2Proof.Machine.execSpillFillComplete tid s
  | .contextSwap core slot => Sys2Proof.Machine.execContextSwap core slot s
  | .faultService n => Sys2Proof.Machine.execFaultService n s
  | .faultWake tid => Sys2Proof.Machine.execFaultWake tid s
  | .rangeAllocate r => Sys2Proof.Machine.execRangeAllocate r s
  | .rangeRelease asid base => Sys2Proof.Machine.execRangeRelease asid base s
  | .dirtyHarvest => Sys2Proof.Machine.execDirtyHarvest s
  | .pageMigration m => Sys2Proof.Machine.execPageMigration m s
  | .pinTimeExpiry page => Sys2Proof.Machine.execPinTimeExpiry page s
  | .engineCommandAccept n => Sys2Proof.Machine.execEngineCommandAccept n s
  | .mmaExecute cell => Sys2Proof.Machine.execMmaExecute cell s
  | .mzeroExecute cell => Sys2Proof.Machine.execMzeroExecute cell s
  | .mdrainExecute cell => Sys2Proof.Machine.execMdrainExecute cell s
  | .cpyExecute cell => Sys2Proof.Machine.execCpyExecute cell s
  | .engineFaultResolved cell matrix => Sys2Proof.Machine.execEngineFaultResolved cell matrix s
  | .completionTarget n => Sys2Proof.Machine.execCompletionTarget n s
  | .semsigPerform n => Sys2Proof.Machine.execSemsigPerform n s
  | .radvPerform n => Sys2Proof.Machine.execRadvPerform n s
  | .rcfgPerform n => Sys2Proof.Machine.execRcfgPerform n s
  | .rpopFree n => Sys2Proof.Machine.execRpopFree n s
  | .ringAreaStore n => Sys2Proof.Machine.execRingAreaStore n s
  | .tsemsigPerform n => Sys2Proof.Machine.execTsemsigPerform n s
  | .cometPerform n => Sys2Proof.Machine.execCometPerform n s
  | .triggerRecord n => Sys2Proof.Machine.execTriggerRecord n s
  | .farLoadService n => Sys2Proof.Machine.execFarLoadService n s
  | .farStoreArrival n => Sys2Proof.Machine.execFarStoreArrival n s
  | .farAmoService n => Sys2Proof.Machine.execFarAmoService n s
  | .farStoreAck n => Sys2Proof.Machine.execFarStoreAck n s
  | .hostStoreAck port => Sys2Proof.Machine.execHostStoreAck port s
  | .asyncError tid src code addr => Sys2Proof.Machine.execAsyncError tid src code addr s
  | .orderedContribution n => Sys2Proof.Machine.execOrderedContribution n s
  | .contributionRetry n => Sys2Proof.Machine.execContributionRetry n s
  | .moonWindowEnd region => Sys2Proof.Machine.execMoonWindowEnd region s
  | .subscriptionAnswer region accept => Sys2Proof.Machine.execSubscriptionAnswer region accept s
  | .subscriptionPush line pos data => Sys2Proof.Machine.execSubscriptionPush line pos data s
  | .hostSnoop port line => Sys2Proof.Machine.execHostSnoop port line s
  | .cxlMemWrite port pa data => Sys2Proof.Machine.execCxlMemWrite port pa data s
  | .bar2Write port off data => Sys2Proof.Machine.execBar2Write port off data s
  | .bar2Read port off len => Sys2Proof.Machine.execBar2Read port off len s
  | .bar0UnlistedAccess port off write => Sys2Proof.Machine.execBar0UnlistedAccess port off write s
  | .cqDoorbell port ring v => Sys2Proof.Machine.execCqDoorbell port ring v s
  | .cqEnable port ring => Sys2Proof.Machine.execCqEnable port ring s
  | .cqDisable port ring => Sys2Proof.Machine.execCqDisable port ring s
  | .crHeadWrite port ring v => Sys2Proof.Machine.execCrHeadWrite port ring v s
  | .crEnable port ring => Sys2Proof.Machine.execCrEnable port ring s
  | .registerWrite init r v => Sys2Proof.Machine.execRegisterWrite init r v s
  | .nop q => Sys2Proof.Machine.execNop q s
  | .launch q => Sys2Proof.Machine.execLaunch q s
  | .guardedLaunch q => Sys2Proof.Machine.execGuardedLaunch q s
  | .tsemSignal q => Sys2Proof.Machine.execTsemSignal q s
  | .tsemWait q => Sys2Proof.Machine.execTsemWait q s
  | .ckptOnce q => Sys2Proof.Machine.execCkptOnce q s
  | .ckptEverySteps q => Sys2Proof.Machine.execCkptEverySteps q s
  | .ckptEveryMs q => Sys2Proof.Machine.execCkptEveryMs q s
  | .ckptCancelPeriodic q => Sys2Proof.Machine.execCkptCancelPeriodic q s
  | .ckptRestore q => Sys2Proof.Machine.execCkptRestore q s
  | .ckptVerify q => Sys2Proof.Machine.execCkptVerify q s
  | .drainQuery q => Sys2Proof.Machine.execDrainQuery q s
  | .drain q => Sys2Proof.Machine.execDrain q s
  | .resume q => Sys2Proof.Machine.execResume q s
  | .retire q => Sys2Proof.Machine.execRetire q s
  | .gangPlacement => Sys2Proof.Machine.execGangPlacement s
  | .gangRelease gang => Sys2Proof.Machine.execGangRelease gang s
  | .priorityAging n => Sys2Proof.Machine.execPriorityAging n s
  | .preemptRequest gang => Sys2Proof.Machine.execPreemptRequest gang s
  | .cellSave cell => Sys2Proof.Machine.execCellSave cell s
  | .preemptCancel gang => Sys2Proof.Machine.execPreemptCancel gang s
  | .gangRestore gang => Sys2Proof.Machine.execGangRestore gang s
  | .threadExit tid => Sys2Proof.Machine.execThreadExit tid s
  | .gangCompletion gang => Sys2Proof.Machine.execGangCompletion gang s
  | .drainKillTimeout => Sys2Proof.Machine.execDrainKillTimeout s
  | .waittExpiry tid => Sys2Proof.Machine.execWaittExpiry tid s
  | .waitRecheck tid => Sys2Proof.Machine.execWaitRecheck tid s
  | .cvStageArrival n => Sys2Proof.Machine.execCvStageArrival n s
  | .cvPrepare cid parts count d => Sys2Proof.Machine.execCvPrepare cid parts count d s
  | .cvConfirm cid dest ans => Sys2Proof.Machine.execCvConfirm cid dest ans s
  | .cvCommit cid t => Sys2Proof.Machine.execCvCommit cid t s
  | .cvPrelock cid => Sys2Proof.Machine.execCvPrelock cid s
  | .cvPublish cid => Sys2Proof.Machine.execCvPublish cid s
  | .cvPublishAck cid dest t skew => Sys2Proof.Machine.execCvPublishAck cid dest t skew s
  | .cvAbort cid => Sys2Proof.Machine.execCvAbort cid s
  | .cvUndeliverable cid dest => Sys2Proof.Machine.execCvUndeliverable cid dest s
  | .cvDeadline cid => Sys2Proof.Machine.execCvDeadline cid s
  | .cvQuery cid d asker => Sys2Proof.Machine.execCvQuery cid d asker s
  | .cvQueryAnswer cid part ans => Sys2Proof.Machine.execCvQueryAnswer cid part ans s
  | .cvQueryInterval cid => Sys2Proof.Machine.execCvQueryInterval cid s
  | .cvIndoubtLimit cid => Sys2Proof.Machine.execCvIndoubtLimit cid s
  | .linkDown port => Sys2Proof.Machine.execLinkDown port s
  | .routeReconverged => Sys2Proof.Machine.execRouteReconverged s
  | .routeHoldTimeout n => Sys2Proof.Machine.execRouteHoldTimeout n s
  | .linkUp port => Sys2Proof.Machine.execLinkUp port s
  | .spareSubstitution ident => Sys2Proof.Machine.execSpareSubstitution ident s
  | .slotOpen entry => Sys2Proof.Machine.execSlotOpen entry s
  | .slotTableUpdate entry => Sys2Proof.Machine.execSlotTableUpdate entry s
  | .sync msg => Sys2Proof.Machine.execSync msg s
  | .followUp msg => Sys2Proof.Machine.execFollowUp msg s
  | .pdelayReq port => Sys2Proof.Machine.execPdelayReq port s
  | .pdelayResp port t => Sys2Proof.Machine.execPdelayResp port t s
  | .pdelayRespFollowUp port t => Sys2Proof.Machine.execPdelayRespFollowUp port t s
  | .announce port msg => Sys2Proof.Machine.execAnnounce port msg s
  | .ppsEdge => Sys2Proof.Machine.execPpsEdge s
  | .syncLoss => Sys2Proof.Machine.execSyncLoss s
  | .holdoverTimeout => Sys2Proof.Machine.execHoldoverTimeout s
  | .moduleReset => Sys2Proof.Machine.execModuleReset s
  | .securityBoot img => Sys2Proof.Machine.execSecurityBoot img s
  | .hostImageDelivery port img => Sys2Proof.Machine.execHostImageDelivery port img s
  | .bootImageTimeout => Sys2Proof.Machine.execBootImageTimeout s
  | .watchdogWrite => Sys2Proof.Machine.execWatchdogWrite s
  | .watchdogTimeout => Sys2Proof.Machine.execWatchdogTimeout s
  | .serviceCrash core => Sys2Proof.Machine.execServiceCrash core s
  | .healthRefresh => Sys2Proof.Machine.execHealthRefresh s
  | .throttle island mhz => Sys2Proof.Machine.execThrottle island mhz s
  | .softError e => Sys2Proof.Machine.execSoftError e s
  | .patrolScrub line l2 => Sys2Proof.Machine.execPatrolScrub line l2 s
  | .ckptTrigger asid => Sys2Proof.Machine.execCkptTrigger asid s
  | .ckptGather asid => Sys2Proof.Machine.execCkptGather asid s
  | .ckptGatherTimeout asid => Sys2Proof.Machine.execCkptGatherTimeout asid s
  | .dbgctlHalt core => Sys2Proof.Machine.execDbgctlHalt core s
  | .dbgctlResume core => Sys2Proof.Machine.execDbgctlResume core s
  | .dbgctlStep core => Sys2Proof.Machine.execDbgctlStep core s
  | .daccAccess core => Sys2Proof.Machine.execDaccAccess core s
  | .orbitEnd core => Sys2Proof.Machine.execOrbitEnd core s
  | .clrCounters core => Sys2Proof.Machine.execClrCounters core s
  | .clrStall core => Sys2Proof.Machine.execClrStall core s
  | .clrDelay core => Sys2Proof.Machine.execClrDelay core s
  | .clrRas core => Sys2Proof.Machine.execClrRas core s
  | .clrTrlost core => Sys2Proof.Machine.execClrTrlost core s
  | .cxlMemRead port pa len keep => Sys2Proof.Machine.execCxlMemRead port pa len keep s
  | .waittWindow island => Sys2Proof.Machine.execWaittWindow island s
  | .currentGovernor island cycles => Sys2Proof.Machine.execCurrentGovernor island cycles s
  | .syncInterval port => Sys2Proof.Machine.execSyncInterval port s

end Sys2Proof.Machine
end

