-- ==== Sys2Proof/Machine/Step.lean ====
section
/-! DEFINITION. One step of the module. -/
namespace Sys2Proof.Machine

/-- One step: one event of the agenda, or one instruction of the context whose turn it is (assumption 4). -/
def step (s : State) : Host.Outcome State Fault Refusal := s.turn exec

/-- The state with an instruction word placed where the next step fetches (assumption 3); every instruction is one
32-bit word. -/
def State.withFetchWord (s : State) (_nbits w : Nat) : State := s.withWord w

end Sys2Proof.Machine
end

