-- ==== Sys2Proof/Safety.lean ====
section
/-! DEFINITION. What a safe state and a safe run are, and the terms in which claims speak of one instruction. -/
namespace Sys2Proof.Machine

/-- Memory in its canonical form: this module's, the others', and each host's. -/
def State.MemoryOk (s : State) : Prop :=
  Memory.wf s.mem ∧ Memory.wf s.farMem ∧ ∀ p ∈ s.hosts, Memory.wf p.2.mem

/-- Contexts have distinct identifiers, all of them given out before the next one (09: R162). -/
def State.TidsOk (s : State) : Prop := (s.allThreads.map (·.tid)).Nodup ∧ ∀ t ∈ s.allThreads, t.tid < s.nextTid

/-- Nothing stands before the issue of the next instruction of the issuing context, which is the word `w`; the fetch leaves
`k`. -/
structure State.Fetches (s k : State) (w : W32) : Prop where
  mayIssue : s.mayIssue s.th = true
  clear : s.before = none
  noBreak : s.bpHits = []
  word : s.fetch = (k, .ok w)

/-- A run of steps that neither stops nor is refused. -/
def RunsFrom (s : State) : Nat → State → Prop
  | 0, t => t = s
  | n + 1, t => ∃ u, step s = .next u ∧ RunsFrom u n t

/-! ## One instruction -/

/-- The instruction answers a next state, and what then holds of it. -/
def Completes (i : Instr) (s : State) (post : State → Prop) : Prop := ∃ t, exec i s = .next t ∧ post t

/-- The flags of FCSR gain `fl` and its other bits stand (06: R114). -/
def State.gains (s t : State) (fl : Nat) : Prop := t.th.arch.fcsr = s.th.arch.fcsr ||| BitVec.ofNat 64 (fl % 32)

/-- Of the registers only x[d] changes, to `v`; x0 stays zero (15: R271). FCSR gains `fl`. -/
def State.onlyX (s t : State) (d : Reg) (v : W64) (fl : Nat := 0) : Prop :=
  (∀ r : Reg, t.x r = if r = d ∧ r ≠ 0 then v else s.x r) ∧ (∀ r : Reg, t.v r = s.v r) ∧ (∀ r : MaskReg, t.m r = s.m r) ∧ s.gains t fl

/-- Of the registers only v[d] changes, to `v`. FCSR gains `fl`. -/
def State.onlyV (s t : State) (d : Reg) (v : V512) (fl : Nat := 0) : Prop :=
  (∀ r : Reg, t.v r = if r = d then v else s.v r) ∧ (∀ r : Reg, t.x r = s.x r) ∧ (∀ r : MaskReg, t.m r = s.m r) ∧ s.gains t fl

/-- Of the registers only m[d] changes, to `v`; m0 stays all ones (15: R271). FCSR gains `fl`. -/
def State.onlyM (s t : State) (d : MaskReg) (v : W64) (fl : Nat := 0) : Prop :=
  (∀ r : MaskReg, t.m r = if r = d ∧ r ≠ 0 then v else s.m r) ∧ (∀ r : Reg, t.x r = s.x r) ∧ (∀ r : Reg, t.v r = s.v r) ∧ s.gains t fl

/-- Of the registers only v[d] changes: its active elements of `w` bytes to `f`, the others not (15: R271). FCSR gains `fl`. -/
def State.onlyLanes (s t : State) (d : Reg) (k : MaskReg) (w : Nat) (f : Nat → Nat) (fl : Nat := 0) : Prop :=
  ∃ v, s.onlyV t d v fl ∧ ∀ i, i < 64 / w → lane v w i = if active (s.m k) w i then f i else lane (s.v d) w i

/-- The flags that the active elements of `w` bytes raise. -/
def State.laneFlags (s : State) (k : MaskReg) (w : Nat) (f : Nat → Nat) : Nat :=
  orFlags ((List.range (64 / w)).map (fun i => if active (s.m k) w i then f i else 0))

/-- No register changes, and no flag. -/
def State.sameRegs (s t : State) : Prop :=
  (∀ r : Reg, t.x r = s.x r) ∧ (∀ r : Reg, t.v r = s.v r) ∧ (∀ r : MaskReg, t.m r = s.m r) ∧ s.gains t 0

/-- One more instruction leaves the open chunk below its limit (02: R37). -/
abbrev State.roomy (s : State) : Prop := s.openChunk.th.chunk.icount + 1 < s.chunkLimit

/-- The instruction stays inside the chunk: the chunk is open and counts it, nothing commits, and no trap is taken
(02: R37; 05: R97). -/
structure State.inChunk (s t : State) : Prop where
  chunkOpen : t.th.chunk.isOpen = true
  counted : t.th.chunk.icount = s.openChunk.th.chunk.icount + 1
  uncommitted : t.position = s.position ∧ t.th.chunks = s.th.chunks
  noTrap : t.th.trapcause = s.th.trapcause ∧ t.th.trappc = s.th.trappc ∧ t.th.st = s.th.st

/-- The instruction completes as a plain one: what then holds of the next state, and, while the chunk has room, that it
stays inside the chunk. -/
def Plainly (i : Instr) (s : State) (post : State → Prop) : Prop :=
  ∃ t, exec i s = .next t ∧ post t ∧ (s.roomy → s.inChunk t)

/-- The instruction raises a trap: the machine does what State.raise does with the cause and TRAPVAL. -/
def Traps (i : Instr) (s : State) (c : Cause) (v : W64) : Prop := exec i s = .next (s.raise c v)

/-- The instruction raises ILLEGAL with its own word (05: R96). -/
def TrapsIllegal (i : Instr) (s : State) : Prop := ∃ w, encode i = some w ∧ Traps i s .illegal (w.setWidth 64)

/-- The thread takes traps to its handler: TRAPVEC is set and no handler runs (05: R97, R98). -/
structure State.Handles (s : State) : Prop where
  vector : s.th.trapvec ≠ 0
  outside : s.th.inh = false

/-- Outside the issuing context nothing changes, and in it no status, trap, error, segment or caravan register. -/
structure State.PlainFrame (s t : State) : Prop where
  outside : t = { s with th := t.th }
  memory : ∀ a, t.byteAt a = s.byteAt a
  status : t.th.arch.mstat = s.th.arch.mstat ∧ t.th.arch.srseed = s.th.arch.srseed ∧
    t.th.arch.fmtctx = s.th.arch.fmtctx ∧ t.th.arch.step = s.th.arch.step
  traps : t.th.trapvec = s.th.trapvec ∧ t.th.trappc = s.th.trappc ∧ t.th.trapcause = s.th.trapcause ∧
    t.th.trapval = s.th.trapval ∧ t.th.asyncerr = s.th.asyncerr ∧ t.th.asyncaddr = s.th.asyncaddr
  special : t.th.seg = s.th.seg ∧ t.th.wid = s.th.wid ∧ t.th.cvh = s.th.cvh ∧ t.th.copyRec = s.th.copyRec ∧
    t.th.limlog = s.th.limlog ∧ t.th.chunks = s.th.chunks ∧ t.th.squashes = s.th.squashes
  window : t.th.arch.depth = s.th.arch.depth ∧ t.th.arch.frames = s.th.arch.frames
  buffer : t.th.chunk.wbuf = s.openChunk.th.chunk.wbuf ∧ t.th.chunk.defq = s.openChunk.th.chunk.defq

/-- The instruction joins the chunk with deferred effects: with a place in the queue it completes as a plain one, changes
what `post` says, enters the effects at the queue's tail as one entry, and leaves every committed byte as it is in `s1`, the
state its translation left (02: R37, R40). -/
def Defers (i : Instr) (s s1 : State) (items : List Item) (post : State → Prop) : Prop :=
  (s.th.chunk.isOpen = true → s.th.chunk.defCount < 32) →
  Plainly i s (fun t => post t ∧ (s.roomy → t.th.chunk.defq = s.openChunk.th.chunk.defq ++ items ∧
    t.th.chunk.defCount = s.openChunk.th.chunk.defCount + 1 ∧ ∀ k, t.byteAt k = s1.byteAt k))

/-- The instruction raises a trap with its own word in TRAPVAL (05: R96). -/
def TrapsWord (i : Instr) (s : State) (c : Cause) : Prop := ∃ w, encode i = some w ∧ Traps i s c (w.setWidth 64)

/-- Lines a chunk would read and write besides its data are locked by no commit (10: R183), and leave both signatures unsaturated (02: R39). -/
def State.sigRoom (s : State) (reads writes : List Nat) : Prop :=
  s.locked ((reads ++ writes).map lineOf) = false ∧
  (s.th.chunk.isOpen = true → (Sig.enterAll s.th.chunk.rsig reads).saturated = false ∧ (Sig.enterAll s.th.chunk.wsig writes).saturated = false)

/-- Nothing intervenes when an instruction completes at its boundary: the gang lives and does not replay, no stop is due, and
no REPEAT body is in progress. -/
structure State.Quiet (s : State) : Prop where
  alive : s.gangEnded = false
  live : s.replaying = false
  noStop : s.th.stepping = false ∧ s.th.stopPending = false ∧ (s.core s.th.core).dbg.halt = false
  noBody : s.th.inBody = false

/-- The instruction has completed at its boundary (02: R46): one event of the commit order later the thread is runnable at
the next instruction, with no chunk open and no trap taken. -/
structure State.doneAt (s t : State) : Prop where
  later : s.position < t.position
  running : t.th.st = .runnable ∧ t.th.wait = .none
  next : t.th.arch.pc = s.th.arch.pc + 4
  closed : t.th.chunk = Chunk.reset
  noTrap : t.th.trapcause = s.th.trapcause ∧ t.th.trappc = s.th.trappc

/-- With no chunk open, and outside a replay's wait for its turn (11: R205), the instruction completes at its boundary, and `post` holds of
the next state. -/
def AtBoundary (i : Instr) (s : State) (post : State → Prop) : Prop :=
  s.inTurn = true → ∃ t, exec i s = .next t ∧ post t ∧ (s.Quiet → s.doneAt t)

/-- The instruction parks its thread at it, with a wait; in replay it does so in its turn (11: R205). -/
def Parks (i : Instr) (s : State) (w : Wait → Prop) : Prop :=
  s.inTurn = true → Completes i s (fun t => t.th.st = .parked ∧ w t.th.wait ∧ t.th.arch.pc = s.th.arch.pc ∧ s.sameRegs t)

/-- No slot of any core is traced: a trace writes its buffer in memory (14: R251). -/
def State.untraced (s : State) : Prop := ∀ q, bit (s.core q).dbg.trctl 63 = false

/-- The byte that stands at a key after elements are stored in order, from the byte that stood there: the bits that their writes of inner places
cover are theirs (02: R40). -/
def storedByte (elts : List StoreElt) (k : Nat) (old : Byte) : Byte :=
  elts.foldl (fun b x => match x.place with
    | .inner key _ _ _ => x.elt.cells.foldl (fun b c => if key + c.1 = k then mergeByte b c.2.1 c.2.2 else b) b
    | _ => b) old

/-- The next state `t` holds what a data store left in `s1`: inside the chunk, with room in it, its committed memory, write buffer and deferred
effects, and, where every element resolves to an inner place, exactly the stored bytes seen at their keys and every other byte as before; alone
at its boundary, its committed memory. -/
structure State.StoredAs (s s1 t : State) (align : Nat) (es : List Elt) (atB : Bool) : Prop where
  same : atB = false → s.roomy → t.mem = s1.mem ∧ t.hosts = s1.hosts ∧ t.farMem = s1.farMem ∧ t.released = s1.released ∧
    t.th.chunk.wbuf = s1.th.chunk.wbuf ∧ t.th.chunk.defq = s1.th.chunk.defq
  bytes : atB = false → s.roomy → ∀ s2 elts, s.resolveStores align es = (s2, .ok elts) →
    (∀ x ∈ elts, x.guarded = false ∧ (∃ key leaf via look, x.place = .inner key leaf via look) ∧ ∀ c ∈ x.elt.cells, c.2.1 = BitVec.allOnes 8) →
    ∀ k, t.byteAt k = s2.byteAt k ∧ t.seenByte k = storedByte elts k (s2.openChunk.seenByte k)
  alone : atB = true → s.Quiet → s1.untraced → t.mem = s1.mem

/-! ## Events -/

/-- The context with an identifier is there, and `p` holds of it. -/
def State.has (s : State) (tid : Nat) (p : Thread → Prop) : Prop := ∃ u, s.findTid tid = some u ∧ p u

/-- The event is not due: it changes nothing. -/
def NotDue (i : Instr) (s : State) : Prop := exec i s = .next s

/-- The gang of a context, if it has one, lives. -/
def State.gangLives (s : State) (t : Thread) : Prop := ∀ g, t.gang.bind s.findGang = some g → g.ended = false

/-- While the service column runs, a packet stands at the head of a command ring. -/
def State.offers (s : State) (port ring order : Nat) (p : List W64) : Prop := s.serving = true ∧ s.headPacket port ring = some (order, p)

/-- The front end has taken a ring's head packet, and `post` holds. -/
def Takes (i : Instr) (s : State) (port ring : Nat) (post : State → Prop) : Prop :=
  Completes i s (fun u => (u.cmdRing port ring).snap = (s.cmdRing port ring).snap.drop 1 ∧ post u)

/-- The front end takes the head packet and sends an entry on a completion ring, and that is all. -/
def Answers (i : Instr) (s : State) (port ring cring : Nat) (e : List W64) : Prop :=
  exec i s = .next ((s.popPacket port ring).complete port cring e)

/-- The same of a packet that firmware reads memory for, under the number of its ring (12: R214). -/
def AnswersAsking (i : Instr) (s : State) (port ring cring : Nat) (e : List W64) : Prop :=
  exec i s = .next (s.asFront (frontKey (.ring port ring)) (fun k => (k.popPacket port ring).complete port cring e))

/-! ## Numbers -/

/-- The number a finite value stands for: ± m × 2^e (06: R105). -/
def FVal.rat : FVal → Rat
  | .fin n m e => (if n then -1 else 1) * (m : Rat) * (2 : Rat) ^ e
  | _ => 0

/-- The finite value rounds as the number `q` does: it stands to every number of at most 60 significant bits as `q` stands to it, so to every number
of a format and to every tie between two (06: R109, R116). -/
def FVal.roundsAs (v : FVal) (q : Rat) : Prop :=
  v.isFin = true ∧ ∀ (n : Bool) (m : Nat) (e : Int), m < 2 ^ 60 →
    let p := (FVal.fin n m e).rat
    (p < v.rat ↔ p < q) ∧ (v.rat < p ↔ q < p)

/-- The finite value rounds as the root of the number `q` does: it stands to every number of at most 60 significant bits that is not negative as the
root of `q` stands to it. -/
def FVal.roundsAsRoot (v : FVal) (q : Rat) : Prop :=
  v.isFin = true ∧ ∀ (m : Nat) (e : Int), m < 2 ^ 60 →
    let p := (FVal.fin false m e).rat
    (p < v.rat ↔ p * p < q) ∧ (v.rat < p ↔ q < p * p)

end Sys2Proof.Machine

/-! ## Families of instructions -/
namespace Sys2Proof
open Machine

/-- The scalar integer instructions (16 to 19). -/
def Instr.isInteger (i : Instr) : Bool :=
  match i with
  | .add _ _ _ | .sub _ _ _ | .and _ _ _ | .or _ _ _ | .xor _ _ _ | .sll _ _ _ | .srl _ _ _ | .sra _ _ _ | .ror _ _ _
  | .slt _ _ _ | .sltu _ _ _ | .min _ _ _ | .max _ _ _ | .minu _ _ _ | .maxu _ _ _ | .mul _ _ _ | .mulh _ _ _ | .mulhu _ _ _
  | .div _ _ _ | .divu _ _ _ | .rem _ _ _ | .remu _ _ _ | .clz _ _ | .ctz _ _ | .popc _ _
  | .addw _ _ _ | .subw _ _ _ | .sllw _ _ _ | .srlw _ _ _ | .sraw _ _ _ | .mulw _ _ _
  | .addi _ _ _ | .andi _ _ _ | .ori _ _ _ | .xori _ _ _ | .slti _ _ _ | .sltiu _ _ _
  | .slli _ _ _ | .srli _ _ _ | .srai _ _ _ | .addiw _ _ _ | .lui _ _ | .auipc _ _ => true
  | _ => false

/-- Instructions that act on registers and flags alone: integer, floating, vector and mask instructions. -/
def Instr.registerOnly (i : Instr) : Bool :=
  i.isInteger ||
  match i with
  | .fadd _ _ _ _ _ | .fsub _ _ _ _ _ | .fmul _ _ _ _ _ | .fdiv _ _ _ _ _ | .fsqrt _ _ _ _ | .fmin _ _ _ _ | .fmax _ _ _ _
  | .feq _ _ _ _ | .flt _ _ _ _ | .fle _ _ _ _ | .fclass _ _ _ | .fsgnj _ _ _ _ | .fsgnjn _ _ _ _ | .fsgnjx _ _ _ _
  | .fcvt _ _ _ _ _ | .fma _ _ _ _ _ _ | .fms _ _ _ _ _ _ | .fnma _ _ _ _ _ _
  | .vadd _ _ _ _ _ | .vsub _ _ _ _ _ | .vmul _ _ _ _ _ | .vand _ _ _ _ _ | .vor _ _ _ _ _ | .vxor _ _ _ _ _
  | .vsll _ _ _ _ _ | .vsrl _ _ _ _ _ | .vsra _ _ _ _ _ | .vmin _ _ _ _ _ | .vmax _ _ _ _ _ | .vminu _ _ _ _ _ | .vmaxu _ _ _ _ _
  | .vfadd _ _ _ _ _ | .vfsub _ _ _ _ _ | .vfmul _ _ _ _ _ | .vfdiv _ _ _ _ _ | .vfmin _ _ _ _ _ | .vfmax _ _ _ _ _
  | .vfexp2 _ _ _ _ | .vfrcp _ _ _ _ | .vfrsq _ _ _ _ | .vfma _ _ _ _ _ _ | .vfms _ _ _ _ _ _
  | .vsel _ _ _ _ _ | .vbcast _ _ _ _ | .vmvx _ _ _ _ | .vmvv _ _ _ _ | .vperm _ _ _ _ _ | .vslide _ _ _ _ _
  | .vcmp _ _ _ _ _ _ | .vfcmp _ _ _ _ _ _ | .mand _ _ _ | .mor _ _ _ | .mxor _ _ _ | .mnot _ _ | .mpopc _ _ | .mset _ _ | .mget _ _
  | .vredsum _ _ _ _ | .vredmax _ _ _ _ | .vredmin _ _ _ _ | .vdot _ _ _ _ _ | .vcvt _ _ _ _ _ _ => true
  | _ => false

/-- Cutting and waiting instructions, legal where they stand: each executes at its boundary (02: R37, R46). -/
def Instr.atBoundary (s : Machine.State) (i : Instr) : Bool :=
  match i with
  | .cut => true
  | .fence k => decide (k.toNat ≤ 2)
  | .waitw _ _ _ _ | .waitt _ | .tsemwait _ _ | .waitdep _ | .segld _ _ => true
  | .barwait _ _ n => (s.memberOf n.toNat).isSome
  | .semwait a _ => decide ((s.x a).toNat ≤ 65535)
  | .taskget => s.myGang.isSome && s.th.packet.isNone
  | .taskend => s.th.packet.isSome
  | .trapret => s.th.inh
  | .halt => s.th.gang.isNone
  | .amoadd _ _ _ _ | .amoand _ _ _ _ | .amoor _ _ _ _ | .amoxor _ _ _ _ | .amomin _ _ _ _ | .amomax _ _ _ _
  | .amominu _ _ _ _ | .amomaxu _ _ _ _ | .amoswap _ _ _ _ | .amofaddO _ _ _ _ | .amofaddU _ _ _ _ | .amocas _ _ _ _ _ | .amokey _ _ _ => true
  | .cvopen _ _ _ => !(s.cvLive && (s.caravan s.cvId).st == .opened)
  | .cvcommit _ => s.cvMine
  | .cvabort => s.cvMine && (s.caravan s.cvId).st == .opened
  | .gchk _ _ => s.inItem
  | _ => false

/-- Destination x[rd] of a scalar integer instruction. -/
def Instr.intDest (i : Instr) : Reg :=
  match i with
  | .add d _ _ | .sub d _ _ | .and d _ _ | .or d _ _ | .xor d _ _ | .sll d _ _ | .srl d _ _ | .sra d _ _ | .ror d _ _
  | .slt d _ _ | .sltu d _ _ | .min d _ _ | .max d _ _ | .minu d _ _ | .maxu d _ _ | .mul d _ _ | .mulh d _ _ | .mulhu d _ _
  | .div d _ _ | .divu d _ _ | .rem d _ _ | .remu d _ _ | .clz d _ | .ctz d _ | .popc d _
  | .addw d _ _ | .subw d _ _ | .sllw d _ _ | .srlw d _ _ | .sraw d _ _ | .mulw d _ _
  | .addi d _ _ | .andi d _ _ | .ori d _ _ | .xori d _ _ | .slti d _ _ | .sltiu d _ _
  | .slli d _ _ | .srli d _ _ | .srai d _ _ | .addiw d _ _ | .lui d _ | .auipc d _ => d
  | _ => 0

end Sys2Proof
end

