-- ==== Sys2Proof/Certificates/Slice0/Obligations.lean ====
section
/-! DEFINITION. The statements for the provers: what the spec's rules say each instruction, each event and the machine do. -/
open Sys2Proof Sys2Proof.Machine

/-- ADD, ADDW, ADDI, ADDIW (R283), SUB, SUBW (R364), AND and ANDI (R289), OR and ORI (R339), XOR and XORI (R390). -/
def Obligations.AddSubtractAndLogic : Prop :=
  (∀ (s : State) (d a b : Reg) (i : BitVec 15),
    Plainly (.add d a b) s (fun t => s.onlyX t d (s.x a + s.x b)) ∧
    Plainly (.addw d a b) s (fun t => s.onlyX t d (((s.x a + s.x b).setWidth 32).signExtend 64)) ∧
    Plainly (.addi d a i) s (fun t => s.onlyX t d (s.x a + i.signExtend 64)) ∧
    Plainly (.addiw d a i) s (fun t => s.onlyX t d (((s.x a + i.signExtend 64).setWidth 32).signExtend 64)) ∧
    Plainly (.sub d a b) s (fun t => s.onlyX t d (s.x a - s.x b)) ∧
    Plainly (.subw d a b) s (fun t => s.onlyX t d (((s.x a - s.x b).setWidth 32).signExtend 64))) ∧
  (∀ (d a b : BitVec 5) (fn : BitVec 10), fn ∉ [0#10, 1#10, 5#10, 6#10, 7#10, 15#10] →
    decode (2#7 ++ d ++ a ++ b ++ fn) = .error .unassigned) ∧
  decode 0x02531C00#32 = .ok (.add 5 6 7) ∧ decode 0x04531C00#32 = .ok (.addw 5 6 7) ∧
  decode 0x06537FFF#32 = .ok (.addi 5 6 0x7FFF) ∧ decode 0x14537FFF#32 = .ok (.addiw 5 6 0x7FFF) ∧
  (∀ (s : State) (d a b : Reg) (i : BitVec 15),
    Plainly (.and d a b) s (fun t => s.onlyX t d (s.x a &&& s.x b)) ∧
    Plainly (.andi d a i) s (fun t => s.onlyX t d (s.x a &&& i.signExtend 64)) ∧
    Plainly (.or d a b) s (fun t => s.onlyX t d (s.x a ||| s.x b)) ∧
    Plainly (.ori d a i) s (fun t => s.onlyX t d (s.x a ||| i.signExtend 64)) ∧
    Plainly (.xor d a b) s (fun t => s.onlyX t d (s.x a ^^^ s.x b)) ∧
    Plainly (.xori d a i) s (fun t => s.onlyX t d (s.x a ^^^ i.signExtend 64)) ∧
    Plainly (.xori d a 0x7FFF) s (fun t => s.onlyX t d (~~~(s.x a)))) ∧
  decode 0x02531C02#32 = .ok (.and 5 6 7) ∧ decode 0x085300FF#32 = .ok (.andi 5 6 0xFF)

/-- SLL, SRL, SRA, SLLW, SRLW, SRAW, SLLI, SRLI, SRAI (R362) and ROR (R352). -/
def Obligations.Shifts : Prop :=
  (∀ (s : State) (d a b : Reg) (h : BitVec 6),
    let x := s.x a
    let n := (s.x b).toNat % 64
    let m := (s.x b).toNat % 32
    let w := x.setWidth 32
    Plainly (.sll d a b) s (fun t => s.onlyX t d (BitVec.ofNat 64 (x.toNat * 2 ^ n))) ∧
    Plainly (.srl d a b) s (fun t => s.onlyX t d (BitVec.ofNat 64 (x.toNat / 2 ^ n))) ∧
    Plainly (.sra d a b) s (fun t => s.onlyX t d (BitVec.ofInt 64 (x.toInt / 2 ^ n))) ∧
    Plainly (.sllw d a b) s (fun t => s.onlyX t d ((BitVec.ofNat 32 (w.toNat * 2 ^ m)).signExtend 64)) ∧
    Plainly (.srlw d a b) s (fun t => s.onlyX t d ((BitVec.ofNat 32 (w.toNat / 2 ^ m)).signExtend 64)) ∧
    Plainly (.sraw d a b) s (fun t => s.onlyX t d ((BitVec.ofInt 32 (w.toInt / 2 ^ m)).signExtend 64)) ∧
    Plainly (.slli d a h) s (fun t => s.onlyX t d (BitVec.ofNat 64 (x.toNat * 2 ^ h.toNat))) ∧
    Plainly (.srli d a h) s (fun t => s.onlyX t d (BitVec.ofNat 64 (x.toNat / 2 ^ h.toNat))) ∧
    Plainly (.srai d a h) s (fun t => s.onlyX t d (BitVec.ofInt 64 (x.toInt / 2 ^ h.toNat))) ∧
    Plainly (.ror d a b) s (fun t => ∃ v, s.onlyX t d v ∧ ∀ i, i < 64 → v.getLsbD i = x.getLsbD ((i + n) % 64))) ∧
  (∀ (d a : BitVec 5) (z : BitVec 7) (h : BitVec 6) (sh : BitVec 2), sh = 3 ∨ z ≠ 0 →
    decode (9#7 ++ d ++ a ++ sh ++ z ++ h) = .error .unassigned) ∧
  decode 0x02531C05#32 = .ok (.sll 5 6 7) ∧ decode 0x04531C07#32 = .ok (.sraw 5 6 7) ∧
  decode 0x12528003#32 = .ok (.slli 5 5 3) ∧ decode 0x12532004#32 = .ok (.srli 5 6 4) ∧ decode 0x12534004#32 = .ok (.srai 5 6 4)

/-- SLT, SLTU, SLTI, SLTIU (R363) and MIN, MAX, MINU, MAXU (R331). -/
def Obligations.CompareAndSelect : Prop :=
  (∀ (s : State) (d a b : Reg) (i : BitVec 15),
    let x := s.x a
    let y := s.x b
    let z := i.signExtend 64
    Plainly (.slt d a b) s (fun t => s.onlyX t d (if x.toInt < y.toInt then 1 else 0)) ∧
    Plainly (.sltu d a b) s (fun t => s.onlyX t d (if x.toNat < y.toNat then 1 else 0)) ∧
    Plainly (.slti d a i) s (fun t => s.onlyX t d (if x.toInt < i.toInt then 1 else 0)) ∧
    Plainly (.sltiu d a i) s (fun t => s.onlyX t d (if x.toNat < z.toNat then 1 else 0)) ∧
    Plainly (.min d a b) s (fun t => s.onlyX t d (if x.toInt ≤ y.toInt then x else y)) ∧
    Plainly (.max d a b) s (fun t => s.onlyX t d (if x.toInt ≤ y.toInt then y else x)) ∧
    Plainly (.minu d a b) s (fun t => s.onlyX t d (if x.toNat ≤ y.toNat then x else y)) ∧
    Plainly (.maxu d a b) s (fun t => s.onlyX t d (if x.toNat ≤ y.toNat then y else x))) ∧
  decode 0x02531C0B#32 = .ok (.min 5 6 7) ∧ decode 0x02531C0C#32 = .ok (.max 5 6 7) ∧
  decode 0x02531C0D#32 = .ok (.minu 5 6 7) ∧ decode 0x02531C0E#32 = .ok (.maxu 5 6 7)

/-- MUL, MULH, MULHU, MULW (R337), DIV, DIVU (R310), REM, REMU (R349) with the corners of R119, whose other operations stand in AddAndSubtract and Shifts and are repeated here for the sum, the difference and the left shift. -/
def Obligations.MultiplyAndDivide : Prop :=
  ∀ (s : State) (d a b : Reg),
    let x := s.x a
    let y := s.x b
    Plainly (.mul d a b) s (fun t => s.onlyX t d (BitVec.ofNat 64 (x.toNat * y.toNat))) ∧
    Plainly (.mulh d a b) s (fun t => s.onlyX t d (BitVec.ofInt 64 (x.toInt * y.toInt / 2 ^ 64))) ∧
    Plainly (.mulhu d a b) s (fun t => s.onlyX t d (BitVec.ofNat 64 (x.toNat * y.toNat / 2 ^ 64))) ∧
    Plainly (.mulw d a b) s (fun t => s.onlyX t d ((BitVec.ofNat 32 (x.toNat * y.toNat)).signExtend 64)) ∧
    Plainly (.div d a b) s (fun t => s.onlyX t d (if y = 0 then -1 else BitVec.ofInt 64 (x.toInt.tdiv y.toInt))) ∧
    Plainly (.rem d a b) s (fun t => s.onlyX t d (if y = 0 then x else BitVec.ofInt 64 (x.toInt.tmod y.toInt))) ∧
    Plainly (.divu d a b) s (fun t => s.onlyX t d (if y = 0 then -1 else BitVec.ofNat 64 (x.toNat / y.toNat))) ∧
    Plainly (.remu d a b) s (fun t => s.onlyX t d (if y = 0 then x else BitVec.ofNat 64 (x.toNat % y.toNat))) ∧
    (x.toInt = -2 ^ 63 → y = -1 →
      Plainly (.div d a b) s (fun t => s.onlyX t d x) ∧ Plainly (.rem d a b) s (fun t => s.onlyX t d 0)) ∧
    Plainly (.add d a b) s (fun t => s.onlyX t d (BitVec.ofNat 64 (x.toNat + y.toNat))) ∧
    Plainly (.sub d a b) s (fun t => s.onlyX t d (BitVec.ofInt 64 (x.toInt - y.toInt))) ∧
    Plainly (.addw d a b) s (fun t => s.onlyX t d ((BitVec.ofNat 32 (x.toNat + y.toNat)).signExtend 64)) ∧
    Plainly (.subw d a b) s (fun t => s.onlyX t d ((BitVec.ofInt 32 (x.toInt - y.toInt)).signExtend 64)) ∧
    Plainly (.sll d a b) s (fun t => s.onlyX t d (BitVec.ofNat 64 (x.toNat * 2 ^ (y.toNat % 64)))) ∧
    Plainly (.sllw d a b) s (fun t => s.onlyX t d ((BitVec.ofNat 32 (x.toNat * 2 ^ (y.toNat % 32))).signExtend 64))

/-- CLZ and CTZ (R296), POPC (R340), LUI (R329), AUIPC (R290). -/
def Obligations.CountsAndUpperImmediates : Prop :=
  (∀ (s : State) (d a : Reg) (i : BitVec 20),
    let x := s.x a
    Plainly (.clz d a) s (fun t => ∃ n, s.onlyX t d (BitVec.ofNat 64 n) ∧ n ≤ 64 ∧ (n = 64 ↔ x = 0) ∧
      (∀ k, k < n → x.getLsbD (63 - k) = false) ∧ (n < 64 → x.getLsbD (63 - n) = true)) ∧
    Plainly (.ctz d a) s (fun t => ∃ n, s.onlyX t d (BitVec.ofNat 64 n) ∧ n ≤ 64 ∧ (n = 64 ↔ x = 0) ∧
      (∀ k, k < n → x.getLsbD k = false) ∧ (n < 64 → x.getLsbD n = true)) ∧
    Plainly (.popc d a) s (fun t => s.onlyX t d (BitVec.ofNat 64 ((List.range 64).countP (fun k => x.getLsbD k)))) ∧
    Plainly (.lui d i) s (fun t => s.onlyX t d (BitVec.ofInt 64 (i.toInt * 4096))) ∧
    Plainly (.auipc d i) s (fun t => s.onlyX t d (s.th.arch.pc + BitVec.ofInt 64 (i.toInt * 4096)))) ∧
  (∀ (d a b : BitVec 5), b ≠ 0 →
    decode (1#7 ++ d ++ a ++ b ++ 22#10) = .error .unassigned ∧ decode (1#7 ++ d ++ a ++ b ++ 23#10) = .error .unassigned) ∧
  decode 0x02530016#32 = .ok (.clz 5 6) ∧ decode 0x18500001#32 = .ok (.auipc 5 1)

/-- The frame of the register instructions (02: R37; 06: R119; 19: R372). -/
def Obligations.RegisterFrame : Prop :=
  (∀ (s t : State) (i : Instr), i.registerOnly = true → s.roomy → exec i s = .next t → t.th.chunk.isOpen = true →
    t.th.chunk.icount = s.openChunk.th.chunk.icount + 1 →
    s.PlainFrame t ∧ (s.th.inBody = false → t.th.arch.pc = s.th.arch.pc + 4 ∧ t.th.arch.repcnt = s.th.arch.repcnt)) ∧
  (∀ (s t : State) (i : Instr), i.isInteger = true → exec i s = .next t →
    (∀ r : Reg, r ≠ i.intDest → t.x r = s.x r) ∧ (∀ r : Reg, t.v r = s.v r) ∧ (∀ r : MaskReg, t.m r = s.m r) ∧ s.gains t 0)

/-- The six branches (16: the operation of a branch; 02: no branch in a body). -/
def Obligations.Branches : Prop :=
  ∀ (s : State) (a b : Reg) (o : BitVec 15) (i : Instr) (taken : Bool),
    (i, taken) ∈ [(.beq a b o, decide (s.x a = s.x b)), (.bne a b o, decide (s.x a ≠ s.x b)),
      (.blt a b o, decide ((s.x a).toInt < (s.x b).toInt)), (.bge a b o, decide ((s.x b).toInt ≤ (s.x a).toInt)),
      (.bltu a b o, decide ((s.x a).toNat < (s.x b).toNat)), (.bgeu a b o, decide ((s.x b).toNat ≤ (s.x a).toNat))] →
    let u : W64 := s.th.arch.pc + o.signExtend 64 * 4
    (s.th.inBody = false → taken = false →
      Plainly i s (fun t => s.sameRegs t ∧ (s.roomy → t.th.arch.pc = s.th.arch.pc + 4))) ∧
    (s.th.inBody = false → taken = true → u.toNat < 2 ^ 61 →
      Plainly i s (fun t => s.sameRegs t ∧ (s.roomy → t.th.arch.pc = u))) ∧
    (s.th.inBody = false → taken = true → 2 ^ 61 ≤ u.toNat → Traps i s .seglimit u) ∧
    (s.th.inBody = true → TrapsIllegal i s)

/-- JAL and JALR (17). -/
def Obligations.JumpsAndLinks : Prop :=
  ∀ (s : State) (d a : Reg) (o : BitVec 20) (i : BitVec 15),
    let u : W64 := s.th.arch.pc + o.signExtend 64 * 4
    let v : W64 := s.x a + i.signExtend 64
    let link : W64 := s.th.arch.pc + 4
    (s.th.inBody = true → TrapsIllegal (.jal d o) s ∧ TrapsIllegal (.jalr d a i) s) ∧
    (s.th.inBody = false →
      (u.toNat < 2 ^ 61 → Plainly (.jal d o) s (fun t => s.onlyX t d link ∧ (s.roomy → t.th.arch.pc = u))) ∧
      (2 ^ 61 ≤ u.toNat → Traps (.jal d o) s .seglimit u) ∧
      (v.toNat % 4 = 0 → v.toNat < 2 ^ 61 →
        Plainly (.jalr d a i) s (fun t => s.onlyX t d link ∧ (s.roomy → t.th.arch.pc = v))) ∧
      (v.toNat % 4 ≠ 0 → Traps (.jalr d a i) s .align v) ∧
      (v.toNat % 4 = 0 → 2 ^ 61 ≤ v.toNat → Traps (.jalr d a i) s .seglimit v))

/-- CALLW and RETW with the frame at hand (02: R33, R34; 16; 18). The new frame is undefined by the spec: the model's free values (assumption 15). -/
def Obligations.WindowCallAndReturn : Prop :=
  ∀ (s : State) (d a : Reg) (o : BitVec 20),
    let u : W64 := s.th.arch.pc + o.signExtend 64 * 4
    let v : W64 := s.x a
    let w := s.setX d (s.th.arch.pc + 4)
    (s.th.inBody = true → TrapsIllegal (.callw d o) s ∧ TrapsIllegal (.retw a) s) ∧
    (s.th.inBody = false → 2 ^ 61 ≤ u.toNat → Traps (.callw d o) s .seglimit u) ∧
    (s.th.inBody = false → u.toNat < 2 ^ 61 → s.th.arch.frames.length < 28 →
      Plainly (.callw d o) s (fun t =>
        t.th.arch.depth = s.th.arch.depth + 1 ∧ t.th.arch.frames = s.th.arch.frames ++ [s.th.arch.depth + 2] ∧
        (∀ r : Reg, r.toNat < 16 → t.x r = w.x r) ∧ (∀ r : Reg, 16 ≤ r.toNat → r.toNat < 24 → t.x r = w.x (r + 8)) ∧
        (∀ r : Reg, 24 ≤ r.toNat → t.x r = Config.freeWord (s.free + (r.toNat - 24))) ∧
        (∀ r : Reg, t.v r = s.v r) ∧ (∀ r : MaskReg, t.m r = s.m r) ∧
        (s.roomy → t.th.arch.pc = u))) ∧
    (s.th.inBody = false → s.th.arch.depth = 0 → TrapsIllegal (.retw a) s) ∧
    (s.th.inBody = false → 0 < s.th.arch.depth → v.toNat % 4 ≠ 0 → Traps (.retw a) s .align v) ∧
    (s.th.inBody = false → 0 < s.th.arch.depth → v.toNat % 4 = 0 → 2 ^ 61 ≤ v.toNat → Traps (.retw a) s .seglimit v) ∧
    (s.th.inBody = false → 0 < s.th.arch.depth → v.toNat % 4 = 0 → v.toNat < 2 ^ 61 → s.th.arch.depth - 1 ∈ s.th.arch.frames →
      Plainly (.retw a) s (fun t =>
        t.th.arch.depth + 1 = s.th.arch.depth ∧ t.th.arch.frames = s.th.arch.frames.filter (· != s.th.arch.depth + 1) ∧
        (∀ r : Reg, r.toNat < 16 → t.x r = s.x r) ∧ (∀ r : Reg, 24 ≤ r.toNat → t.x r = s.x (r - 8)) ∧
        (∀ r : Reg, 16 ≤ r.toNat → r.toNat < 24 → t.x r = (s.th.arch.frame (s.th.arch.depth - 1)).getD (r.toNat - 16) 0) ∧
        (∀ r : Reg, t.v r = s.v r) ∧ (∀ r : MaskReg, t.m r = s.m r) ∧
        (s.roomy → t.th.arch.pc = v)))

/-- Window pressure (02: R33, R34). -/
def Obligations.WindowSpillAndFill : Prop :=
  ∀ (s : State) (d a : Reg) (o : BitVec 20), s.th.inBody = false →
    ((s.th.arch.pc + o.signExtend 64 * 4).toNat < 2 ^ 61 → 28 ≤ s.th.arch.frames.length →
      (s.victim = none → exec (.callw d o) s = .next (s.cut .reissue)) ∧
      (∀ k, s.victim = some k →
        k ∈ s.th.arch.frames ∧ k ≠ s.th.arch.depth ∧ k ≠ s.th.arch.depth + 1 ∧ (s.th.chunk.isOpen = true → k ∉ s.th.chunk.framesW) ∧
        (∀ j ∈ s.th.arch.frames, j ≠ s.th.arch.depth → j ≠ s.th.arch.depth + 1 → j ∉ s.th.chunk.framesW → k ≤ j) ∧
        (∀ s1 p, s.framePlace k .store = (s1, .ok p) →
          Completes (.callw d o) s (fun t => t.th.st = .spillWait ∧ t.th.pend = .spill k ∧ t.th.arch = s.th.arch)) ∧
        (∀ s1 h, s.framePlace k .store = (s1, .error h) → exec (.callw d o) s = .next (s1.haltWith h)))) ∧
    (0 < s.th.arch.depth → (s.x a).toNat % 4 = 0 → (s.x a).toNat < 2 ^ 61 → s.th.arch.depth - 1 ∉ s.th.arch.frames →
      (∀ s1 p, s.framePlace (s.th.arch.depth - 1) .load = (s1, .ok p) →
        Completes (.retw a) s (fun t => t.th.st = .spillWait ∧ t.th.pend = .fill (s.th.arch.depth - 1) ∧ t.th.arch = s.th.arch)) ∧
      (∀ s1 h, s.framePlace (s.th.arch.depth - 1) .load = (s1, .error h) → exec (.retw a) s = .next (s1.haltWith h)))

/-- REPEAT and its sequencing (02: R36; 18: R350). The field n of the word is the body length less one. -/
def Obligations.Repeat : Prop :=
  (∀ (s : State) (a : Reg) (n : BitVec 6),
    let count := (s.x a).toNat
    ((s.th.act || s.th.inh) = true → TrapsIllegal (.repeatI a n) s) ∧
    ((s.th.act || s.th.inh) = false → 2 ^ 32 ≤ count → Traps (.repeatI a n) s .repeatCount (s.x a)) ∧
    ((s.th.act || s.th.inh) = false → count = 0 →
      Plainly (.repeatI a n) s (fun t => s.sameRegs t ∧ (s.roomy → t.th.arch.pc = s.th.arch.pc + BitVec.ofNat 64 (4 + 4 * (n.toNat + 1)) ∧
        t.th.arch.repcnt = s.th.arch.repcnt))) ∧
    ((s.th.act || s.th.inh) = false → 0 < count → count < 2 ^ 32 →
      Plainly (.repeatI a n) s (fun t => s.sameRegs t ∧ t.th.arch.repcnt = 1#1 ++ 0#7 ++ n ++ 0#6 ++ 0#12 ++ BitVec.ofNat 32 count ∧
        (s.roomy → t.th.arch.pc = s.th.arch.pc + 4)))) ∧
  (∀ (s t : State) (i : Instr), i.isInteger = true → s.roomy → s.th.act = true → s.th.inh = false → exec i s = .next t →
    let len := fld s.th.arch.repcnt 55 50
    let pos := fld s.th.arch.repcnt 49 44
    let iter := fld s.th.arch.repcnt 31 0
    (pos ≠ len → fld t.th.arch.repcnt 49 44 = (pos + 1) % 64 ∧ fld t.th.arch.repcnt 31 0 = iter ∧ t.th.act = true ∧
      t.th.arch.pc = s.th.arch.pc + 4) ∧
    (pos = len → 1 < iter → fld t.th.arch.repcnt 49 44 = 0 ∧ fld t.th.arch.repcnt 31 0 = iter - 1 ∧ t.th.act = true ∧
      t.th.arch.pc = s.th.arch.pc - BitVec.ofNat 64 (4 * len)) ∧
    (pos = len → iter = 1 → fld t.th.arch.repcnt 31 0 = 0 ∧ t.th.act = false ∧ t.th.arch.pc = s.th.arch.pc + 4) ∧
    fld t.th.arch.repcnt 55 50 = len)

/-- Scalar floating point (17: R312, R313, R316, R318 to R320). What the operations on encodings compute stands in FloatingSpecialCases, ExactArithmetic and RoundingModes. -/
def Obligations.ScalarFloatingResults : Prop :=
  ∀ (s : State) (d a b c : Reg) (p : BitVec 1) (r : BitVec 3),
    let f := if p = 0 then fF32 else fF64
    let w := if p = 0 then 32 else 64
    let z := bit s.th.arch.fcsr 12
    let x := (s.x a).toNat % 2 ^ w
    let y := (s.x b).toNat % 2 ^ w
    let u := (s.x c).toNat % 2 ^ w
    let done := fun (i : Instr) (q : Nat × Nat) => Plainly i s (fun t => s.onlyX t d (BitVec.ofNat 64 q.1) q.2)
    done (.fmin d a b p) (f.pick z false x y) ∧ done (.fmax d a b p) (f.pick z true x y) ∧
    done (.feq d a b p) (if (f.cmpEq z x y).1 then 1 else 0, (f.cmpEq z x y).2) ∧
    done (.flt d a b p) (if (f.cmpLt z x y).1 then 1 else 0, (f.cmpLt z x y).2) ∧
    done (.fle d a b p) (if (f.cmpLe z x y).1 then 1 else 0, (f.cmpLe z x y).2) ∧
    (∀ m, s.th.arch.modeOf false r.toNat = some m →
      done (.fadd d a b p r) (f.addOp m z x y) ∧ done (.fsub d a b p r) (f.subOp m z x y) ∧
      done (.fmul d a b p r) (f.mulOp m z x y) ∧ done (.fdiv d a b p r) (f.divOp m z x y) ∧
      done (.fsqrt d a p r) (f.sqrtOp m z x) ∧
      done (.fma d a b c p r) (f.fmaOp m z false false x y u) ∧ done (.fms d a b c p r) (f.fmaOp m z false true x y u) ∧
      done (.fnma d a b c p r) (f.fmaOp m z true false x y u) ∧
      (∀ (k : BitVec 5) (l : BitVec 2), fcvtOk k l = true →
        Plainly (.fcvt d a k l r) s (fun t =>
          let q := cvtResult k l m z (s.cvtSource a k l)
          s.onlyX t d (BitVec.ofNat 64 q.1) q.2))) ∧
    (s.th.arch.modeOf false r.toNat = none →
      TrapsIllegal (.fadd d a b p r) s ∧ TrapsIllegal (.fsub d a b p r) s ∧ TrapsIllegal (.fmul d a b p r) s ∧
      TrapsIllegal (.fdiv d a b p r) s ∧ TrapsIllegal (.fsqrt d a p r) s ∧ TrapsIllegal (.fma d a b c p r) s ∧
      TrapsIllegal (.fms d a b c p r) s ∧ TrapsIllegal (.fnma d a b c p r) s) ∧
    (∀ (k : BitVec 5) (l : BitVec 2), fcvtOk k l = false ∨ s.th.arch.modeOf false r.toNat = none → TrapsIllegal (.fcvt d a k l r) s)

/-- The codes of 06: R109. -/
def Obligations.RoundingFields : Prop :=
  ∀ (a : Arch) (srOk : Bool),
    let code := fun (c : Nat) => match c with
      | 0 => some Rm.rne | 1 => some Rm.rtz | 2 => some Rm.rdn | 3 => some Rm.rup | 4 => some Rm.rmm
      | 5 => if srOk then some Rm.sr else none
      | _ => none
    (∀ r, r < 7 → a.modeOf srOk r = code r) ∧ a.modeOf srOk 7 = code (fld a.fcsr 10 8)

/-- The sign-injection group (17: R321). -/
def Obligations.SignInjection : Prop :=
  (∀ (s : State) (d a b : Reg) (p : BitVec 1),
    let n := if p = 0 then 31 else 63
    let done := fun (i : Instr) (sign : Bool) => Plainly i s (fun t => ∃ v : W64, s.onlyX t d v ∧
      (∀ k, k < n → v.getLsbD k = (s.x a).getLsbD k) ∧ v.getLsbD n = sign ∧ ∀ k, n < k → v.getLsbD k = false)
    done (.fsgnj d a b p) ((s.x b).getLsbD n) ∧ done (.fsgnjn d a b p) (!(s.x b).getLsbD n) ∧
    done (.fsgnjx d a b p) ((s.x a).getLsbD n != (s.x b).getLsbD n)) ∧
  decode 0x4853180C#32 = .ok (.fsgnjn 5 6 6 0)

/-- FCLASS (17: R314). -/
def Obligations.Classify : Prop :=
  ∀ (s : State) (d a : Reg) (p : BitVec 1),
    let w : Nat := if p = 0 then 32 else 64
    let mb : Nat := if p = 0 then 23 else 52
    let top : Nat := if p = 0 then 255 else 2047
    let bias : Int := if p = 0 then 127 else 1023
    let b := (s.x a).toNat % 2 ^ w
    let ex := b / 2 ^ mb % (top + 1)
    let fr := b % 2 ^ mb
    let neg : Nat := if 2 ^ (w - 1) ≤ b then 8 else 0
    let kind : Nat := if ex = 0 then (if fr = 0 then 0 else 1) else if ex < top then 2
      else if fr = 0 then 3 else if 2 ^ (mb - 1) ≤ fr then 4 else 5
    let lead : Int := if kind = 2 then ex - bias else if kind = 1 then (Nat.log2 fr : Int) - mb + 1 - bias else 0
    Plainly (.fclass d a p) s (fun t => s.onlyX t d (BitVec.ofInt 64 (lead * 65536 + neg + kind)))

/-- The special cases of 17: R313, R318 to R320 and 06: R116. -/
def Obligations.FloatingSpecialCases : Prop :=
  ∀ f ∈ [fBF16, fF16, fF32, fF64], ∀ (rm : Rm) (z : Bool) (a b c : Nat),
    let x := f.read z a
    let y := f.read z b
    let nv := if x.isSig ∨ y.isSig then 1 else 0
    (x.isNan ∨ y.isNan → ∀ op ∈ [f.addOp, f.subOp, f.mulOp, f.divOp], op rm z a b = (f.nanEnc, nv)) ∧
    (x.isNan → f.sqrtOp rm z a = (f.nanEnc, if x.isSig then 1 else 0)) ∧
    (∀ n, x = .inf n → y = .inf (!n) → f.addOp rm z a b = (f.nanEnc, 1)) ∧
    (∀ n, x = .inf n → y = .inf n → f.subOp rm z a b = (f.nanEnc, 1)) ∧
    (∀ n, x = .inf n → y.isZero → f.mulOp rm z a b = (f.nanEnc, 1) ∧ f.mulOp rm z b a = (f.nanEnc, 1) ∧
      ∀ p q, (f.fmaOp rm z p q a b c).1 = f.nanEnc ∧ (f.fmaOp rm z p q a b c).2 % 2 = 1) ∧
    (x.isZero → y.isZero → f.divOp rm z a b = (f.nanEnc, 1)) ∧
    (∀ n k, x = .inf n → y = .inf k → f.divOp rm z a b = (f.nanEnc, 1)) ∧
    (x.isFin → x.isZero = false → y.isZero → f.divOp rm z a b = (f.pack (x.isNeg != y.isNeg) f.infEnc, 2)) ∧
    (x.isNeg → x.isZero = false → f.sqrtOp rm z a = (f.nanEnc, 1)) ∧
    (x.isZero → f.sqrtOp rm z a = (f.pack x.isNeg 0, 0)) ∧
    (∀ n m e, x = .fin n m e → y = .fin (!n) m e → f.addOp rm z a b = (f.pack (rm == .rdn) 0, 0)) ∧
    (x.isNan ∨ y.isNan → f.cmpEq z a b = (false, nv) ∧ f.cmpLt z a b = (false, 1) ∧ f.cmpLe z a b = (false, 1)) ∧
    (x.isNan → y.isNan → ∀ m, f.pick z m a b = (f.nanEnc, nv)) ∧
    (x.isNan → y.isNan = false → ∀ m, f.pick z m a b = (f.kept z b, nv) ∧ f.pick z m b a = (f.kept z b, nv)) ∧
    (x.isZero → x.isNeg → y.isZero → y.isNeg = false →
      f.pick z false a b = (f.pack true 0, 0) ∧ f.pick z false b a = (f.pack true 0, 0) ∧
      f.pick z true a b = (f.pack false 0, 0) ∧ f.pick z true b a = (f.pack false 0, 0) ∧ f.cmpEq z a b = (true, 0) ∧
      f.cmpLt z a b = (false, 0))

/-- One rounding of the exact result (06: R116; 17: R313, R316, R319), and the value of an encoding (06: R105). -/
def Obligations.ExactArithmetic : Prop :=
  (∀ (down : Bool) (n k : Bool) (m l : Nat) (e g : Int),
    let x := FVal.fin n m e
    let y := FVal.fin k l g
    ((x.add down y).isFin ∧ (x.add down y).rat = x.rat + y.rat) ∧ ((x.mul y).isFin ∧ (x.mul y).rat = x.rat * y.rat) ∧
    (x.lt y = true ↔ x.rat < y.rat) ∧ (x.neg.rat = -x.rat)) ∧
  (∀ f ∈ [fE2M1, fE2M3, fE3M2, fE4M3, fE5M2, fF16, fBF16, fF32, fF64], ∀ (sign : Bool) (ex fr : Nat), ex < 2 ^ f.eb → fr < 2 ^ f.mb →
    let v := f.unpack (f.pack sign (ex * 2 ^ f.mb + fr))
    v.isFin = true →
    v.rat = (if sign then -1 else 1) *
      (if ex = 0 then (2 : Rat) ^ (1 - (f.bias : Int)) * ((fr : Rat) / 2 ^ f.mb)
       else (2 : Rat) ^ ((ex : Int) - (f.bias : Int)) * (1 + (fr : Rat) / 2 ^ f.mb))) ∧
  (∀ f ∈ [fBF16, fF16, fF32, fF64], ∀ (rm : Rm) (z : Bool) (a b c : Nat),
    let x := f.read z a
    let y := f.read z b
    let w := f.read z c
    let once := f.round rm false z 0
    x.isFin → y.isFin → w.isFin →
    f.addOp rm z a b = once (x.add (rm == .rdn) y) ∧ f.subOp rm z a b = once (x.add (rm == .rdn) y.neg) ∧ f.mulOp rm z a b = once (x.mul y) ∧
    (∀ p q : Bool, f.fmaOp rm z p q a b c =
      once ((if p then (x.mul y).neg else x.mul y).add (rm == .rdn) (if q then w.neg else w))) ∧
    (y.isZero = false → ∃ v : FVal, v.roundsAs (x.rat / y.rat) ∧ v.isNeg = (x.isNeg != y.isNeg) ∧ f.divOp rm z a b = once v) ∧
    (x.isNeg = false → ∃ v : FVal, v.roundsAsRoot x.rat ∧ v.isNeg = false ∧ f.sqrtOp rm z a = once v)) ∧
  (∀ (k : BitVec 5) (l : BitVec 2) (rm : Rm) (z : Bool) (x : FVal),
    (l = 0 → cvtResult k l rm z x = fF32.round rm false z 0 x) ∧ (l = 1 → cvtResult k l rm z x = fF64.round rm false z 0 x) ∧
    (2 ≤ l.toNat →
      let n := if k.toNat < 8 then 32 else 64
      let lo : Int := if l = 2 then -2 ^ (n - 1) else 0
      let hi : Int := if l = 2 then 2 ^ (n - 1) - 1 else 2 ^ n - 1
      let enc := fun (u : Int) => (BitVec.ofInt 64 u).toNat
      (x.isNan → cvtResult k l rm z x = (0, 1)) ∧ (∀ q, x = .inf q → cvtResult k l rm z x = (enc (if q then lo else hi), 1)) ∧
      (∀ q m e, x = .fin q m e →
        let r := roundAt rm q m e 0 0
        let u : Int := if q then -(r.1 : Int) else r.1
        cvtResult k l rm z x = if u < lo then (enc lo, 1) else if hi < u then (enc hi, 1) else (enc u, if r.2 then 16 else 0))))

/-- Conversion (06: R111, R113) on values that the destination holds. -/
def Obligations.RepresentableValuesConvertExactly : Prop :=
  ∀ f ∈ [fE2M1, fE2M3, fE3M2, fE4M3, fE5M2, fF16, fBF16, fF32, fF64], ∀ (rm : Rm) (sat : Bool) (rnd b : Nat), b < 2 ^ (1 + f.eb + f.mb) → rnd < 2 ^ 32 →
    ((f.unpack b).isFin = true → f.round rm sat false rnd (f.unpack b) = (b, 0)) ∧
    ((f.unpack b).isNan = true → f.round rm sat false rnd (f.unpack b) = (f.nanEnc, if (f.unpack b).isSig then 1 else 0)) ∧
    (∀ n, f.unpack b = .inf n → f.round rm sat false rnd (f.unpack b) = if sat then (f.pack n f.maxEnc, 4) else (b, 0))

/-- The table of 06: R109 and the rule of R110, on magnitudes, and the one rounding of a value to a format (R111 to R113, R116). -/
def Obligations.RoundingModes : Prop :=
  (∀ (neg : Bool) (m : Nat) (e q : Int) (rnd : Nat), rnd < 2 ^ 32 →
    (q ≤ e → ∀ rm, roundAt rm neg m e q rnd = (m * 2 ^ (e - q).toNat, false)) ∧
    (e < q →
      let u := 2 ^ (q - e).toNat
      let r := fun (rm : Rm) => (roundAt rm neg m e q rnd).1
      (∀ rm, (roundAt rm neg m e q rnd).2 = decide (m % u ≠ 0)) ∧
      (r .rtz * u ≤ m ∧ m < (r .rtz + 1) * u) ∧
      (2 * (r .rne * u) ≤ 2 * m + u ∧ 2 * m ≤ 2 * (r .rne * u) + u ∧
        (2 * (r .rne * u) = 2 * m + u ∨ 2 * m = 2 * (r .rne * u) + u → r .rne % 2 = 0)) ∧
      (2 * (r .rmm * u) ≤ 2 * m + u ∧ 2 * m < 2 * (r .rmm * u) + u) ∧
      (r .rdn = if neg = true ∧ m % u ≠ 0 then r .rtz + 1 else r .rtz) ∧
      (r .rup = if neg = false ∧ m % u ≠ 0 then r .rtz + 1 else r .rtz) ∧
      (r .sr = if 2 ^ 32 ≤ m % u * 2 ^ 32 / u + rnd then r .rtz + 1 else r .rtz))) ∧
  (∀ f ∈ [fE2M1, fE2M3, fE3M2, fE4M3, fE5M2, fF16, fBF16, fF32, fF64], ∀ (rm : Rm) (sat z neg : Bool) (m : Nat) (e : Int) (rnd : Nat),
    m ≠ 0 → rnd < 2 ^ 32 →
    let top := e + (Nat.log2 m : Int)
    let q := max (top - f.mb) (1 - (f.bias : Int) - f.mb)
    let r := roundAt rm neg m e q rnd
    let g : Rat := (r.1 : Rat) * (2 : Rat) ^ q
    let tiny := ((roundAt rm neg m e (top - f.mb) rnd).1 : Rat) * (2 : Rat) ^ (top - (f.mb : Int)) < (2 : Rat) ^ (1 - (f.bias : Int))
    let big := (f.unpack (f.pack false f.maxEnc)).rat
    let up := f.special = 2 ∧ sat = false ∧ (rm ∈ [Rm.rne, .rmm, .sr] ∨ (rm = .rdn ∧ neg = true) ∨ (rm = .rup ∧ neg = false))
    let res := f.round rm sat z rnd (.fin neg m e)
    (big < g → res = (f.pack neg (if up then f.infEnc else f.maxEnc), 20)) ∧
    (g ≤ big → z = true → tiny → res = (f.pack neg 0, 24)) ∧
    (g ≤ big → (z = false ∨ ¬tiny) → (f.unpack res.1).isFin = true ∧ (f.unpack res.1).isNeg = neg ∧
      (f.unpack res.1).rat = (if neg then -g else g) ∧ res.2 = (if r.2 then 16 else 0) + (if tiny ∧ r.2 = true then 8 else 0)))

/-- Integer vector arithmetic (19: R372, R373). -/
def Obligations.VectorIntegerArithmetic : Prop :=
  ∀ (s : State) (d a b : Reg) (k : MaskReg) (e : BitVec 2),
    let w := 2 ^ e.toNat
    let n := 8 * w
    let x := lane (s.v a) w
    let y := lane (s.v b) w
    let sg := fun (v : Nat) => if 2 ^ (n - 1) ≤ v then (v : Int) - 2 ^ n else (v : Int)
    let done := fun (i : Instr) (f : Nat → Nat) => Plainly i s (fun t => s.onlyLanes t d k w f)
    done (.vadd d a b k e) (fun i => (x i + y i) % 2 ^ n) ∧ done (.vsub d a b k e) (fun i => (x i + 2 ^ n - y i) % 2 ^ n) ∧
    done (.vmul d a b k e) (fun i => x i * y i % 2 ^ n) ∧ done (.vand d a b k e) (fun i => x i &&& y i) ∧
    done (.vor d a b k e) (fun i => x i ||| y i) ∧ done (.vxor d a b k e) (fun i => x i ^^^ y i) ∧
    done (.vsll d a b k e) (fun i => x i * 2 ^ (y i % n) % 2 ^ n) ∧ done (.vsrl d a b k e) (fun i => x i / 2 ^ (y i % n)) ∧
    done (.vsra d a b k e) (fun i => (sg (x i) / 2 ^ (y i % n) % 2 ^ n).toNat) ∧
    done (.vmin d a b k e) (fun i => if sg (x i) ≤ sg (y i) then x i else y i) ∧
    done (.vmax d a b k e) (fun i => if sg (x i) ≤ sg (y i) then y i else x i) ∧
    done (.vminu d a b k e) (fun i => if x i ≤ y i then x i else y i) ∧
    done (.vmaxu d a b k e) (fun i => if x i ≤ y i then y i else x i)

/-- Lane movement (19: R374). -/
def Obligations.VectorMoves : Prop :=
  ∀ (s : State) (d a b : Reg) (k : MaskReg) (e : BitVec 2),
    let w := 2 ^ e.toNat
    let n := 64 / w
    Plainly (.vsel d a b k e) s (fun t => ∃ v, s.onlyV t d v ∧
      ∀ i, i < n → lane v w i = if active (s.m k) w i then lane (s.v a) w i else lane (s.v b) w i) ∧
    Plainly (.vbcast d a k e) s (fun t => s.onlyLanes t d k w (fun _ => (s.x a).toNat % 2 ^ (8 * w))) ∧
    Plainly (.vmvv d a k e) s (fun t => s.onlyLanes t d k w (lane (s.v a) w)) ∧
    Plainly (.vperm d a b k e) s (fun t => s.onlyLanes t d k w (fun i => lane (s.v a) w (lane (s.v b) w i % n))) ∧
    Plainly (.vslide d a b k e) s (fun t => s.onlyLanes t d k w (fun i =>
      let j := (i : Int) + (s.x b).toInt
      if 0 ≤ j ∧ j < n then lane (s.v a) w j.toNat else 0)) ∧
    Plainly (.vmvx d a b e) s (fun t =>
      let v := lane (s.v a) w ((s.x b).toNat % n)
      s.onlyX t d (BitVec.ofInt 64 (if 2 ^ (8 * w - 1) ≤ v then (v : Int) - 2 ^ (8 * w) else (v : Int))))

/-- Floating vector arithmetic (19: R378, R380; 06: R117). -/
def Obligations.VectorFloatingArithmetic : Prop :=
  ∀ (s : State) (d a b c : Reg) (k : MaskReg) (e : BitVec 2),
    let f := match e.toNat with | 0 => fBF16 | 1 => fF16 | 2 => fF32 | _ => fF64
    let w := match e.toNat with | 0 => 2 | 1 => 2 | 2 => 4 | _ => 8
    let z := bit s.th.arch.fcsr 12
    let x := lane (s.v a) w
    let y := lane (s.v b) w
    let u := lane (s.v c) w
    let done := fun (i : Instr) (q : Nat → Nat × Nat) =>
      Plainly i s (fun t => s.onlyLanes t d k w (fun j => (q j).1 % 2 ^ (8 * w)) (s.laneFlags k w (fun j => (q j).2)))
    done (.vfmin d a b k e) (fun j => f.pick z false (x j) (y j)) ∧ done (.vfmax d a b k e) (fun j => f.pick z true (x j) (y j)) ∧
    done (.vfexp2 d a k e) (fun j => f.exp2Op z (x j)) ∧ done (.vfrcp d a k e) (fun j => f.rcpOp z (x j)) ∧
    done (.vfrsq d a k e) (fun j => f.rsqOp z (x j)) ∧
    (∀ m, s.th.arch.modeOf false 7 = some m →
      done (.vfadd d a b k e) (fun j => f.addOp m z (x j) (y j)) ∧ done (.vfsub d a b k e) (fun j => f.subOp m z (x j) (y j)) ∧
      done (.vfmul d a b k e) (fun j => f.mulOp m z (x j) (y j)) ∧ done (.vfdiv d a b k e) (fun j => f.divOp m z (x j) (y j)) ∧
      done (.vfma d a b c k e) (fun j => f.fmaOp m z false false (x j) (y j) (u j)) ∧
      done (.vfms d a b c k e) (fun j => f.fmaOp m z false true (x j) (y j) (u j))) ∧
    (s.th.arch.modeOf false 7 = none →
      TrapsIllegal (.vfadd d a b k e) s ∧ TrapsIllegal (.vfsub d a b k e) s ∧ TrapsIllegal (.vfmul d a b k e) s ∧
      TrapsIllegal (.vfdiv d a b k e) s ∧ TrapsIllegal (.vfma d a b c k e) s ∧ TrapsIllegal (.vfms d a b c k e) s)

/-- The table and the rounding of 06: R117. What VFEXP2 gives of an operand that is no integer is the model's series (assumption 18) and is not stated here. -/
def Obligations.PowersReciprocalsAndRoots : Prop :=
  ∀ f ∈ [fBF16, fF16, fF32, fF64], ∀ (z : Bool) (a : Nat),
    let x := f.read z a
    let once := f.round .rne false z 0
    (x.isNan → ∀ op ∈ [f.exp2Op, f.rcpOp, f.rsqOp], op z a = (f.nanEnc, if x.isSig then 1 else 0)) ∧
    (x = .inf false → f.exp2Op z a = (f.infEnc, 0) ∧ f.rcpOp z a = (f.pack false 0, 0) ∧ f.rsqOp z a = (f.pack false 0, 0)) ∧
    (x = .inf true → f.exp2Op z a = (0, 0) ∧ f.rcpOp z a = (f.pack true 0, 0) ∧ f.rsqOp z a = (f.nanEnc, 1)) ∧
    (x.isFin → x.isZero → f.rcpOp z a = (f.pack x.isNeg f.infEnc, 2) ∧ f.rsqOp z a = (f.pack x.isNeg f.infEnc, 2)) ∧
    (x.isFin → x.isZero = false → x.isNeg → f.rsqOp z a = (f.nanEnc, 1)) ∧
    (x.isFin → x.isZero = false → ∃ v : FVal, v.roundsAs (1 / x.rat) ∧ v.isNeg = x.isNeg ∧ f.rcpOp z a = once v) ∧
    (x.isFin → x.isZero = false → x.isNeg = false → ∃ v : FVal, v.roundsAsRoot (1 / x.rat) ∧ v.isNeg = false ∧ f.rsqOp z a = once v) ∧
    (∀ k : Int, x.isFin → x.rat = k → f.exp2Op z a = once (.fin false 1 k))

/-- Masks (17: R330; 19: R375, R379). -/
def Obligations.MasksAndComparisons : Prop :=
  (∀ (s : State) (d : MaskReg) (a b : Reg) (k : MaskReg) (e : BitVec 2) (c : BitVec 5) (q : BitVec 2),
    (let w := 2 ^ e.toNat
     let n := 8 * w
     let x := lane (s.v a) w
     let y := lane (s.v b) w
     let sg := fun (v : Nat) => if 2 ^ (n - 1) ≤ v then (v : Int) - 2 ^ n else (v : Int)
     let holds := fun (i : Nat) => match c.toNat with
       | 0 => decide (x i = y i) | 1 => decide (x i ≠ y i) | 2 => decide (sg (x i) < sg (y i)) | 3 => decide (sg (y i) ≤ sg (x i))
       | 4 => decide (x i < y i) | _ => decide (y i ≤ x i)
     (5 < c.toNat → TrapsIllegal (.vcmp d a b k e c) s) ∧
     (c.toNat ≤ 5 → Plainly (.vcmp d a b k e c) s (fun t => ∃ v, s.onlyM t d v ∧
       ∀ i j, i < 64 / w → j < w → v.getLsbD (i * w + j) = if active (s.m k) w i then holds i else (s.m d).getLsbD (i * w + j)))) ∧
    (let f := match e.toNat with | 0 => fBF16 | 1 => fF16 | 2 => fF32 | _ => fF64
     let w := match e.toNat with | 0 => 2 | 1 => 2 | 2 => 4 | _ => 8
     let z := bit s.th.arch.fcsr 12
     let x := fun (i : Nat) => lane (s.v a) w i
     let y := fun (i : Nat) => lane (s.v b) w i
     let holds := fun (i : Nat) => match q.toNat with
       | 0 => f.cmpEq z (x i) (y i) | 1 => f.cmpLt z (x i) (y i) | 2 => f.cmpLe z (x i) (y i)
       | _ => ((f.read z (x i)).isNan || (f.read z (y i)).isNan, if (f.read z (x i)).isSig || (f.read z (y i)).isSig then 1 else 0)
     Plainly (.vfcmp d a b k e q) s (fun t => ∃ v, s.onlyM t d v (s.laneFlags k w (fun i => (holds i).2)) ∧
       ∀ i j, i < 64 / w → j < w → v.getLsbD (i * w + j) = if active (s.m k) w i then (holds i).1 else (s.m d).getLsbD (i * w + j)))) ∧
  (∀ (s : State) (d a b : MaskReg) (x : Reg),
    Plainly (.mand d a b) s (fun t => s.onlyM t d (s.m a &&& s.m b)) ∧ Plainly (.mor d a b) s (fun t => s.onlyM t d (s.m a ||| s.m b)) ∧
    Plainly (.mxor d a b) s (fun t => s.onlyM t d (s.m a ^^^ s.m b)) ∧ Plainly (.mnot d a) s (fun t => s.onlyM t d (~~~(s.m a))) ∧
    Plainly (.mset d x) s (fun t => s.onlyM t d (s.x x)) ∧ Plainly (.mget x a) s (fun t => s.onlyX t x (s.m a)) ∧
    Plainly (.mpopc x a) s (fun t => s.onlyX t x (BitVec.ofNat 64 ((List.range 64).countP (fun k => (s.m a).getLsbD k)))))

/-- Reductions (06: R118; 19: R384). -/
def Obligations.Reductions : Prop :=
  (∀ (s : State) (d a : Reg) (k : MaskReg) (e : BitVec 3), e.toNat < 4 →
    let w := 2 ^ e.toNat
    let n := 8 * w
    let x := lane (s.v a) w
    let on := fun (i : Nat) => decide (i < 64 / w) && active (s.m k) w i
    let sg := fun (v : Nat) => if 2 ^ (n - 1) ≤ v then (v : Int) - 2 ^ n else (v : Int)
    Plainly (.vredsum d a k e) s (fun t => s.onlyV t d (BitVec.ofNat 512
      (((List.range (64 / w)).map (fun i => if on i then x i else 0)).sum % 2 ^ n))) ∧
    Plainly (.vredmax d a k e) s (fun t => ∃ v, v < 2 ^ n ∧ s.onlyV t d (BitVec.ofNat 512 v) ∧ (∀ i, on i → sg (x i) ≤ sg v) ∧
      (v = 2 ^ (n - 1) ∨ ∃ i, on i ∧ v = x i)) ∧
    Plainly (.vredmin d a k e) s (fun t => ∃ v, v < 2 ^ n ∧ s.onlyV t d (BitVec.ofNat 512 v) ∧ (∀ i, on i → sg v ≤ sg (x i)) ∧
      (v = 2 ^ (n - 1) - 1 ∨ ∃ i, on i ∧ v = x i))) ∧
  (∀ (s : State) (d a : Reg) (k : MaskReg) (e : BitVec 3), 4 ≤ e.toNat →
    let f := match e.toNat with | 4 => fBF16 | 5 => fF16 | 6 => fF32 | _ => fF64
    let w := match e.toNat with | 4 => 2 | 5 => 2 | 6 => 4 | _ => 8
    let z := bit s.th.arch.fcsr 12
    let tree := fun (off : Nat) (op : Nat → Nat → Nat × Nat) =>
      (reduceTree (fun (p q : Nat × Nat) => ((op p.1 q.1).1, (op p.1 q.1).2 ||| (p.2 ||| q.2))) 6
        ((List.range (64 / w)).map (fun i => (if active (s.m k) w i then lane (s.v a) w i else off, 0)))).headD (0, 0)
    let done := fun (i : Instr) (r : Nat × Nat) => Plainly i s (fun t => s.onlyV t d (BitVec.ofNat 512 (r.1 % 2 ^ (8 * w))) r.2)
    done (.vredmax d a k e) (tree f.nanEnc (f.pick z true)) ∧ done (.vredmin d a k e) (tree f.nanEnc (f.pick z false)) ∧
    (∀ m, s.th.arch.modeOf false 7 = some m → done (.vredsum d a k e) (tree (f.pack true 0) (f.addOp m z))) ∧
    (s.th.arch.modeOf false 7 = none → TrapsIllegal (.vredsum d a k e) s)) ∧
  (∀ (g : Nat → Nat → Nat) (l : List Nat) (i : Nat), (pairUp g l).length = (l.length + 1) / 2 ∧
    (2 * i + 1 < l.length → (pairUp g l)[i]? = some (g (l.getD (2 * i) 0) (l.getD (2 * i + 1) 0))))

/-- VDOT and VCVT (06: R110, R118; 19: R376, R377). That FTZ leaves the old lane of VDOT as it is, that a signalling NaN sets its NV, and the sign of a zero product or drained value of integers, are the model's choice (assumptions 74 and 75). The engines (06: R105 to R107, R120 to R122; 07: R124, R130, R135 to R139; 08: R148): FVal.add and FVal.mul are exact (ExactArithmetic), and Flt.round rounds once (RoundingModes). -/
def Obligations.DotProductConversionAndEngineArithmetic : Prop :=
  (∀ (s : State) (d a b : Reg) (k : MaskReg),
    let sg := fun (v : Nat) => if 128 ≤ v % 256 then (v % 256 : Int) - 256 else (v % 256 : Int)
    Plainly (.vdot d a b k 0) s (fun t => s.onlyLanes t d k 4 (fun i =>
      (((lane (s.v d) 4 i : Int) + ((List.range 4).map (fun j =>
        sg (lane (s.v a) 4 i / 2 ^ (8 * j)) * sg (lane (s.v b) 4 i / 2 ^ (8 * j)))).sum) % 2 ^ 32).toNat))) ∧
  (∀ (s : State) (d a b : Reg) (k : MaskReg) (e : BitVec 2), e ≠ 0 →
    let z := bit s.th.arch.fcsr 12
    let n := if e = 3 then 2 else 4
    let w := 32 / n
    let el := fun (u : V512) (i j : Nat) =>
      let bits := lane u 4 i / 2 ^ (w * j) % 2 ^ w
      if e = 1 then fE4M3.unpack bits else if e = 2 then fE5M2.unpack bits else fBF16.read z bits
    let isInf := fun (x : FVal) => x.isFin = false ∧ x.isNan = false
    Plainly (.vdot d a b k e) s (fun t => ∃ q : Nat → Nat × Nat,
      s.onlyLanes t d k 4 (fun i => (q i).1 % 2 ^ 32) (s.laneFlags k 4 (fun i => (q i).2)) ∧
      ∀ i, i < 16 →
        let o := fF32.unpack (lane (s.v d) 4 i)
        let x := el (s.v a) i
        let y := el (s.v b) i
        let terms := o :: (List.range n).map (fun j => (x j).mul (y j))
        let nan := o.isNan = true ∨ ∃ j, j < n ∧ ((x j).isNan = true ∨ (y j).isNan = true)
        let bad := o.isSig = true ∨ (.inf true ∈ terms ∧ .inf false ∈ terms) ∨
          ∃ j, j < n ∧ ((x j).isSig = true ∨ (y j).isSig = true ∨ (isInf (x j) ∧ (y j).isZero = true) ∨ ((x j).isZero = true ∧ isInf (y j)))
        (bad → q i = (fF32.nanEnc, 1)) ∧ (nan → ¬bad → q i = (fF32.nanEnc, 0)) ∧
        (¬nan → ¬bad → ∀ g, .inf g ∈ terms → q i = (fF32.pack g fF32.infEnc, 0)) ∧
        ((∀ u ∈ terms, u.isFin = true) → ∃ v : FVal, v.isFin = true ∧ v.rat = (terms.map FVal.rat).sum ∧
          (v.isZero = true → (v.isNeg = true ↔ ∀ u ∈ terms, u.isZero = true ∧ u.isNeg = true)) ∧
          q i = fF32.round .rne false z 0 v))) ∧
  (∀ (s : State) (d a : Reg) (p q : BitVec 5) (r : BitVec 3) (x : BitVec 1),
    let src := fmtElem p.toNat
    let dst := fmtElem q.toNat
    let wide := fun (n : Nat) => if n = 6 then 8 else n
    let count := 512 / max (wide src.bits) (wide dst.bits)
    (p.toNat < 0x1C → q.toNat < 0x1C → ∀ m, s.th.arch.modeOf true r.toNat = some m →
      Plainly (.vcvt d a p q r x) s (fun t => ∃ v fl,
        s.onlyV t d v fl ∧ v.toNat < 2 ^ (dst.bits * count) ∧ (m ≠ .sr → t.th.arch.srcount = s.th.arch.srcount) ∧
        (m = .sr → t.th.arch.srcount = s.th.arch.srcount + 1) ∧
        (let c := fun (i : Nat) => dst.convert m (x == 1) (bit s.th.arch.fcsr 12) (srBits s.th.arch.srseed s.th.arch.srcount i)
           (src.read (bit s.th.arch.fcsr 12) ((s.v a).toNat / 2 ^ (src.bits * i) % 2 ^ src.bits))
         fl = orFlags ((List.range count).map (fun i => (c i).2)) ∧
         ∀ i, i < count → v.toNat / 2 ^ (dst.bits * i) % 2 ^ dst.bits = (c i).1 % 2 ^ dst.bits))) ∧
    (0x1C ≤ p.toNat ∨ 0x1C ≤ q.toNat ∨ s.th.arch.modeOf true r.toNat = none → TrapsIllegal (.vcvt d a p q r x) s)) ∧
  (∀ ts : List FVal, let nan := (∃ u ∈ ts, u.isNan = true) ∨ (.inf true ∈ ts ∧ .inf false ∈ ts)
    (nan → (mmaSum ts).isNan = true) ∧ (¬nan → ∀ g, .inf g ∈ ts → mmaSum ts = .inf g) ∧
    ((∀ u ∈ ts, u.isFin = true) → (mmaSum ts).isFin = true ∧ (mmaSum ts).rat = (ts.map FVal.rat).sum ∧
      ((mmaSum ts).isZero = true → ((mmaSum ts).isNeg = true ↔ ∀ u ∈ ts, u.isZero = true ∧ u.isNeg = true)))) ∧
  (∀ (n : Nat) (ps : List FVal) (p : FVal), rne32 p = fF32.unpack (fF32.round .rne false false 0 p).1 ∧ treeSum 0 [p] = p ∧
    (ps.length = 2 ^ (n + 1) → treeSum (n + 1) ps =
      treeSum n ((List.range (2 ^ n)).map (fun i => rne32 ((ps.getD (2 * i) negZero).add false (ps.getD (2 * i + 1) negZero)))))) ∧
  (∀ (mem : List Host.Cell) (rule : MmaRule) (a b : Operand) (rows k i j : Nat) (neg : Bool) (row : List (Nat × FVal)) (col : List FVal) (start : FVal),
    let n := if rule = .vt ∨ rule = .mx32 then 128 else k
    let plus := fun (u v : FVal) => rne32 (u.add false v)
    let prods := fun (lo m : Nat) => (row.filter (fun p => decide (lo ≤ p.1) && decide (p.1 < lo + m))).map (fun p => p.2.mul (col.getD p.1 negZero))
    let f32 := fun (o : Nat) => fF32.unpack (leNat (Memory.readBytes mem o 4))
    let byte := fun (o : Nat) => Memory.read mem o
    let block := fun (q : Nat) => match rule with
      | .plain | .integer => rne32 (mmaSum (prods (n * q) n))
      | .vt => rne32 ((mmaSum (prods (128 * q) 128)).mul (rne32 ((f32 (a.trailer + 256 * q + 4 * i)).mul (f32 (b.trailer + 4 * q)))))
      | .mx32 =>
        let c := fun (r : Nat) => (mmaSum (prods (128 * q + 32 * r) 32)).mul
          ((e8m0 (byte (a.trailer + i * (k / 32) + (4 * q + r)))).mul (e8m0 (byte (b.trailer + j * (k / 32) + (4 * q + r)))))
        plus (plus (c 0) (c 1)) (plus (c 2) (c 3))
      | .b16 =>
        let c := fun (r : Nat) => (mmaSum (prods (n * q + 16 * r) 16)).mul ((ue5m3 (byte (a.trailer + 16 * i + r))).mul (ue5m3 (byte (b.trailer + 16 * j + r))))
        rne32 ((rne32 ((f32 (a.trailer + 16 * rows + 4 * i)).mul (f32 (b.trailer + 512 + 4 * j)))).mul (treeSum 4 ((List.range 16).map c)))
      | .g128 => rne32 (mmaSum ((prods (n * q) n).map (fun p => p.mul (fBF16.unpack (leNat (Memory.readBytes mem (b.trailer + 2 * j) 2))))))
      | .tree => treeSum (Nat.log2 k) ((List.range k).map (fun m => match row.find? (fun p => p.1 == m) with
          | some p => rne32 (p.2.mul (col.getD m negZero))
          | none => negZero))
    floatAcc mem rule a b rows k i j neg row col start = (List.range (k / n)).foldl (fun s q => plus s (if neg then (block q).neg else block q)) start) ∧
  (∀ b : Byte, (b = 0xFF → (e8m0 b).isNan = true ∧ (ue5m3 b).isNan = true) ∧ (b ≠ 0xFF → (e8m0 b).rat = (2 : Rat) ^ ((b.toNat : Int) - 127) ∧
    (ue5m3 b).rat = if b.toNat < 8 then (2 : Rat) ^ (-14 : Int) * ((b.toNat : Rat) / 8)
      else (2 : Rat) ^ ((b.toNat / 8 : Nat) - 15 : Int) * (1 + ((b.toNat % 8 : Nat) : Rat) / 8))) ∧
  (∀ (neg : Bool) (row : List (Nat × FVal)) (col : List FVal) (start : Int),
    let v := start + (if neg then -1 else 1) * (row.map (fun q => q.2.toInt * (col.getD q.1 negZero).toInt)).sum
    ((intAcc neg row col start).1 : Int) = v % 2 ^ 32 ∧ ((intAcc neg row col start).2 = true ↔ v < -2 ^ 31 ∨ 2 ^ 31 ≤ v)) ∧
  (∀ (sg : Bool) (w v : Nat), 0 < w → (Elem.unpack (.int sg w) v).toInt = if sg = true ∧ 2 ^ (w - 1) ≤ v % 2 ^ w then (v % 2 ^ w : Int) - 2 ^ w else (v % 2 ^ w : Int)) ∧
  (∀ (mem : List Host.Cell) (off : Nat) (c : FmtCtx) (rows k i j : Nat),
    let elem := fun (o w n : Nat) => leNat (Memory.readBytes mem o (((n + 1) * w + 7) / 8)) / 2 ^ (n * w) % 2 ^ w
    let ab := (fmtElem c.af).bits
    let bb := (fmtElem c.bf).bits
    bCol mem off c k j = (List.range k).map (fun n => (fmtElem c.bf).unpack (elem (off + j * (k * bb / 8)) bb n)) ∧
    (c.sp = false → aRow mem off c rows k i = (List.range k).map (fun n => (n, (fmtElem c.af).unpack (elem (off + i * (k * ab / 8)) ab n)))) ∧
    (c.sp = true → aRow mem off c rows k i = (List.range (k / 2)).map (fun n =>
      (4 * (n / 2) + (Memory.read mem (off + rows * (k * ab / 16) + i * (k / 8) + n / 4)).toNat / 2 ^ (2 * (n % 4)) % 4,
        (fmtElem c.af).unpack (elem (off + i * (k * ab / 16)) ab n))))) ∧
  (∀ (a : Acc) (sc : FVal) (r j : Nat), j < 32 →
    let w := (a.get r j).toNat
    let v := if a.int then FVal.fin (decide (2 ^ 31 ≤ w)) (if 2 ^ 31 ≤ w then 2 ^ 32 - w else w) 0 else fF32.unpack w
    (drainVals a sc r).getD j negZero = v.mul sc) ∧
  (∀ (d : DrainArg) (r : Nat) (ys : List FVal), ys.length = 32 → let e := fmtElem d.fmt
    let out := fun (i : Nat) => e.convert d.rm d.sat false (if d.rm = .sr then srBits d.seed d.count (32 * r + i) else 0) (ys.getD i negZero)
    (drainRow d r ys).1.length = 4 * e.bits ∧ ((drainRow d r ys).2 = true ↔ ∃ i, i < 32 ∧ satf e (out i).2 = true) ∧
    ∀ i, i < 32 → leNat (drainRow d r ys).1 / 2 ^ (e.bits * i) % 2 ^ e.bits = (out i).1 % 2 ^ e.bits) ∧
  (∀ (fmt : Nat) (ys : List FVal), fmtScheme fmt = 1 ∨ fmtScheme fmt = 2 →
    ((∃ y ∈ ys, y.isNan = true) → (rowScale fmt ys).1 = if fmtScheme fmt = 1 then leBytes 4 0x7FC00000 else [0xFF]) ∧
    ((∀ y ∈ ys, y.isFin = true) → ∃ e : Int,
      ((∀ y ∈ ys, y.isZero = true) → e = 0) ∧
      ((∃ y ∈ ys, y.isZero = false) → let t := e + emaxOf (fmtElem fmt)
        (∀ y ∈ ys, -(2 : Rat) ^ (t + 1) < y.rat ∧ y.rat < (2 : Rat) ^ (t + 1)) ∧ ∃ y ∈ ys, y.rat ≤ -(2 : Rat) ^ t ∨ (2 : Rat) ^ t ≤ y.rat) ∧
      let k := if fmtScheme fmt = 1 then max (-126) (min 127 e) else max (-127) (min 127 e)
      (rowScale fmt ys).1 = (if fmtScheme fmt = 1 then leBytes 4 ((k + 127).toNat * 2 ^ 23) else [BitVec.ofNat 8 (k + 127).toNat]) ∧
      (rowScale fmt ys).2.length = ys.length ∧ ∀ i, i < ys.length → ((rowScale fmt ys).2.getD i negZero).rat = (ys.getD i negZero).rat * (2 : Rat) ^ (-k))) ∧
  [0x0C, 0x0D, 0x0E, 0x0F, 0x10, 0x11, 0x12].map (fun c => emaxOf (fmtElem c)) = [2, 6, 2, 2, 4, 8, 15] ∧
  (∀ a b bits : Nat, (a = b → copyConvert a b bits = (bits, false)) ∧ (a ≠ b →
    let r := (fmtElem b).convert .rne true false 0 ((fmtElem a).unpack bits)
    copyConvert a b bits = (r.1, satf (fmtElem b) r.2)))

/-- Scalar loads (17: R326, R327; 02: R28, R39). -/
def Obligations.Loads : Prop :=
  ∀ (s : State) (d a : Reg) (i : BitVec 15) (ins : Instr) (n : Nat) (f : Nat → W64),
    (ins, n, f) ∈ [(.lb d a i, 1, fun n => (BitVec.ofNat 8 n).signExtend 64), (.lbu d a i, 1, fun n => BitVec.ofNat 64 n),
      (.lh d a i, 2, fun n => (BitVec.ofNat 16 n).signExtend 64), (.lhu d a i, 2, fun n => BitVec.ofNat 64 n),
      (.lw d a i, 4, fun n => (BitVec.ofNat 32 n).signExtend 64), (.lwu d a i, 4, fun n => BitVec.ofNat 64 n),
      (.ld d a i, 8, fun n => BitVec.ofNat 64 n)] →
    let ea : W64 := s.x a + i.signExtend 64
    (∀ off, segCheck s.th.seg ea n n .load = .ok (.inl off) → off + n ≤ (s.cell s.myCell).area →
      Plainly ins s (fun t => s.onlyX t d (f (leNat (Memory.readBytes (s.cell s.myCell).ringMem off n))))) ∧
    (∀ s1 key leaf via look, s.resolve ea n n .load = (s1, .ok (.inner key leaf via look)) →
      let ls := linesAt key n
      let sig := Sig.enterAll s1.th.chunk.rsig (ls.map (64 * ·) ++ (if look then [mapLine s1.myCell] else []))
      s1.locked ls = false → (look = true → s1.locked [lineOf (mapLine s1.myCell)] = false) → s.th.replyBad = false → (∀ l ∈ ls, l ∉ s1.poisoned) →
      (s1.missing via.stash via.tag key n = [] → (s.th.chunk.isOpen = true → sig.saturated = false) →
        Plainly ins s (fun t => s.onlyX t d (f (leNat (s1.seenBytes key n))) ∧
          (s.roomy → s.th.chunk.isOpen = true → t.th.chunk.rsig = sig))) ∧
      (s1.missing via.stash via.tag key n ≠ [] →
        Completes ins s (fun t => t.th.st = .dataWait ∧ t.th.arch = s.th.arch ∧ t.th.chunk = s.th.chunk ∧
          t.th.pend = via.wait key (s1.missing via.stash via.tag key n)))) ∧
    (∀ s1 bs atB, s.load ea n n = .ok s1 bs atB → Completes ins s (fun t => s.onlyX t d (f (leNat bs))))

/-- Every place a load may go to (17: R327). -/
def Obligations.LoadsAnswerTheirBytes : Prop :=
  (∀ (s s1 : State) (ea : W64) (n al : Nat) (alone : Bool) (bs : List Byte) (b : Bool), n ≤ 64 →
    s.loadAs ea n al alone = .ok s1 bs b → bs.length = n ∧ s.sameRegs s1) ∧
  (∀ (s s1 : State) (es : List (W64 × Nat × Nat)) (bss : List (List Byte)) (b : Bool), (∀ e ∈ es, e.2.1 ≤ 64) →
    s.loadMany es = .ok s1 bss b → bss.map List.length = es.map (fun e => e.2.1) ∧ s.sameRegs s1)

/-- Scalar stores (18: R354, R355; 02: R40). The address is that of the meaning: x[rs1] + sext(imm15), resolved as a store. -/
def Obligations.Stores : Prop :=
  ∀ (s : State) (b a : Reg) (i : BitVec 15) (ins : Instr) (n : Nat), (ins, n) ∈ [(.sb b a i, 1), (.sh b a i, 2), (.sw b a i, 4), (.sd b a i, 8)] →
    let ea : W64 := s.x a + i.signExtend 64
    let bs := leBytes n (s.x b).toNat
    (∀ s1 atB, s.store n [Elt.ofBytes ea bs] = .ok s1 () atB → Completes ins s (fun t => s.sameRegs t)) ∧
    (∀ s1 key leaf via look, s.resolve ea n n .store = (s1, .ok (.inner key leaf via look)) → s.inItem = false →
      (look = true → s1.locked [lineOf (mapLine s1.myCell)] = false) →
      (look = true → s.th.chunk.isOpen = true → (Sig.enter s.th.chunk.rsig (mapLine s1.myCell)).saturated = false) →
      let new := (linesAt key n).filter (fun l => !s.th.chunk.lines.contains l)
      (s.th.chunk.isOpen = true → s.th.chunk.lines.length + new.length ≤ 256 ∧
        (Sig.enterAll s.th.chunk.wsig ((linesAt key n).map (64 * ·))).saturated = false) →
      s1.setFull new = false → (∀ l ∈ new, s1.hostHolds l = false) →
      Plainly ins s (fun t => s.sameRegs t ∧ (s.roomy →
        (∀ j, j < n → t.seenByte (key + j) = BitVec.ofNat 8 ((s.x b).toNat / 256 ^ j)) ∧
        (∀ k, k < key ∨ key + n ≤ k → t.seenByte k = s1.openChunk.seenByte k) ∧ (∀ k, t.byteAt k = s1.byteAt k) ∧
        ∀ l ∈ linesAt key n, l ∈ t.th.chunk.lines ∧ Sig.holds t.th.chunk.wsig (64 * l) = true))) ∧
    (∀ off, segCheck s.th.seg ea n n .store = .ok (.inl off) → off + n ≤ (s.cell s.myCell).area → s.inItem = false →
      (s.th.chunk.isOpen = true → s.th.chunk.defCount < 32) →
      Plainly ins s (fun t => s.sameRegs t ∧ (s.roomy → (∀ k, t.byteAt k = s.byteAt k) ∧
        t.th.chunk.defq = s.openChunk.th.chunk.defq ++ [.ringStore s.myCell (mcellsAt off bs)])))

/-- The segment stage of 05: R87, with R71 of 04. -/
def Obligations.SegmentChecks : Prop :=
  ∀ (s : State) (d a b : Reg) (i : BitVec 15) (ins : Instr) (n : Nat) (acc : Access),
    (ins, n, acc) ∈ [(.lb d a i, 1, .load), (.lbu d a i, 1, .load), (.lh d a i, 2, .load), (.lhu d a i, 2, .load), (.lw d a i, 4, .load),
      (.lwu d a i, 4, .load), (.ld d a i, 8, .load), (.sb b a i, 1, .store), (.sh b a i, 2, .store), (.sw b a i, 4, .store), (.sd b a i, 8, .store)] →
    let ea : W64 := s.x a + i.signExtend 64
    let off := fld ea 60 0
    let g := Map.get 0 s.th.seg (fld ea 63 61)
    let limit := g.toNat / 2 ^ 64 % 2 ^ 61
    let right := if acc = .load then g.getLsbD 63 else g.getLsbD 62
    (off % n ≠ 0 → Traps ins s .align ea) ∧
    (off % n = 0 → limit < off + n → Traps ins s .seglimit ea) ∧
    (off % n = 0 → off + n ≤ limit → right = false → Traps ins s .segrights ea) ∧
    (off % n = 0 → off + n ≤ limit → right = true → g.getLsbD 57 = true → (s.cell s.myCell).area < off + n → Traps ins s .seglimit ea) ∧
    (off % n = 0 → off + n ≤ limit → right = true → g.getLsbD 57 = false → 2 ^ 57 < g.toNat / 64 % 2 ^ 51 * 64 + off + n →
      Traps ins s .seglimit ea) ∧
    (∀ s1 h, s.resolve ea n n acc = (s1, .error h) → exec ins s = .next (s1.haltWith h))

/-- Translation (05: R88 to R91). -/
def Obligations.TranslationSetsAccessed : Prop :=
  ∀ (s s1 : State) (asid : BitVec 16) (root cluster va : Nat) (acc : Access) (r : Except FaultReason TlbEntry),
    s.translate asid root cluster va acc = (s1, r) →
    s1 = { s with mem := s1.mem, tlbs := s1.tlbs } ∧
    ((∃ e ∈ s.tlb cluster, e.hits asid va = true) → s1.mem = s.mem) ∧ (∀ f, s.walk root va = .error f → s1.mem = s.mem) ∧
    (∀ leafPa w size, s.walk root va = .ok (leafPa, w, size) → Memory.read64 s.mem leafPa = w ∧
      (s1.mem = s.mem ∨ s1.mem = Memory.write64 s.mem leafPa (w ||| 0x20)) ∧
      (Memory.wf s.mem → (∀ k, k < leafPa ∨ leafPa + 8 ≤ k → Memory.read s1.mem k = Memory.read s.mem k) ∧
        (s1.mem ≠ s.mem → Memory.read64 s1.mem leafPa = w ||| 0x20)) ∧
      ((∀ e ∈ s.tlb cluster, e.hits asid va = false) → ∀ e, r = .ok e → s1.mem = Memory.write64 s.mem leafPa (w ||| 0x20) ∨ bit w 5 = true)) ∧
    (∀ e, r = .ok e → leafAllows e.leaf acc = true ∧ e.hits asid va = true ∧
      (e ∈ s.tlb cluster ∨ ∃ w, e.leaf = w ||| 0x20 ∧ s.walk root va = .ok (e.leafPa, w, e.size) ∧ s.leafFault w e.size = none)) ∧
    ((∀ e ∈ s.tlb cluster, e.hits asid va = false) →
      let next := fun (w : W64) (i : Nat) => Memory.read64 s.mem (fld w 43 8 * 256 + 8 * i)
      let table := fun (w : W64) => bit w 0 = true ∧ bit w 1 = false ∧ w &&& ~~~0x00000FFFFFFFFF01 = 0
      let stops := fun (w : W64) => (bit w 0 = false → r = .error .notPresent) ∧
        (bit w 0 = true → bit w 1 = false → w &&& ~~~0x00000FFFFFFFFF01 ≠ 0 → r = .error .malformed)
      let w3 := Memory.read64 s.mem (root + 8 * (va / 2 ^ 39 % 2 ^ 18))
      let w2 := next w3 (va / 2 ^ 30 % 2 ^ 9)
      let w1 := next w2 (va / 2 ^ 21 % 2 ^ 9)
      let w0 := next w1 (va / 2 ^ 16 % 2 ^ 5)
      (stops w3 ∧ (bit w3 0 = true → bit w3 1 = true → r = .error .malformed)) ∧ (table w3 → stops w2) ∧ (table w3 → table w2 → stops w1) ∧
      (table w3 → table w2 → table w1 → stops w0))

/-- PREF (18: R341). -/
def Obligations.Prefetch : Prop :=
  ∀ (s : State) (a : Reg) (i : BitVec 15),
    let ea : W64 := s.x a + i.signExtend 64
    Plainly (.pref a i) s (fun t => s.sameRegs t ∧ (s.roomy →
      t.th.chunk.rsig = s.openChunk.th.chunk.rsig ∧ t.th.chunk.wsig = s.openChunk.th.chunk.wsig ∧
      t.th.chunk.wbuf = s.openChunk.th.chunk.wbuf ∧ t.service.faults = s.service.faults ∧ t.hosts = s.hosts ∧ t.farMem = s.farMem ∧
      (∀ va, segCheck s.th.seg ea 1 1 .load = .ok (.inr va) →
        (∀ f, s.walk (s.rootOf s.th.core) va = .error f → t.mem = s.mem) ∧
        (∀ leafPa w size, s.walk (s.rootOf s.th.core) va = .ok (leafPa, w, size) → t.mem = s.mem ∨ t.mem = Memory.write64 s.mem leafPa (w ||| 0x20))) ∧
      ((∀ va, segCheck s.th.seg ea 1 1 .load ≠ .ok (.inr va)) → t.mem = s.mem))) ∧
    (∀ va s1 key leaf via look, segCheck s.th.seg ea 1 1 .load = .ok (.inr va) →
      s.openChunk.mapVa (segOf s.th.seg ea) va 1 .load = (s1, .ok (.inner key leaf via look)) →
      s1.locked [lineOf key] = false → lineOf key ∉ s1.poisoned →
      (isHostKey key || s1.permits (s1.coreInit s1.th.core) key false) = true → s.th.got = [] →
      s1.setCount s1.th.core (setOf (lineOf key)) < 8 → s.roomy →
      Completes (.pref a i) s (fun t => (t.cacheLines via.stash).any (fun h => h.line == lineOf key && h.tag == via.tag && h.read) = true))

/-- Vector loads and stores (19: R381, R383), given what their element accesses answer. -/
def Obligations.VectorLoadsAndStores : Prop :=
  ∀ (s : State) (v a b : Reg) (k : MaskReg) (o : BitVec 12) (e : BitVec 2),
    let w := 2 ^ e.toNat
    let line : W64 := s.x a + o.signExtend 64 * 64
    let strided := fun (i : Nat) => s.x a + BitVec.ofNat 64 i * s.x b
    let indexed := fun (i : Nat) => s.x a + BitVec.ofNat 64 (lane (s.v b) w i)
    let on := (List.range (64 / w)).filter (active (s.m k) w)
    let rank := fun (i : Nat) => (on.filter (· < i)).length
    let cells : List Elt := [{ ea := line, n := 64, cells := ((List.range 64).filter (fun i => (s.m k).getLsbD i)).map (fun i =>
      (i, 0xFF, BitVec.ofNat 8 ((s.v v).toNat / 256 ^ i))) }]
    let elts := fun (at_ : Nat → W64) => on.map (fun i => Elt.ofBytes (at_ i) (leBytes w (lane (s.v v) w i)))
    (∀ s1 bs atB, s.loadMany [(line, 64, 64)] = .ok s1 [bs] atB → bs.length = 64 →
      Completes (.vld v a k o) s (fun t => s.onlyLanes t v k 1 (fun i => (bs.getD i 0).toNat))) ∧
    (∀ s1 bss atB, s.loadMany (on.map (fun i => (strided i, w, w))) = .ok s1 bss atB → bss.length = on.length →
      Completes (.vlds v a b k e) s (fun t => s.onlyLanes t v k w (fun i => leNat (bss.getD (rank i) []) % 2 ^ (8 * w)))) ∧
    (∀ s1 bss atB, s.loadMany (on.map (fun i => (indexed i, w, w))) = .ok s1 bss atB → bss.length = on.length →
      Completes (.vldx v a b k e) s (fun t => s.onlyLanes t v k w (fun i => leNat (bss.getD (rank i) []) % 2 ^ (8 * w)))) ∧
    (∀ s1 atB, s.store 64 cells = .ok s1 () atB →
      Completes (.vst v a k o) s (fun t => s.sameRegs t ∧ s.StoredAs s1 t 64 cells atB)) ∧
    (∀ s1 atB, s.store w (elts strided) = .ok s1 () atB →
      Completes (.vsts v a b k e) s (fun t => s.sameRegs t ∧ s.StoredAs s1 t w (elts strided) atB)) ∧
    (∀ s1 atB, s.store w (elts indexed) = .ok s1 () atB →
      Completes (.vstx v a b k e) s (fun t => s.sameRegs t ∧ s.StoredAs s1 t w (elts indexed) atB))

/-- Typed loads and stores (19: R382), given what their pieces answer. That a subnormal scale reads as zero under FTZ is the model's choice (assumption 47). -/
def Obligations.TypedLoadsAndStores : Prop :=
  ∀ (s : State) (v a b : Reg) (k : MaskReg) (f : BitVec 5) (e : BitVec 2),
    let fe := fmtElem f.toNat
    let le := laneElem e
    let w := le.bits / 8
    let F := 64 / w * fe.bits / 8
    let act := (List.range (64 / w)).map (active (s.m k) w)
    let z := bit s.th.arch.fcsr 12
    (0x1C ≤ f.toNat ∨ s.th.arch.modeOf false 7 = none → TrapsIllegal (.vldc v a b k f e) s) ∧
    (0x1C ≤ f.toNat ∨ s.th.arch.modeOf true 7 = none → TrapsIllegal (.vstc v a b k f e) s) ∧
    (f.toNat < 0x1C → (s.x a).toNat % typedAlign F ≠ 0 →
      (s.th.arch.modeOf false 7 ≠ none → Traps (.vldc v a b k f e) s .align (s.x a)) ∧
      (s.th.arch.modeOf true 7 ≠ none → Traps (.vstc v a b k f e) s .align (s.x a))) ∧
    (f.toNat < 0x1C → (s.x a).toNat % typedAlign F = 0 → ∀ m,
      (s.th.arch.modeOf false 7 = some m → ∀ s1 bss atB,
        let ps := typedPieces (typedCells fe.bits F act (act.map (fun _ => 0)))
        s.loadMany (ps.map (fun p => (s.x a + BitVec.ofNat 64 p.1, p.2.1, 1))) = .ok s1 bss atB →
        let mem := leNat ((List.range F).map (pieceByte ps bss))
        let c := fun (i : Nat) => scaledVal (fe.read z (mem / 2 ^ (fe.bits * i) % 2 ^ fe.bits)) (s.typedScale b)
        Completes (.vldc v a b k f e) s (fun t => s.onlyLanes t v k w (fun i => (le.convert m true z 0 (c i).1).1 % 2 ^ (8 * w))
          (s.laneFlags k w (fun i => (le.convert m true z 0 (c i).1).2 ||| (c i).2)))) ∧
      (s.th.arch.modeOf true 7 = some m → ∀ s1 atB,
        let c := fun (i : Nat) =>
          let p := scaledVal (le.read z (lane (s.v v) w i)) (s.typedScale b)
          ((fe.convert m true z (srBits s.th.arch.srseed s.th.arch.srcount i) p.1).1, (fe.convert m true z (srBits s.th.arch.srseed s.th.arch.srcount i) p.1).2 ||| p.2)
        let es : List Elt := (typedPieces (typedCells fe.bits F act ((List.range (64 / w)).map (fun i => (c i).1)))).map (fun p =>
          { ea := s.x a + BitVec.ofNat 64 p.1, n := p.2.1, cells := p.2.2 })
        s.store 1 es = .ok s1 () atB →
        Completes (.vstc v a b k f e) s (fun t => s.StoredAs s1 t 1 es atB ∧ (∀ r : Reg, t.x r = s.x r) ∧ (∀ r : Reg, t.v r = s.v r) ∧ (∀ r : MaskReg, t.m r = s.m r) ∧
          s.gains t (s.laneFlags k w (fun i => (c i).2)) ∧
          t.th.arch.srcount = if m = .sr then s.th.arch.srcount + 1 else s.th.arch.srcount)))

/-- Issue of matrix commands (07: R132 to R137; 17: R332 to R334, R338). -/
def Obligations.MatrixIssue : Prop :=
  (∀ (s : State) (c : BitVec 3) (a b : BitVec 4) (f sh : BitVec 2) (p q z : BitVec 1) (ins : Instr) (neg : Bool),
    (ins, neg) ∈ [(.mma c a b f sh p q z, false), (.mmas c a b f sh p q z, true)] →
    let w := Map.get 0 s.th.arch.fmtctx f.toNat
    let rows := if sh = 0 then 64 else if sh = 1 then 32 else 16
    let ra := s.ringOf s.myCell a.toNat
    let rb := s.ringOf s.myCell b.toNat
    let lines := [ringLine s.myCell a.toNat, ringLine s.myCell b.toNat]
    (sh = 3 ∨ a = b → TrapsIllegal ins s) ∧
    (sh ≠ 3 → a ≠ b → s.th.core % 2 = 0 → TrapsWord ins s .role) ∧
    (sh ≠ 3 → a ≠ b → s.th.core % 2 = 1 →
      ((fmtCtx w).combo rows = none → TrapsWord ins s .combo) ∧
      (∀ k rule, (fmtCtx w).combo rows = some (k, rule) →
        (ra.word = 0 ∨ ra.entryBytes < aEntry (fmtCtx w) rows k → Traps ins s .ring (BitVec.ofNat 64 a.toNat)) ∧
        (ra.word ≠ 0 → aEntry (fmtCtx w) rows k ≤ ra.entryBytes → rb.word = 0 ∨ rb.entryBytes < bEntry (fmtCtx w) k →
          Traps ins s .ring (BitVec.ofNat 64 b.toNat)) ∧
        (ra.word ≠ 0 → aEntry (fmtCtx w) rows k ≤ ra.entryBytes → rb.word ≠ 0 → bEntry (fmtCtx w) k ≤ rb.entryBytes →
          (s.hasEntry a.toNat = false → exec ins s = .next (s.waitRing a.toNat)) ∧
          (s.hasEntry a.toNat = true → s.hasEntry b.toNat = false → exec ins s = .next (s.waitRing b.toNat)) ∧
          (s.hasEntry a.toNat = true → s.hasEntry b.toNat = true → s.sigRoom lines lines →
            let op := MatOp.mma c.toNat a.toNat b.toNat (s.openChunk.claimPos a.toNat) (s.openChunk.claimPos b.toNat) (p == 1) (q == 1) w rows (z == 1) neg
            Defers ins s s [.matrix s.myCell { op := op, who := s.issuer, faulted := none, ended := none }]
              (fun t => s.sameRegs t ∧ (s.roomy →
                t.ownClaims a.toNat = s.openChunk.ownClaims a.toNat + p.toNat ∧ t.ownClaims b.toNat = s.openChunk.ownClaims b.toNat + q.toNat))))))) ∧
  (∀ (s : State) (c : BitVec 3), (s.th.core % 2 = 0 → TrapsWord (.mzero c) s .role) ∧
    (s.th.core % 2 = 1 → Defers (.mzero c) s s [.matrix s.myCell { op := .mzero c.toNat, who := s.issuer, faulted := none, ended := none }] (fun t => s.sameRegs t))) ∧
  (∀ (s : State) (c m : BitVec 3) (a b f : BitVec 5) (r : BitVec 3) (h : BitVec 1),
    let ins := Instr.mdrain c m a b f r h
    let w := s.x b
    let ring := s.ringOf s.myCell a.toNat
    let legal := mdrainOk m a f r = true ∧ bit w 58 = false ∧ fld w 51 32 % 8 = 0
    let unfit := m = 1 ∧ (ring.word = 0 ∨ ring.entryBytes < drainEntry f.toNat (fld w 57 52 + 1))
    (s.th.arch.modeOf true r.toNat = none ∨ ¬legal → TrapsIllegal ins s) ∧
    (∀ rm, s.th.arch.modeOf true r.toNat = some rm → legal →
      (s.th.core % 2 = 0 → TrapsWord ins s .role) ∧
      (s.th.core % 2 = 1 → unfit → Traps ins s .ring (BitVec.ofNat 64 a.toNat)) ∧
      (s.th.core % 2 = 1 → ¬unfit → ∃ op, op = MatOp.mdrain c.toNat m.toNat (if m = 1 then BitVec.ofNat 64 a.toNat else s.x a) w f
          (BitVec.ofNat 3 rm.code) (h == 1) s.th.arch.srseed s.th.arch.srcount ∧
        Defers ins s s [.matrix s.myCell { op := op, who := s.issuer, faulted := none, ended := none }]
          (fun t => s.sameRegs t ∧ t.th.arch.srcount = if rm = .sr then s.th.arch.srcount + 1 else s.th.arch.srcount)))) ∧
  (∀ (s : State) (n : BitVec 2) (a : Reg), Plainly (.mfmt n a) s (fun t => s.sameRegs t ∧
    ∀ m, Map.get 0 t.th.arch.fmtctx m = if m = n.toNat then s.x a &&& 0xFFF else Map.get 0 s.th.arch.fmtctx m))

/-- Rings (07: R127, R128; 18: R342 to R346) and the stash map (04: R72, R73; 18: R361). The place of the run of a mapping (assumption 20), the order of SMAP's statuses where several apply, NOSPACE before NOENTRY among them (assumption 74), and the PUB field of RSTAT with C above T (assumption 75) are the model's choices. -/
def Obligations.RingsAndStash : Prop :=
  (∀ (s : State) (d a : Reg) (q : BitVec 4),
    let w := s.x a
    let bad := fld w 63 54 ≠ 0 ∨ fld w 47 41 ≠ 0 ∨ fld w 31 21 ≠ 0 ∨ fld w 53 48 = 0 ∨ fld w 40 32 = 0 ∨ 256 < fld w 40 32 ∨ fld w 20 0 % 256 ≠ 0
    let fits := fld w 20 0 + (fld w 53 48 + 1) * (fld w 40 32 * 256) ≤ (s.cell s.myCell).area
    (w ≠ 0 → bad → Plainly (.rcfg d a q) s (fun t => s.onlyX t d 1)) ∧
    (w ≠ 0 → ¬bad → ¬fits → Plainly (.rcfg d a q) s (fun t => s.onlyX t d 2)) ∧
    (w = 0 ∨ (¬bad ∧ fits) → Defers (.rcfg d a q) s s [.rcfg s.myCell q.toNat w none] (fun t => s.onlyX t d 0))) ∧
  (∀ (s : State) (d : Reg) (q : BitVec 4),
    let r := s.ringOf s.myCell q.toNat
    let line := [ringLine s.myCell q.toNat]
    let n := q.toNat
    (r.word = 0 → Traps (.radv q) s .ring (q.setWidth 64) ∧ Traps (.rpop q) s .ring (q.setWidth 64)) ∧
    (r.word ≠ 0 → Defers (.radv q) s s [.radv s.myCell n] (fun t => s.sameRegs t ∧ (s.roomy → t.ownRadvs n = s.openChunk.ownRadvs n + 1))) ∧
    (r.word ≠ 0 → s.hasEntry n = false → exec (.rpop q) s = .next (s.waitRing n)) ∧
    (r.word ≠ 0 → s.hasEntry n = true → s.sigRoom line line →
      Defers (.rpop q) s s [.rpop s.myCell n (s.openChunk.claimPos n) r.epoch]
        (fun t => s.sameRegs t ∧ (s.roomy → t.ownClaims n = s.openChunk.ownClaims n + 1))) ∧
    (s.replaying = false → s.sigRoom line [] → Plainly (.rstat d q) s (fun t => ∃ v, s.onlyX t d v ∧
      let k := s.openChunk
      let pub := r.t + k.ownRadvs n
      (r.word = 0 → v = 0) ∧
      (r.word ≠ 0 → bit v 63 = true ∧ fld v 62 56 = (pub - k.claimPos n) % 128 ∧ fld v 55 49 = (r.depth + r.h + 128 - pub) % 128 ∧
        fld v 48 42 = (k.claimPos n - r.h) % 128 ∧ fld v 41 21 = r.entryAt (k.claimPos n) % 2 ^ 21 ∧ fld v 20 0 = r.entryAt pub % 2 ^ 21)))) ∧
  (∀ (s : State) (q : Nat), (s.th.chunk.isOpen = true → s.waitRing q = s.cut .reissue) ∧
    (s.th.chunk.isOpen = false → (s.waitRing q).th.st = .parked ∧ (s.waitRing q).th.wait = .ring q ∧ (s.waitRing q).th.arch = s.th.arch)) ∧
  (∀ (s : State) (d a b : Reg),
    let k := s.openChunk
    let area := (s.cell s.myCell).area
    let line := [mapLine s.myCell]
    (∀ c, s.stashRange a b = .error c →
      Traps (.smap d a b) s c (s.x a) ∧ Traps (.sunmap d a b) s c (s.x a) ∧ Traps (.sflush d a b) s c (s.x a)) ∧
    (∀ base len, s.stashRange a b = .ok (base, len) →
      let clash := k.stashMap.any (fun e => decide (e.base < base + len) && decide (base < e.base + e.len))
      let found := k.stashMap.any (fun e => e.base == base && e.len == len)
      let odd := base % 4096 ≠ 0 ∨ len % 4096 ≠ 0 ∨ len = 0
      let room := if 3145728 - area < len then none else freeRun k.stashMap area len
      (s.sigRoom line line →
        (odd → Plainly (.smap d a b) s (fun t => s.onlyX t d 1)) ∧
        (¬odd → clash = true → Plainly (.smap d a b) s (fun t => s.onlyX t d 2)) ∧
        (¬odd → clash = false → room = none → Plainly (.smap d a b) s (fun t => s.onlyX t d 3)) ∧
        (∀ run, ¬odd → clash = false → room = some run → 8 ≤ k.stashMap.length → Plainly (.smap d a b) s (fun t => s.onlyX t d 4)) ∧
        (∀ run, ¬odd → clash = false → room = some run → k.stashMap.length < 8 → Plainly (.smap d a b) s (fun t => s.onlyX t d 0 ∧
          (s.roomy → t.stashMap = k.stashMap ++ [{ base := base, len := len, run := run, asid := s.asidOf s.th.core }]))) ∧
        (found = true → Plainly (.sunmap d a b) s (fun t => s.onlyX t d 0 ∧
          (s.roomy → t.stashMap = k.stashMap.filter (fun e => !(e.base == base && e.len == len)) ∧
            t.th.chunk.unmapped = k.th.chunk.unmapped ++ k.stashMap.filter (fun e => e.base == base && e.len == len)))) ∧
        (found = false → Plainly (.sunmap d a b) s (fun t => s.onlyX t d 5 ∧ (s.roomy → t.stashMap = k.stashMap)))) ∧
      (s.sigRoom line [] →
        (odd → Plainly (.sflush d a b) s (fun t => s.onlyX t d 1 ∧ (s.roomy → t.th.chunk.sflush = k.th.chunk.sflush))) ∧
        (¬odd → Plainly (.sflush d a b) s (fun t => s.onlyX t d 0 ∧ (s.roomy → t.th.chunk.sflush = k.th.chunk.sflush ++ [(base, len)]))))))

/-- Issue of copies (08: R143, R152, R154; 16: R299, R300). -/
def Obligations.CopyIssue : Prop :=
  (∀ (s : State) (c a b : Reg) (k : BitVec 2) (n : BitVec 4) (w : BitVec 2) (ins : Instr) (legal : Bool) (cmd : CopyCmd),
    let target := match k.toNat with
      | 0 => Target.none | 1 => .sem n.toNat | 2 => .barrier n.toNat (Map.get 0 s.th.arch.arrivals n.toNat) | _ => .counter (s.x c)
    (ins, legal, cmd) ∈
      [(.cpy c a b k n w, cpyOk c k n w, { gather := false, src := s.x a, dst := s.x b, list := 0, target := target, rw := w.toNat, who := s.issuer, faulted := none, recs := [], ended := none }),
       (.cpyg c a b k n, cpygOk k n, { gather := true, src := s.x a, dst := s.x b, list := s.x c, target := target, rw := 0, who := s.issuer, faulted := none, recs := [], ended := none })] →
    (legal = false ∨ (k = 2 ∧ s.memberOf n.toNat = none) → TrapsIllegal ins s) ∧
    (legal = true → ¬(k = 2 ∧ s.memberOf n.toNat = none) → Defers ins s s [.copy s.myCell cmd] (fun t => s.sameRegs t ∧
      ∀ j, s.roomy → Map.get 0 t.th.arch.arrivals j = Map.get 0 s.th.arch.arrivals j + (if k = 2 ∧ j = n.toNat then 1 else 0)))) ∧
  (∀ (s : State) (d a : Reg), s.replaying = false →
    let r := s.th.copyRec
    Plainly (.cpyst d a) s (fun t => ∃ v, s.onlyX t d v ∧
      ((s.x a = 0 ∨ s.x a = 3) → bit v 63 = r.flt ∧ bit v 62 = r.mult ∧ fld v 52 48 = r.out % 32 ∧ bit v 16 = r.side ∧ bit v 8 = r.op ∧ fld v 7 0 = r.code % 256) ∧
      (s.x a = 1 → v = BitVec.ofNat 64 (if r.flt then r.offset else r.lastN)) ∧ (s.x a = 2 → v = r.addr) ∧
      (3 < (s.x a).toNat → v = -1) ∧ (s.roomy → t.th.copyRec = r ∧ (s.x a = 3 → t.th.arch.cpyClear = true))))

/-- The cut before an instruction of the boundary classes (02: R37, R41; 03: R46; 11: R205). -/
def Obligations.BoundaryInstructionsCutFirst : Prop :=
  (∀ (s : State) (i : Instr), i.atBoundary s = true → s.th.chunk.isOpen = true → exec i s = .next (s.cut .reissue)) ∧
  (∀ (s : State) (a : After), s.th.chunk.isOpen = true →
    let k := s.updTh (fun t => { t with met := a })
    let spent := ∃ ws, s.replayed = some ws ∧ (rankCommit s.th.rank 0 ws = none ∨
      ∃ m, rankCommit s.th.rank 0 ws = some m ∧ m ≤ s.th.chunk.icount ∧ nthValue s.th.rank s.th.chunk.taken 0 ws ≠ none)
    let now := s.th.chunk.wbuf = [] ∧ s.th.chunk.defq = [] ∧ s.th.chunk.wsig = 0 ∧ s.turnOf s.th = true
    (spent → s.cut a = k.disagree) ∧
    (¬spent → now → s.cut a = k.commitChunk.atBoundary a) ∧
    (¬spent → ¬now →
      (s.cut a).th.st = .requesting ∧ (s.cut a).th.after = a ∧ (s.cut a).th.arch = s.th.arch ∧ (s.cut a).th.chunk = s.th.chunk ∧
      ∀ k, (s.cut a).byteAt k = s.byteAt k))

/-- Waits at a boundary (03: R60; 09: R168 to R175; 11: R209). -/
def Obligations.WaitingInstructions : Prop :=
  ∀ (s : State), s.th.chunk.isOpen = false →
    AtBoundary .cut s (fun t => s.sameRegs t) ∧
    (∀ k : BitVec 5, (2 < k.toNat → TrapsIllegal (.fence k) s) ∧
      (k.toNat ≤ 2 → s.fenceHolds s.th.tid k.toNat = true → AtBoundary (.fence k) s (fun t => s.sameRegs t)) ∧
      (s.inTurn = true → k.toNat ≤ 2 → s.fenceHolds s.th.tid k.toNat = false →
        Completes (.fence k) s (fun t => t.th.st = .dataWait ∧ t.th.pend = .fence k.toNat ∧ t.th.arch = s.th.arch))) ∧
    (∀ (d a b : Reg) (c : BitVec 2) (k1 k2 : State) (p : Place) (bs : List Byte) (e : Bool),
      s.resolveMem (s.x a) 8 8 .load = (k2, .ok p) → s.loadAs (s.x a) 8 8 true = .ok k1 bs e →
      let v := BitVec.ofNat 64 (leNat bs)
      let holds := match c.toNat with | 0 => v = s.x b | 1 => v ≠ s.x b | 2 => (s.x b).toNat ≤ v.toNat | _ => v &&& s.x b ≠ 0
      (holds → AtBoundary (.waitw d a b c) s (fun t => s.onlyX t d v)) ∧
      (¬holds → Parks (.waitw d a b c) s (fun w => ∃ l, w = .word l c (s.x b))) ∧
      ((s.x b).toNat ≤ v.toNat → AtBoundary (.tsemwait a b) s (fun t => s.sameRegs t)) ∧
      (v.toNat < (s.x b).toNat → Parks (.tsemwait a b) s (fun w => ∃ l, w = .timeline l (s.x b)))) ∧
    (∀ a : Reg, ((s.x a).toNat ≤ s.time.now.toNat → AtBoundary (.waitt a) s (fun t => s.sameRegs t)) ∧
      (s.time.now.toNat < (s.x a).toNat → Parks (.waitt a) s (fun w => w = .time (s.x a)))) ∧
    (∀ (d a : Reg) (n : BitVec 3), (s.memberOf n.toNat = none → TrapsIllegal (.barwait d a n) s) ∧
      (∀ g, s.memberOf n.toNat = some g →
        let p := (s.x a).toNat
        let b := g.barrier n.toNat
        let mine := Map.get 0 s.th.arch.arrivals n.toNat
        (s.inTurn = true → mine ≤ p → Traps (.barwait d a n) s .token (s.x a)) ∧
        (p < mine → b.done ≤ p → Parks (.barwait d a n) s (fun w => w = .barrier n.toNat p)) ∧
        (p < mine → p < b.done → AtBoundary (.barwait d a n) s (fun t =>
          s.onlyX t d (BitVec.ofNat 64 (b.done - p - 1 + if p ∈ b.poison then 2 ^ 63 else 0)))))) ∧
    (∀ (a : Reg) (n : BitVec 4),
      let need := (s.x a).toNat
      let count := Map.get 0 (s.cell s.myCell).sems n.toNat
      let others := (((s.cell s.myCell).semq.filter (s.semWaits n.toNat)).head?.map (fun q => decide (q.2 ≠ s.th.tid))).getD false
      (65535 < need → TrapsIllegal (.semwait a n) s) ∧ (need = 0 → AtBoundary (.semwait a n) s (fun t => s.sameRegs t)) ∧
      (0 < need → need ≤ 65535 → others = false → need ≤ count →
        AtBoundary (.semwait a n) s (fun t => s.sameRegs t ∧ (s.Quiet → Map.get 0 (t.cell s.myCell).sems n.toNat = count - need))) ∧
      (0 < need → need ≤ 65535 → others = true ∨ count < need → Parks (.semwait a n) s (fun w => w = .sem n.toNat need))) ∧
    (∀ d : Reg,
      let ps := match s.myGang with | some g => g.launch.deps | none => []
      let done := ∀ p ∈ ps, p.triggered = true ∨ p.code ≠ none
      (done → AtBoundary (.waitdep d) s (fun t =>
        s.onlyX t d (if ∃ p ∈ ps, p.triggered = false ∧ (p.code = some 1 ∨ p.code = some 2) then 1 else 0))) ∧
      (¬done → Parks (.waitdep d) s (fun w => w = .producers)))

/-- Signals, tasks, safe points and steps (09: R164 to R177; 13: R235). That TASKGET, SAFEPT and BARRIVE raise ILLEGAL outside a gang is the model's choice (assumption 49). -/
def Obligations.SignalsTasksAndSteps : Prop :=
  (∀ (s s1 : State) (a b : Reg) (p : Place), s.placeMem (s.x a) 8 8 = (s1, .ok p) →
    (s.x b = 0 → exec (.tsemsig a b) s = .next (s1.raise .timeline (s.x a))) ∧
    (s.x b ≠ 0 → (∀ key leaf via look, p = .inner key leaf via look →
        Defers (.tsemsig a b) s s1 [.tsemSig { home := none, pa := key } (s.x b) .a (s.x a)] (fun t => s.sameRegs t)) ∧
      (∀ home pa cls, p = .far home pa cls →
        Defers (.tsemsig a b) s s1 [.tsemSig { home := some home, pa := pa } (s.x b) cls (s.x a)] (fun t => s.sameRegs t)))) ∧
  (∀ (s s1 : State) (a b : Reg) (h : Halt), s.placeMem (s.x a) 8 8 = (s1, .error h) → exec (.tsemsig a b) s = .next (s1.haltWith h)) ∧
  (∀ (s : State) (d : Reg) (n : BitVec 3), (s.memberOf n.toNat = none → TrapsIllegal (.barrive d n) s) ∧
    ((s.memberOf n.toNat).isSome → Plainly (.barrive d n) s (fun t =>
      let c := Map.get 0 s.openChunk.th.arch.arrivals n.toNat
      s.onlyX t d (BitVec.ofNat 64 c) ∧ (s.roomy → Map.get 0 t.th.arch.arrivals n.toNat = c + 1 ∧
        t.th.chunk.arrived = s.openChunk.th.chunk.arrived ++ [(n.toNat, c)])))) ∧
  (∀ (s : State) (a : Reg) (n : BitVec 4), (65535 < (s.x a).toNat → TrapsIllegal (.semsig a n) s) ∧
    ((s.x a).toNat ≤ 65535 → Defers (.semsig a n) s s [.semSig s.myCell n.toNat (s.x a).toNat] (fun t => s.sameRegs t))) ∧
  (∀ s : State, Defers .trigger s s [.trigger (s.th.gang.getD 0) ((s.myGang.map (·.launch.inst)).getD 0)] (fun t => s.sameRegs t)) ∧
  (∀ s : State, (s.myGang = none ∨ s.th.packet.isSome → TrapsIllegal .taskget s) ∧ (s.th.packet = none → TrapsIllegal .taskend s)) ∧
  (∀ (s s1 : State) (g : Gang) (ws : List W64), s.th.chunk.isOpen = false → s.myGang = some g → s.th.packet = none → g.exact = false →
    g.launch.guarded = false →
    (g.nextItem < g.items → (s.asking s.th.tid).packetOf g g.nextItem = (s1, some ws) →
      AtBoundary .taskget s (fun t => (s.Quiet → t.th.packet = some ws ∧ t.th.wid = ws.getD 0 0 ∧
        (t.findGang g.ident).map (·.nextItem) = some (g.nextItem + 1) ∧
        (∀ r : Reg, t.x r = if r = 10 then ws.getD 4 0 else if r = 11 then ws.getD 5 0 else if r = 12 then ws.getD 6 0
          else if r = 13 then ws.getD 7 0 else if r = 14 then ws.getD 2 0 else if r = 15 then ws.getD 3 0 else s.x r) ∧
        (∀ n, n < 4 → Map.get 0 t.th.arch.fmtctx n = BitVec.ofNat 64 (fld (ws.getD 1 0) (16 * n + 11) (16 * n)))))) ∧
    (s.inTurn = true → g.items ≤ g.nextItem → Completes .taskget s (fun t => t.th.st = .exiting ∨ t.th.st = .exited))) ∧
  (∀ (s : State) (ws : List W64), s.th.chunk.isOpen = false → s.th.packet = some ws → s.inItem = false →
    AtBoundary .taskend s (fun t => (s.Quiet → t.th.packet = none ∧ ∀ g, s.myGang = some g →
        (t.findGang g.ident).map (·.retired) = some (g.retired + 1) ∧
        ∀ n, n < 4 → Map.get 0 t.th.arch.fmtctx n = BitVec.ofNat 64 (fld g.kernel.fmtdef (16 * n + 11) (16 * n))) ∧ (∀ r : Reg, t.x r = s.x r) ∧ (∀ r : Reg, t.v r = s.v r))) ∧
  (∀ (s : State) (d : Reg) (i : BitVec 8),
    (s.myGang = none → TrapsIllegal (.safept d i) s) ∧
    (∀ g, s.myGang = some g →
      let known := g.kernel.safepts.any (fun p => p.ident == i.toNat)
      (known = false → TrapsIllegal (.safept d i) s) ∧
      (known = true → s.th.inh = true ∨ s.th.safeResult = none → s.safeApplies g = false → Plainly (.safept d i) s (fun t => s.onlyX t d 0)) ∧
      (known = true → s.th.safeResult = none → s.safeApplies g = true → s.th.chunk.isOpen = false → Parks (.safept d i) s (fun w => w = .safept i.toNat)) ∧
      (∀ v, known = true → s.th.inh = false → s.th.safeResult = some v → s.th.chunk.isOpen = false → AtBoundary (.safept d i) s (fun t => s.onlyX t d v ∧ (s.Quiet → t.th.safeResult = none))))) ∧
  (∀ (s : State) (a : Reg),
    ((s.x a).toNat ≤ s.th.arch.step.toNat → TrapsIllegal (.ckptstep a) s) ∧
    (s.th.arch.step.toNat < (s.x a).toNat → Plainly (.ckptstep a) s (fun t => (∀ r : Reg, t.x r = s.x r) ∧ t.th.arch.step = s.x a)) ∧
    Plainly .yieldI s (fun t => s.sameRegs t ∧ t.th.yielded = true))

/-- Atomics at their home (16: R284, R285, R287; 03: R51; 11: R200). The address is that of the meaning, resolved as a read-modify-write. -/
def Obligations.AtomicsOnInnerLines : Prop :=
  ∀ (s : State) (d a b c : Reg) (w : BitVec 1), s.th.chunk.isOpen = false →
    let n := if w = 1 then 4 else 8
    let m := 2 ^ (8 * n)
    let y := (s.x b).toNat % m
    let z := (s.x c).toNat % m
    let sg := fun (v : Nat) => if m / 2 ≤ v then (v : Int) - m else (v : Int)
    let fp := if w = 1 then fF32 else fF64
    let all : List Instr := [.amoadd d a b w, .amoand d a b w, .amoor d a b w, .amoxor d a b w, .amomin d a b w, .amomax d a b w,
      .amominu d a b w, .amomaxu d a b w, .amoswap d a b w, .amofaddO d a b w, .amofaddU d a b w, .amocas d a b c w]
    (∀ s1 h, s.atomicPlace (s.x a) n n .rmw true true = (s1, .error h) → s.inTurn = true → ∀ i ∈ all, exec i s = .next (s1.haltWith h)) ∧
    (∀ s1 key leaf via look, s.atomicPlace (s.x a) n n .rmw true true = (s1, .ok (.inner key leaf via look)) → s1.innerBar (s.x a) key n [leaf] = none →
      let old := leNat (s1.bytesAt key n)
      let done := fun (i : Instr) (ret : W64) (new : Nat) => AtBoundary i s (fun t => s.onlyX t d ret ∧
        (s.Quiet → s.untraced →
          ∀ k, t.byteAt k = if key ≤ k ∧ k < key + n then BitVec.ofNat 8 (new / 256 ^ (k - key)) else s1.byteAt k))
      let sx := BitVec.ofInt 64 (sg old)
      done (.amoadd d a b w) sx ((old + y) % m) ∧ done (.amoand d a b w) sx (old &&& y) ∧ done (.amoor d a b w) sx (old ||| y) ∧
      done (.amoxor d a b w) sx (old ^^^ y) ∧ done (.amomin d a b w) sx (if sg y < sg old then y else old) ∧
      done (.amomax d a b w) sx (if sg old < sg y then y else old) ∧ done (.amominu d a b w) sx (min old y) ∧
      done (.amomaxu d a b w) sx (max old y) ∧ done (.amoswap d a b w) sx y ∧
      done (.amofaddU d a b w) (BitVec.ofNat 64 old) (fp.addOp .rne false old y).1 ∧
      done (.amocas d a b c w) sx (if old = z then y else old)) ∧
    (∀ s1 key leaf via look, s.atomicPlace (s.x a) n n .rmw true true = (s1, .ok (.inner key leaf via look)) → s.th.replyPoison = false →
      s1.innerBar (s.x a) key n [leaf] = none →
      let r := s1.releasedBy (.amo { home := none, pa := key } n (BitVec.ofNat 64 y) .a (s.x a)) .waiting
      let line := s1.here { home := none, pa := key / 64 * 64 }
      let free := s1.keyReg line = none ∧ s1.keyRegsAt line < Config.keyLimit
      let noFence := ∀ u ∈ s1.allThreads, ∀ k, u.pend ≠ .fence k
      (free → noFence → r.rank = 0 →
        AtBoundary (.amofaddO d a b w) s (fun t => s.onlyX t d (BitVec.ofNat 64 (leNat (s1.bytesAt key n))) ∧
          (s.Quiet → s.untraced → ∀ k, t.byteAt k =
            if key ≤ k ∧ k < key + n then BitVec.ofNat 8 ((fp.addOp .rne false (leNat (s1.bytesAt key n)) y).1 / 256 ^ (k - key)) else s1.byteAt k))) ∧
      (s.inTurn = true → free → noFence → 0 < r.rank → r.rank < 64 → r.rank < r.gangSize → r.gangSize ≤ 2 ^ 18 →
        Completes (.amofaddO d a b w) s (fun t => t.th.st = .dataWait ∧ t.th.arch = s.th.arch ∧
          t.keyReg line = some { loc := line, word := keyWord false 0 (r.gangSize - 1) 0, buffered := [(r.rank, r)] })) ∧
      (s.inTurn = true → s1.keyReg line = none → Config.keyLimit ≤ s1.keyRegsAt line →
        Completes (.amofaddO d a b w) s (fun t => t.th.st = .dataWait ∧ t.th.arch = s.th.arch ∧
          t.released = s1.released ++ [{ r with stage := .refused }])))

/-- Far atomics (03: R58; 16: R284, R287), AMOKEY (11: R199, R201) and comets (16: R297). -/
def Obligations.FarAtomicsKeysAndComets : Prop :=
  (∀ (s s1 : State) (d a b c : Reg) (w : BitVec 1) (home : BitVec 16) (pa : Nat) (cls : FabClass), s.th.chunk.isOpen = false →
    let n := if w = 1 then 4 else 8
    let l : Loc := { home := some home, pa := pa }
    let y := (s.x b).toNat % 2 ^ (8 * n)
    s.inTurn = true → s.atomicPlace (s.x a) n n .rmw true true = (s1, .ok (.far home pa cls)) →
    ∀ i ∈ [Instr.amoadd d a b w, .amoand d a b w, .amoor d a b w, .amoxor d a b w, .amomin d a b w, .amomax d a b w,
      .amominu d a b w, .amomaxu d a b w, .amoswap d a b w, .amofaddO d a b w, .amofaddU d a b w, .amocas d a b c w],
    (s.th.replyBad = true → exec i s = .next (s1.raise .farerr (s.x a))) ∧
    (s.th.replyBad = false → s.th.replyPoison = true → exec i s = .next (s1.raise .poison (s.x a))) ∧
    (s.th.replyBad = false → s.th.replyPoison = false →
      Completes i s (fun t => t.th.st = .dataWait ∧ t.th.arch = s.th.arch ∧ ∃ op cmp, t.th.pend = .rmw l op n (BitVec.ofNat 64 y) cmp cls d ∧
        (i = .amocas d a b c w → op = none ∧ cmp = BitVec.ofNat 64 ((s.x c).toNat % 2 ^ (8 * n)))))) ∧
  (∀ (s s1 : State) (d a b : Reg) (home : BitVec 16) (pa : Nat) (cls : FabClass), s.th.chunk.isOpen = false → s.inTurn = true →
    s.atomicPlace (s.x a) 1 1 .rmw true false = (s1, .ok (.far home pa cls)) → s.th.replyBad = false → s.th.replyPoison = false →
    Completes (.amokey d a b) s (fun t => t.th.st = .dataWait ∧ t.th.arch = s.th.arch ∧
      t.th.pend = .key { home := some home, pa := pa } (s.x b) cls d)) ∧
  (∀ (s s1 : State) (d a b : Reg) (key leaf : Nat) (via : Via) (look : Bool), s.th.chunk.isOpen = false →
    s.atomicPlace (s.x a) 1 1 .rmw true false = (s1, .ok (.inner key leaf via look)) →
    lineOf key ∈ s1.th.got → s1.commitBarred [lineOf key] [] = false →
    let w := s.x b
    let l : Loc := { home := none, pa := key / 64 * 64 }
    let old := match s1.keyReg l with | some k => k.word | none => 0
    let full := s1.keyReg l = none ∧ Config.keyLimit ≤ s1.keyRegsAt l
    let bad := fld w 60 54 ≠ 0 ∨ fld w 35 18 < fld w 53 36 ∨ fld w 17 0 < fld w 53 36 ∨ fld w 35 18 < fld w 17 0
    (bit w 63 = true → bad ∨ full → AtBoundary (.amokey d a b) s (fun t => s.onlyX t d (-1) ∧ (s.Quiet → t.keyRegs = s1.keyRegs))) ∧
    (bit w 63 = true → ¬bad → ¬full →
      AtBoundary (.amokey d a b) s (fun t => s.onlyX t d old ∧
        (s.Quiet → t.keyReg l = some { loc := l, word := keyWord true (fld w 53 36) (fld w 35 18) (fld w 17 0), buffered := match s1.keyReg l with | some k => k.buffered | none => [] }))) ∧
    (bit w 63 = false → (∀ k, s1.keyReg l = some k → k.buffered = []) → (∀ u ∈ s1.allThreads, ∀ f, u.pend ≠ .fence f) →
      AtBoundary (.amokey d a b) s (fun t => s.onlyX t d old ∧ (s.Quiet → t.keyReg l = none)))) ∧
  (∀ (s s1 : State) (a b : Reg) (w : BitVec 1) (i : Instr) (op : RmwOp),
    (i, op) ∈ [(.cmadd a b w, .add), (.cmfaddO a b w, .faddO), (.cmfaddU a b w, .faddU), (.cmmin a b w, .min), (.cmmax a b w, .max), (.cmor a b w, .or)] →
    let n := if w = 1 then 4 else 8
    let src := BitVec.ofNat 64 ((s.x b).toNat % 2 ^ (8 * n))
    (∀ h, s.atomicPlace (s.x a) n n .store false true = (s1, .error h) → exec i s = .next (s1.haltWith h)) ∧
    (∀ key leaf via look, s.atomicPlace (s.x a) n n .store false true = (s1, .ok (.inner key leaf via look)) →
      Defers i s s1 [.comet { home := none, pa := key } op n src .a (s.x a)] (fun t => s.sameRegs t)) ∧
    (∀ home pa cls, s.atomicPlace (s.x a) n n .store false true = (s1, .ok (.far home pa cls)) →
      Defers i s s1 [.comet { home := some home, pa := pa } op n src cls (s.x a)] (fun t => s.sameRegs t)))

/-- Caravans at their owner (10: R179 to R189, R191; 16: R304 to R309). No commit trace runs where bytes of memory are named. The model's choices are log entries 20 (which record CVOPEN takes) and 7 (a publish that has to wait leaves the state as it is). -/
def Obligations.CaravanInstructions : Prop :=
  (∀ (s : State) (d a b : Reg),
    let h := s.th.cvh
    let opened := s.cvLive = true ∧ (s.caravan s.cvId).st = .opened
    (opened → Traps (.cvopen d a b) s .caravan h) ∧
    (¬opened → s.th.chunk.isOpen = false →
      let k := s.freeDone s.th.tid
      let budget := if (s.x a).toNat = 0 then 1048576 else ((s.x a).toNat + 63) / 64 * 64
      let lead := if fld (s.x b) 47 32 = 0 then 20 else fld (s.x b) 47 32
      let tmo := if fld (s.x b) 31 0 = 0 then 2000000 else fld (s.x b) 31 0
      let ok := budget ≤ 67108864 ∧ fld (s.x b) 63 48 = 0 ∧ 1000 ≤ tmo ∧ tmo ≤ 60000000
      (¬ok → AtBoundary (.cvopen d a b) s (fun t => s.onlyX t d 2 ∧ t.th.cvh = h)) ∧
      (ok → k.freeRecord = none → AtBoundary (.cvopen d a b) s (fun t => s.onlyX t d 1 ∧ t.th.cvh = h)) ∧
      (∀ id, ok → k.freeRecord = some id →
        let hd := BitVec.ofNat 64 (2 ^ 63 + ((k.caravan id).gen + 1).toNat * 2 ^ 32 + s.moduleId.toNat * 2 ^ 16 + id)
        let due := BitVec.ofNat 64 (min (2 ^ 64 - 1) (s.time.now.toNat + tmo * 16000))
        let gen := (k.caravan id).gen + 1
        AtBoundary (.cvopen d a b) s (fun t => s.onlyX t d hd ∧ t.th.cvh = hd ∧ ((k.caravan id).st = .free ∨ (k.caravan id).st = .done) ∧
          t.caravan id = { Caravan.reset with st := .opened, gen := gen, owner := s.th.tid, lead := lead, budget := budget, d := due })))) ∧
  (∀ (s s1 : State) (i : Instr) (ea : W64) (n : Nat) (cells : List MCell),
    (∃ (b a : Reg) (o : BitVec 15), i = .cvst b a o ∧ ea = s.x a + o.signExtend 64 ∧ n = 8 ∧ cells = mcellsAt 0 (leBytes 8 (s.x b).toNat)) ∨
    (∃ (v a : Reg) (m : MaskReg) (o : BitVec 12), i = .cvstv v a m o ∧ ea = s.ea12 a o ∧ n = 64 ∧
      cells = (mcellsAt 0 (vbytes (s.v v))).filter (fun c => bit (s.m m) c.1)) →
    (∀ h, s.resolveMem ea n n .store = (s1, .error h) → exec i s = .next (s.endWith s1 (.halt h))) ∧
    (∀ key leaf st look, s.resolveMem ea n n .store = (s1, .ok (.inner key leaf st look)) →
      isHostKey key = true ∨ s1.cvMine = false ∨ (s1.caravan s1.cvId).st ≠ .opened → exec i s = .next (s1.raise .caravan ea)) ∧
    (∀ port pa, s.resolveMem ea n n .store = (s1, .ok (.hostPcie port pa)) → exec i s = .next (s1.raise .caravan ea)) ∧
    (∀ (p : Place) (l : Loc), s.resolveMem ea n n .store = (s1, .ok p) →
      (∃ key leaf st look, p = .inner key leaf st look ∧ isHostKey key = false ∧ l = { home := none, pa := key }) ∨
        (∃ home pa cls, p = .far home pa cls ∧ l = { home := some home, pa := pa }) →
      s1.cvMine = true → (s1.caravan s1.cvId).st = .opened →
      let c := s1.caravan s1.cvId
      let dests := dedup (c.dests.map (·.1) ++ s1.th.arch.cvDests)
      let beyond := c.ovf = true ∨ s1.th.arch.cvOvf = true ∨ c.budget < c.charge + s1.th.arch.cvCharge + 64 ∨
        (s1.homeOf l ∉ dests ∧ 256 ≤ dests.length)
      (cells = [] → Completes i s (fun t => s.sameRegs t)) ∧
      (cells ≠ [] → beyond → Completes i s (fun t => s.sameRegs t ∧ (s1.roomy → t.th.arch.cvOvf = true ∧ t.th.chunk.defq = s1.openChunk.th.chunk.defq))) ∧
      (cells ≠ [] → ¬beyond → Defers i s s1 [.stage (s1.cidOf s1.cvId) c.gen 0 l (cells.map (fun x => (l.pa + x.1, x.2))) c.d]
        (fun t => s.sameRegs t ∧ (s.roomy → t.th.arch.cvCharge = s1.th.arch.cvCharge + 64 ∧ s1.homeOf l ∈ t.th.arch.cvDests)))) ) ∧
  (∀ (s : State) (d : Reg), (s.cvMine = false → Traps (.cvcommit d) s .caravan s.th.cvh) ∧
    (s.cvMine = true → s.th.chunk.isOpen = false → s.replaying = false →
      let c := s.caravan s.cvId
      let cid := s.cidOf s.cvId
      let ends := fun (code : Nat) => AtBoundary (.cvcommit d) s (fun t => s.onlyX t d (BitVec.ofNat 64 code) ∧ (s.Quiet →
        (t.caravan s.cvId).st = .done ∧ (t.caravan s.cvId).outcome = code))
      (c.st = .done → AtBoundary (.cvcommit d) s (fun t => s.onlyX t d (BitVec.ofNat 64 c.outcome))) ∧
      (c.st = .opened → c.d.toNat ≤ s.time.now.toNat → ends 4) ∧
      (s.time.now.toNat < c.d.toNat →
      (c.st = .opened → c.ovf = true → ends 2) ∧
      (c.st = .opened → c.ovf = false → s.unplaced s.cvId = true → Parks (.cvcommit d) s (fun w => w = .caravan)) ∧
      (c.st = .opened → c.ovf = false → s.unplaced s.cvId = false → c.seq = 0 → ends 0) ∧
      (c.st = .opened → c.ovf = false → s.unplaced s.cvId = false → c.seq ≠ 0 → (∀ p ∈ c.dests, p.1 = s.moduleId) →
        ∀ e, s.cvDest cid = some e →
        let held := e.inn ≠ [] ∧ (s.cvHeld e = true ∨ s.tokenBars c.owner = true ∨ s.cvFirst e.lines s.time.now.toNat (fun k => k.current cid) = true)
        (e.refused = true → ends 2) ∧ (e.refused = false → e.bad = true → ends 5) ∧
        (e.refused = false → e.bad = false → held → NotDue (.cvcommit d) s) ∧
        (e.refused = false → e.bad = false → ¬held → ends 0 ∧ Completes (.cvcommit d) s (fun t =>
          (s.Quiet → (∀ q, bit (s.core q).dbg.trctl 63 = false) → ∀ k, t.byteAt k = (s.putCells (e.inn.map (fun p => (p.1, BitVec.allOnes 8, p.2.2)))).byteAt k)))) ∧
      (c.st = .opened → c.ovf = false → s.unplaced s.cvId = false → c.seq ≠ 0 → c.undelivered = [] → c.answers = [] →
        (∃ p ∈ c.dests, p.1 ≠ s.moduleId) → Completes (.cvcommit d) s (fun t =>
          t.th.st = .parked ∧ t.th.wait = .caravan ∧ s.sameRegs t ∧ (t.caravan s.cvId).st = .preparing ∧
          ∀ p ∈ c.dests, p.1 ≠ s.moduleId → CvMsg.prepare cid p.1 (c.dests.map (·.1)) p.2 c.d ∈ t.fabric.sent))) ∧
      (c.st = .preparing ∨ c.st = .publishing → Parks (.cvcommit d) s (fun w => w = .caravan)))) ∧
  (∀ s : State, let mine := s.cvMine = true ∧ (s.caravan s.cvId).st = .opened
    (¬mine → Traps .cvabort s .caravan s.th.cvh) ∧
    (mine → s.th.chunk.isOpen = false → AtBoundary .cvabort s (fun t => s.sameRegs t ∧
      (t.caravan s.cvId).st = .done ∧ (t.caravan s.cvId).outcome = 1 ∧ (∀ e ∈ t.cvDests, e.current (s.cidOf s.cvId) = true → e.inn = [])))) ∧
  (∀ (s : State) (d a b : Reg), s.replaying = false →
    let h := if s.x a = 0 then s.th.cvh else s.x a
    let c := s.caravan (fld h 15 0)
    let own := s.cvLive = true ∧ fld h 15 0 = s.cvId
    let ans := fun (v : W64) => Plainly (.cvstat d a b) s (fun t => s.onlyX t d v)
    (4 < (s.x b).toNat → ans (-1)) ∧ ((s.x b).toNat ≤ 4 → s.liveCv h = false → ans 0) ∧
    (s.liveCv h = true → ((s.x b).toNat = 1 → ans c.t) ∧ ((s.x b).toNat = 2 → ans c.tlast) ∧ ((s.x b).toNat = 3 → ans c.d) ∧
      ((s.x b).toNat = 4 → ans (BitVec.ofNat 64 (if own then c.charge + s.th.arch.cvCharge else c.charge))) ∧
      ((s.x b).toNat = 0 → c.dests.length < 512 → ∃ w : W64, ans w ∧ fld w 63 60 = c.st.code ∧ fld w 44 36 = c.dests.length ∧
        (bit w 4 = c.skew) ∧ (¬own → bit w 3 = c.ovf) ∧ (c.st = .done → fld w 2 0 = c.outcome % 8) ∧ (c.st ≠ .done → fld w 2 0 = 0))))

/-- GCHK (10: R195; 17: R322), MOONHINT and MOONQRY (04: R80, R81; 17: R335, R336). The model's choices, and no rule of the spec: the counters of a far region are free values of 48 bits here (log entry 5), UNSUBSCRIBE answers NOTSUB when SUB is neither 1 nor 2 (48), selector 5 alone asks a far home (68), SUBSCRIBE of a pending or active region answers OK also with a full table (74), and a publish that has to wait leaves the state as it is (7). -/
def Obligations.GuardedItemsAndMoons : Prop :=
  (∀ (s : State) (d a : Reg),
    (s.inItem = false → Traps (.gchk d a) s .caravan s.th.cvh) ∧
    (s.inItem = true → s.th.chunk.isOpen = false →
      let wait := ∃ r ∈ s.released, r.tid = s.th.tid ∧ ∃ cs, r.item = .gstage cs
      let r := fld (s.x a) 31 0
      let g := fld s.gtol 31 0
      let pass := (fF32.unpack r).isFin = true ∧ (fF32.unpack g).isFin = true ∧ (g < 2 ^ 31 ∨ g = 2 ^ 31) ∧ r % 2 ^ 31 ≤ g % 2 ^ 31
      (wait → Parks (.gchk d a) s (fun w => w = .guard)) ∧
      let lines := linesOf (s.th.item.staged.map (·.1))
      let held := lines ≠ [] ∧ (s.barred s.th.tid lines = true ∨ s.cvFirst lines s.time.now.toNat (fun _ => false) = true)
      (¬wait → pass → held → s.inTurn = true → NotDue (.gchk d a) s) ∧
      (¬wait → pass → ¬held →
        AtBoundary (.gchk d a) s (fun t => s.onlyX t d 0 ∧ (s.Quiet → t.th.item.checked = true ∧ t.th.item.staged = [] ∧
          ((∀ q, bit (s.core q).dbg.trctl 63 = false) → ∀ k, t.byteAt k = (s.putCells s.th.item.staged).byteAt k)))) ∧
      (¬wait → ¬pass → AtBoundary (.gchk d a) s (fun t => s.onlyX t d 1 ∧ (s.Quiet → t.th.item.checked = true ∧ t.th.item.staged = [] ∧
        ((∀ q, bit (s.core q).dbg.trctl 63 = false) → ∀ k, t.byteAt k = s.byteAt k)))))) ∧
  (∀ (s s1 : State) (d a b : Reg) (h : Halt), s.pageOf (s.x a) = (s1, .error h) →
    exec (.moonhint d a b) s = .next (s.endWith s1 (.halt h)) ∧ exec (.moonqry d a b) s = .next (s.endWith s1 (.halt h))) ∧
  (∀ (s s1 : State) (d a b : Reg) (e : TlbEntry) (va : Nat), s.pageOf (s.x a) = (s1, .ok (e, va)) →
    let w := s.x b
    let far := leafLoc e.leaf = 3
    let own := leafLoc e.leaf = 0
    let r := (leafFrame e.leaf + va % pageSize e.size) / 2097152
    let g := Map.get Region.reset s1.regions r
    let sub := Map.get 0 s1.subs r
    let ok := fld w 63 8 = 0 ∧ (if fld w 7 6 = 0 then fld w 5 3 ≤ 4 ∧ fld w 2 0 ≤ fld w 5 3 else fld w 5 0 = 0)
    let status :=
      if ¬ok then 1 else if e.offHbm va then 3
      else if fld w 7 6 = 0 then (if ¬own then 3 else if g.fwmin ≤ fld w 2 0 ∧ fld w 2 0 ≤ g.fwmax ∧ g.fwmin ≤ fld w 5 3 ∧ fld w 5 3 ≤ g.fwmax then 0 else 2)
      else if fld w 7 6 = 1 then (if ¬far then 3 else if sub ≠ 1 ∧ sub ≠ 2 ∧ 1024 ≤ s1.subCount then 4 else 0)
      else if fld w 7 6 = 2 then (if ¬far then 3 else if sub = 1 ∨ sub = 2 then 0 else 5)
      else if ¬own then 3 else 0
    (g.fwmin ≤ g.fwmax → Plainly (.moonhint d a b) s (fun t => s.onlyX t d (BitVec.ofNat 64 status) ∧ (s.roomy →
      t.th.chunk.hints = s.openChunk.th.chunk.hints ++ if status = 0 ∨ status = 2 then [{ region := r, far := decide far, word := w }] else []))) ∧
    (s.replaying = false →
      let sel := w.toNat
      let ans := fun (v : W64) => Plainly (.moonqry d a b) s (fun t => s.onlyX t d v)
      ((e.offHbm va = true ∧ ¬(sel = 5 ∧ far)) ∨ 5 < sel → ans (-1)) ∧
      (e.offHbm va = false → own →
        (sel = 0 → ans (BitVec.ofNat 64 (g.fwmax * 2 ^ 12 + g.fwmin * 2 ^ 9 + g.dmax * 2 ^ 6 + g.dmin * 2 ^ 3 + g.deg))) ∧
        (sel = 1 → ans (BitVec.ofNat 64 g.hits)) ∧ (sel = 2 → ans (BitVec.ofNat 64 g.fills)) ∧
        (sel = 3 → ans (BitVec.ofNat 64 g.collapses)) ∧ (sel = 4 → ans (BitVec.ofNat 64 g.changes)) ∧
        (sel = 5 → e.size < 4 → ∃ p : W64, ans p ∧ fld p 47 32 = s1.moduleId.toNat ∧ fld p 59 58 = 0)) ∧
      (e.offHbm va = false → far →
        (sel = 0 → ans (BitVec.ofNat 64 (sub * 2 ^ 62))) ∧
        (sel ∈ [1, 2, 3, 4] → ans (BitVec.ofNat 64 (fld (Config.freeWord s1.free) 47 0)))) ∧
      (far → sel = 5 → s.th.replyBad = false →
        let l : Loc := { home := some (BitVec.ofNat 16 (e.phys va / 2 ^ 44)), pa := e.phys va % 2 ^ 44 }
        (∀ r, s1.th.replies.find? (fun r => r.1 == l) = some r → ans (setFld (BitVec.ofNat 64 (leNat r.2)) 59 58 3)) ∧
        (s1.th.replies = [] → Completes (.moonqry d a b) s (fun t => t.th.st = .dataWait ∧ t.th.pend = .pageWord l e.leaf e.size (s1.farClass (segO (segOf s.th.seg (s.x a))) (BitVec.ofNat 16 (e.phys va / 2 ^ 44))) d ∧ s.sameRegs t))) ∧
      (e.offHbm va = false → leafLoc e.leaf = 1 ∨ leafLoc e.leaf = 2 → sel ≤ 4 → ans 0)))

/-- The control and status registers (15: R272, R273; 16: R301, R302). The model's choices, and no rule of the spec: SRC and CODE of ASYNCERR stand when PEND is cleared (log entry 17), and a written REPCNT is sequenced from the next instruction on (log entry 19). -/
def Obligations.SpecialRegisters : Prop :=
  (∀ (s : State) (d : Reg), ∀ p ∈ [((0x000 : BitVec 12), s.th.arch.fcsr), (0x001, s.th.arch.srseed), (0x002, s.th.arch.mstat), (0x010, s.th.wid),
      (0x011, BitVec.ofNat 64 s.th.rank), (0x012, BitVec.ofNat 64 (s.th.gang.getD 0)), (0x020, s.th.trapvec), (0x021, s.th.trappc),
      (0x022, s.th.trapcause), (0x023, s.th.trapval), (0x024, s.th.asyncerr), (0x030, s.th.chunkcfg), (0x031, s.th.chunks), (0x032, s.th.squashes),
      (0x040, s.th.cvh), (0x041, s.gtol), (0x050, s.th.arch.step), (0x060, s.th.arch.repcnt), (0x070, Map.get 0 s.th.arch.fmtctx 0),
      (0x071, Map.get 0 s.th.arch.fmtctx 1), (0x072, Map.get 0 s.th.arch.fmtctx 2), (0x073, Map.get 0 s.th.arch.fmtctx 3), (0x080, 32),
      (0x800, (s.core s.th.core).segtab), (0x801, (s.core s.th.core).ptroot)],
    (p.1.toNat < 0x800 ∨ s.th.gang = none → Plainly (.csrrs d 0 0 1 p.1) s (fun t => s.onlyX t d p.2)) ∧
    (0x800 ≤ p.1.toNat → s.th.gang ≠ none → TrapsIllegal (.csrrs d 0 0 1 p.1) s)) ∧
  (∀ (s : State) (d a : Reg) (n : BitVec 1) (c : BitVec 12) (i : Instr) (new : W64 → W64) (applied : W64),
    (i, new, applied) ∈ [(.csrrw d a n c, fun _ => s.x a, s.x a), (.csrrs d a n 0 c, fun o => o ||| s.x a, s.x a), (.csrrc d a n c, fun o => o &&& ~~~(s.x a), 0),
      (.csrrwi d a n c, fun _ => a.setWidth 64, a.setWidth 64), (.csrrsi d a n c, fun o => o ||| a.setWidth 64, a.setWidth 64),
      (.csrrci d a n c, fun o => o &&& ~~~(a.setWidth 64), 0)] →
    let stored : List Nat := [0x000, 0x001, 0x002, 0x060, 0x070, 0x071, 0x072, 0x073]
    let cutting : List Nat := [0x020, 0x021, 0x024, 0x030, 0x040, 0x800, 0x801]
    let old := s.csrRead c.toNat
    let nv := new old
    (c.toNat ∉ stored ∧ c.toNat ∉ cutting ∨ n = 1 ∧ d ≠ 0 ∨ 0x800 ≤ c.toNat ∧ s.th.gang ≠ none → TrapsIllegal i s) ∧
    (c.toNat ∈ stored → n = 0 ∨ d = 0 → Plainly i s (fun t =>
      (∀ r : Reg, t.x r = if r = d ∧ r ≠ 0 then old else s.x r) ∧ (∀ r : Reg, t.v r = s.v r) ∧ (∀ r : MaskReg, t.m r = s.m r) ∧
      (c = 0x000 → t.th.arch.fcsr = nv &&& 0x171F) ∧ (c ≠ 0x000 → t.th.arch.fcsr = s.th.arch.fcsr) ∧
      (c = 0x001 → t.th.arch.srseed = nv ∧ t.th.arch.srcount = 0) ∧ (c = 0x002 → s.roomy ∨ s.openChunk.th.merges = [] → t.th.arch.mstat = nv &&& 7) ∧
      (c = 0x060 → s.th.inBody = false → t.th.arch.repcnt = nv &&& 0x80FFF000FFFFFFFF) ∧
      (∀ k < 4, Map.get 0 t.th.arch.fmtctx k = if c.toNat = 0x070 + k then nv &&& 0xFFF else Map.get 0 s.th.arch.fmtctx k))) ∧
    (c.toNat ∈ cutting → n = 0 ∨ d = 0 → c.toNat < 0x800 ∨ s.th.gang = none →
      (s.th.chunk.isOpen = true → exec i s = .next (s.cut .reissue)) ∧
      (s.th.chunk.isOpen = false →
        (c = 0x020 → AtBoundary i s (fun t => s.onlyX t d old ∧ t.th.trapvec = nv)) ∧
        (c = 0x021 → s.inTurn = true → Completes i s (fun t => s.onlyX t d old ∧ t.th.trappc = nv)) ∧
        (c = 0x024 → AtBoundary i s (fun t => s.onlyX t d old ∧ t.th.asyncerr = s.th.asyncerr &&& ~~~(applied &&& 0xC000000000000000))) ∧
        (c = 0x030 → AtBoundary i s (fun t => s.onlyX t d old ∧ t.th.limlog = max 8 (min 13 (fld nv 3 0)) ∧ t.th.curlog = t.th.limlog ∧ t.th.sqcnt = 0)) ∧
        (c = 0x040 → AtBoundary i s (fun t => s.onlyX t d old ∧ t.th.cvh = nv &&& 0x8000FFFFFFFFFFFF)) ∧
        (c = 0x800 → AtBoundary i s (fun t => s.onlyX t d old ∧ (t.core s.th.core).segtab = nv &&& 0xFFFF0FFFFFFFFFF0)) ∧
        (c = 0x801 → AtBoundary i s (fun t => s.onlyX t d old ∧ (t.core s.th.core).ptroot = (s.core s.th.core).ptroot))))) ∧
  (∀ (s : State) (d a : Reg) (n : BitVec 1) (c : BitVec 12), a ≠ 0 ∨ n ≠ 0 → TrapsIllegal (.csrrs d a n 1 c) s)

/-- System instructions (05: R86, R96, R97; R311, R323, R348, R357, R367 of the reference; 15: R269). The model's choices, and no rule of the spec: that HALT completes once a wake has come (log entry 44), and that a denied read of the segment table raises FARERR (log entry 75). -/
def Obligations.SystemInstructions : Prop :=
  (∀ s : State, Traps .ecall s .ecall 0 ∧ Traps .ebreak s .breakpoint s.th.arch.pc ∧
    (s.th.chunk.isOpen = false → s.Handles → s.gangEnded = false → s.th.deferredDue = false → s.th.stepping = false → s.th.merges = [] →
      Completes .ecall s (fun t => t.th.trappc = s.th.arch.pc ∧ t.th.trapcause = 0x8000000000000008 ∧ t.th.trapval = 0 ∧
        t.th.arch = { s.th.arch with pc := s.th.trapvec } ∧ t.th.st = .runnable) ∧
      Completes .ebreak s (fun t => t.th.trappc = s.th.arch.pc ∧ t.th.trapcause = 0x8000000000000007 ∧ t.th.trapval = s.th.arch.pc ∧
        t.th.arch = { s.th.arch with pc := s.th.trapvec } ∧ t.th.st = .runnable))) ∧
  (∀ s : State, (s.th.inh = false → TrapsIllegal .trapret s) ∧
    (s.th.inh = true → s.th.chunk.isOpen = false → s.inTurn = true → Completes .trapret s (fun t => s.sameRegs t ∧ t.th.arch.pc = s.th.trappc ∧ t.th.inh = false ∧
      t.th.trapcause = s.th.trapcause &&& 0x7FFFFFFFFFFFFFFF ∧ t.th.trapvec = s.th.trapvec ∧ t.th.trapval = s.th.trapval ∧ t.th.trappc = s.th.trappc ∧
      (s.Quiet → t.th.st = .runnable ∧ t.th.chunk = Chunk.reset)))) ∧
  (∀ (s : State) (n : BitVec 3) (a : Reg), s.th.chunk.isOpen = false →
    let i := s.x a
    let tab := (s.core s.th.core).segtab
    let pa := fld tab 43 4 * 16 + 16 * i.toNat
    let g := BitVec.ofNat 128 (leNat (s.bytesAt pa 16))
    let bad := g.toNat / 2 ^ 125 ≠ 0 ∨ g.toNat % 64 ≠ 0
    (fld tab 63 48 ≤ i.toNat → Traps (.segld n a) s .seglimit i) ∧
    let may := s.permits (s.coreInit s.th.core) pa false = true
    (i.toNat < fld tab 63 48 → ¬may → exec (.segld n a) s = .next ((s.logAddr pa).raise .farerr i)) ∧
    (i.toNat < fld tab 63 48 → may → bad → Traps (.segld n a) s .segrights i) ∧
    (i.toNat < fld tab 63 48 → may → ¬bad → lineOf pa ∈ s.poisoned → Traps (.segld n a) s .poison i) ∧
    (i.toNat < fld tab 63 48 → may → ¬bad → lineOf pa ∉ s.poisoned → AtBoundary (.segld n a) s (fun t => s.sameRegs t ∧
      ∀ k, Map.get 0 t.th.seg k = if k = n.toNat then g else Map.get 0 s.th.seg k))) ∧
  (∀ s : State, (s.th.gang ≠ none → TrapsIllegal .halt s) ∧
    (s.th.gang = none → s.th.chunk.isOpen = false → (s.th.woken = true → AtBoundary .halt s (fun t => s.sameRegs t)) ∧
      (s.th.woken = false → Parks .halt s (fun w => w = .message)))) ∧
  (∀ (s : State) (d : Reg), s.replaying = false →
    Plainly (.rdtime d) s (fun t => s.onlyX t d s.time.now) ∧
    Plainly (.rdcycle d) s (fun t => s.onlyX t d (BitVec.ofNat 64 (Map.get 0 s.islandTicks (islandOf s.th.core) / 16000))) ∧
    (∀ k : BitVec 5, let cell := s.th.core / 2
      (7 < k.toNat → TrapsIllegal (.rdid d k) s) ∧
      (k.toNat ≤ 7 → Plainly (.rdid d k) s (fun t => s.onlyX t d (BitVec.ofNat 64 (
        match k.toNat with
        | 0 => s.moduleId.toNat | 1 => dieOf cell | 2 => cellX cell | 3 => cellY cell | 4 => s.th.core % 2
        | 5 => s.th.slotNo | 6 => cellY cell % 8 | _ => 16 * s.th.core + s.th.slotNo))))))

/-- Events of contexts (02: R26, R28, R31, R33, R41 to R43; 05: R91, R92, R99; 09: R166, R175; 11: R209; 12: R222; 14: R257, R258). Committed bytes are named where no slot is traced. The model's choices, and no rule of the spec: an event that is not due changes nothing (log entry 7), which wakes a halted core queues (44), soft errors and scrubbing beyond R257 and R258 (57), what becomes of a chunk whose commit the firewall refuses (64), and a spill or fill that its home turns away (75). -/
def Obligations.CommitsRepliesFaultsAndWakes : Prop :=
  (∀ (s : State) (tid : Nat) (t : Thread), s.findTid tid = some t →
    let owned := t.st = .requesting → t.chunk.lines.all s.ownsLine = true
    (¬owned → Completes (.commitGrant tid) s (fun u => u.has tid (fun q => q = t) ∧ (∀ k, u.byteAt k = s.byteAt k) ∧ ∀ l ∈ t.chunk.lines, u.ownsLine l = true)) ∧
    (owned → s.grantable t = false → NotDue (.commitGrant tid) s) ∧
    (s.grantable t = true → Completes (.commitGrant tid) s (fun u => u.has tid (fun q => q.st = .committing ∧ q.arch = t.arch) ∧
      (∀ l ∈ t.chunk.lines, (l, tid) ∈ u.locks ∧ ∀ p ∈ u.moons, p.1 ≠ l) ∧ (∀ k, s.untraced → u.byteAt k = s.byteAt k) ∧
      ((s.allThreads.map (·.tid)).Nodup → ∀ q ∈ s.allThreads, q.tid ≠ tid → s.hits t.chunk.wsig t.sentLines q = true →
        u.has q.tid (fun r => r.arch = q.chunk.start ∧ r.chunk = Chunk.reset ∧ r.st = .runnable)))) ∧
    (t.st = .committing → s.logRoom t = true →
      exec (.commitComplete tid) s = .next (s.onThread tid (fun k => k.commitChunk.atBoundary t.after)) ∧
      Completes (.commitComplete tid) s (fun u => u.position = s.position + 1 ∧ (∀ p ∈ u.locks, p.2 ≠ tid) ∧
        u.has tid (fun q => q.chunk = Chunk.reset ∧ q.chunks = t.chunks + 1) ∧
        (s.untraced → ∀ k, u.byteAt k = (s.putCells (s.allowed (s.coreInit t.core) t.chunk.wbuf).2).byteAt k))) ∧
    (t.st = .committing → s.logRoom t = false → NotDue (.commitComplete tid) s)) ∧
  (∀ s : State, s.commitChunk.th.chunk = Chunk.reset ∧ s.commitChunk.th.chunks = s.th.chunks + 1 ∧
    s.commitChunk.position = s.position + 1 ∧ (∀ p ∈ s.commitChunk.locks, p.2 ≠ s.th.tid) ∧
    (s.untraced → ∀ k, s.commitChunk.byteAt k = (s.putCells (s.allowed (s.coreInit s.th.core) s.th.chunk.wbuf).2).byteAt k)) ∧
  (∀ (s : State) (core : Nat), ((s.core core).dlog.length < 256 → NotDue (.dirtyLogMerge core) s) ∧
    (256 ≤ (s.core core).dlog.length → Completes (.dirtyLogMerge core) s (fun u => (u.core core).dlog = [] ∧
      ∀ pa ∈ (s.core core).dlog, bit (Memory.read64 u.mem pa) 6 = true))) ∧
  (∀ (s : State) (tid : Nat) (t : Thread), s.findTid tid = some t → t.st = .dataWait →
    (∀ ls tags stash, t.pend = .lines ls tags stash → s.locked ls = false →
      let bad := ∃ l ∈ ls, isHostKey (64 * l) = false ∧ s.permits (s.coreInit t.core) (64 * l) false = false
      (¬bad → Completes (.dataReply tid) s (fun u => u.has tid (fun q => q.st = .runnable ∧ q.pend = .none ∧ q.arch = t.arch ∧ q.chunk = t.chunk) ∧
        ((∀ l ∈ ls, l ∉ s.poisoned) → u.has tid (fun q => ∀ l ∈ ls, l ∈ q.got)))) ∧
      (bad → Completes (.dataReply tid) s (fun u => u.has tid (fun q => q.st = .runnable ∧ q.replyBad = true)))) ∧
    (∀ ls, t.pend = .direct ls → s.locked ls = false → s.tokenBars tid = false →
      Completes (.dataReply tid) s (fun u => u.has tid (fun q => q.st = .runnable ∧ q.pend = .none ∧ q.arch = t.arch ∧ q.got = t.got ++ ls))) ∧
    (∀ l n cls, t.pend = .outer l n cls →
      (l.home = none → Completes (.dataReply tid) s (fun u => u.has tid (fun q => q.st = .runnable ∧ q.replies = t.replies ++ [(l, s.bytesAt l.pa n)]))) ∧
      (∀ bs, l.home ≠ none → s.farMoonBytes l n = some bs →
        Completes (.dataReply tid) s (fun u => u.has tid (fun q => q.st = .runnable ∧ q.replies = t.replies ++ [(l, bs)]))))) ∧
  (∀ (s k : State) (tid f : Nat) (t : Thread), s.findTid tid = some t → t.st = .spillWait →
    (s.asking tid).focus tid = some k →
    let goes := fun (acc : Access) (r : State × Bool) (moved : Arch → Prop) =>
      (r.1.fabric.held = true → Completes (.spillFillComplete tid) s (fun u => u.has tid (fun q => q = t) ∧ ∀ a, u.byteAt a = s.byteAt a)) ∧
      (r.1.fabric.held = false → Completes (.spillFillComplete tid) s (fun u => u.has tid (fun q => q.st = .runnable ∧ q.pend = .none ∧ q.arch = r.1.th.arch ∧
        (r.2 = true → moved q.arch) ∧ (r.2 = false → q.arch = t.arch ∧ q.replyBad = (t.replyBad || r.1.frameDenied f acc)))))
    (t.pend = .spill f → goes .store (k.spillFrame f) (fun a => f ∉ a.frames)) ∧
    (t.pend = .fill f → goes .load (k.fillFrame f) (fun a => f ∈ a.frames))) ∧
  (∀ (s : State) (core slot : Nat) (q : Thread), (s.core core).dbg.halt = false → slot < 16 → core < 4096 → firstQueued core s.allThreads = some q → s.findTid q.tid = some q →
    (s.slotTid core slot = none → Completes (.contextSwap core slot) s (fun u => u.has q.tid (fun r => r.slot = some slot ∧ r.arch = q.arch))) ∧
    (∀ t, s.slotTid core slot = some t → t.st = .parked ∨ t.st = .faultWait → t.swapBarred = false →
      let gone := (s.asking t.tid).onThread t.tid State.toQueue
      gone.fabric.held = false → (∀ r ∈ gone.allThreads, r.tid = t.tid → r.slot = none) →
      Completes (.contextSwap core slot) s (fun u => u.has q.tid (fun r => r.slot = some slot)))) ∧
  (∀ (s : State) (n : Nat) (f : FaultRec), s.service.faults[n]? = some f → Completes (.faultService n) s (fun u =>
    u.service.faults = dropAt s.service.faults n ∧
    (f.engine = none → ∀ t, s.findTid f.tid = some t → t.st = .faultWait → t.chunk.isOpen = false → u.has f.tid (fun q => q.faultDone = true ∧ q.faultBad = !(s.treat f).2)))) ∧
  (∀ (s : State) (tid : Nat) (t : Thread), s.findTid tid = some t → t.st = .faultWait → t.faultDone = true → (s.core t.core).dbg.halt = false →
    t.chunk.isOpen = false → t.merges = [] → t.pendErr = false → t.stepping = false → s.gangLives t →
    (t.faultBad = false → Completes (.faultWake tid) s (fun u => u.has tid (fun q => q.st = .runnable ∧ q.arch = t.arch))) ∧
    (t.faultBad = true → t.trapvec ≠ 0 → t.inh = false → Completes (.faultWake tid) s (fun u => u.has tid (fun q =>
      q.trapcause = 0x800000000000000E ∧ q.trapval = t.faultVa ∧ q.trappc = t.arch.pc ∧ q.arch = { t.arch with pc := t.trapvec })))) ∧
  (∀ (s : State) (tid : Nat) (t : Thread), s.findTid tid = some t → t.st = .parked →
    (∀ v, t.wait = .time v → (v.toNat ≤ s.time.now.toNat → Completes (.waittExpiry tid) s (fun u => u.has tid (fun q => q.st = .runnable ∧ q.woken = true ∧ q.arch = t.arch))) ∧
      (s.time.now.toNat < v.toNat → NotDue (.waittExpiry tid) s)) ∧
    (∀ l c v, t.wait = .word l c v → t.waitEntry = false → (s.core t.core).dbg.halt = false →
      (l.home = none → Config.mmioBase ≤ l.pa → isHostKey l.pa = true) →
      (waitHolds c v (s.readWord l) = true → Completes (.waitRecheck tid) s (fun u => u.has tid (fun q => q.st = .runnable ∧ q.woken = true ∧ q.arch = t.arch))) ∧
      (waitHolds c v (s.readWord l) = false → s.waitLost l = false → NotDue (.waitRecheck tid) s))) ∧
  (∀ (s : State) (tid : Nat) (t : Thread), s.findTid tid = some t → t.st = .exiting → t.chunk.isOpen = false →
    (s.fenceHolds tid 2 = false → NotDue (.threadExit tid) s) ∧
    (s.fenceHolds tid 2 = true → Completes (.threadExit tid) s (fun u => u.has tid (fun q => q.st = .exited) ∧
      ∀ g, t.gang.bind s.findGang = some g → g.launch.rrm ≠ 2 → ∃ h cs, u.findGang g.ident = some h ∧ (t.rank, cs) ∈ h.exited))) ∧
  (∀ (s : State) (tid n : Nat) (t : Thread) (src code : BitVec 8) (addr : W64), s.findTid tid = some t → t.st ≠ .exited →
    relOf tid src.toNat addr s.released 0 = some n → t.chunk.isOpen = false → t.merges = [] → t.pendErr = false → tid ≠ frontTid →
    (∀ u ∈ s.allThreads, ∀ k, u.pend ≠ .fence k) →
    ((∀ e l fmt rm sat els ea, (s.released[n]?).map (·.item) ≠ some (.adds e l fmt rm sat els ea)) →
      Completes (.asyncError tid src code addr) s (fun u => u.released = dropAt s.released n ∧
        u.has tid (fun q => q.asyncerr = BitVec.ofNat 64 (2 ^ 63 + src.toNat * 256 + code.toNat) ∧ q.asyncaddr = addr))) ∧
    (∀ e l fmt rm sat els ea, (s.released[n]?).map (·.item) = some (.adds e l fmt rm sat els ea) →
      Completes (.asyncError tid src code addr) s (fun u => u.has tid (fun q => q.asyncerr = t.asyncerr) ∧
        u.released = (dropAt s.released n).filter (fun q => !(q.item.sameCommand (.adds e l fmt rm sat els ea))) ∧
        (e.matrix = true → ∀ m ms d, (s.cell e.cell).matq = m :: ms → m.ended = some d →
          (u.cell e.cell).matq = { m with ended := some { d with fail := some (code.toNat, ea) } } :: ms) ∧
        (e.matrix = false → ∀ m ms d, (s.cell e.cell).copyq = m :: ms → m.ended = some d → d.fail = none →
          (u.cell e.cell).copyq = { m with ended := some { d with fail := some (true, copyStatus code.toNat, code.toNat, e.first, ea) } } :: ms)))) ∧
  (∀ (s : State) (tid core line : Nat) (l2 : Bool),
    Completes (.softError (.single core)) s (fun u => (u.core core).dbg.corr = satAdd (s.core core).dbg.corr 1) ∧
    (line ∉ (s.core core).dirty → Completes (.softError (.cleanLine core line)) s (fun u => ∀ h, h ∈ (u.core core).dcache ↔ h ∈ (s.core core).dcache ∧ h.line ≠ line)) ∧
    (line ∈ (s.core core).dirty → NotDue (.softError (.cleanLine core line)) s) ∧
    Completes (.softError (.fetchAhead core line)) s (fun u => (u.core core).dbg.latent = satAdd (s.core core).dbg.latent 1) ∧
    Completes (.softError (.line line)) s (fun u => line ∈ u.poisoned) ∧
    (line ∈ (s.core core).dirty → Completes (.softError (.dirtyLine core line)) s (fun u => line ∈ u.poisoned)) ∧
    (∀ t, s.findTid tid = some t → t.uncommitted = true → t.softSquashes < 15 → Completes (.softError (.chunk tid)) s (fun u =>
      u.has tid (fun q => q.arch = t.chunk.start ∧ q.chunk = Chunk.reset ∧ q.softSquashes = t.softSquashes + 1))) ∧
    exec (.patrolScrub line l2) s = .next s)

/-- Effects at their homes (03: R51, R52, R55, R56, R58; 07: R127, R128, R130, R135, R137, R138; 08: R142, R145 to R153; 09: R168, R171, R174; 11: R200, R201; R297, R338, R343 to R345 of the reference). The arithmetic of the engines stands in DotProductConversionAndEngineArithmetic. The model's choices, and no rule of the spec: a command executes in one step (log entry 6), its lines become visible as one engine commit or wait while one of them is barred (16), what it adds into one line is one contribution and it ends with the last (52), and an event that is not due changes nothing (7). -/
def Obligations.EffectsEnginesAndTargets : Prop :=
  (∀ (s : State) (n : Nat) (r : Released), s.released[n]? = some r → r.stage = .waiting → s.heldBack n = false →
    let done := fun (i : Instr) (post : State → Prop) => Completes i s (fun u => u.released = dropAt s.released n ∧ post u)
    (∀ cell k count, r.item = .semSig cell k count → done (.semsigPerform n) (fun u =>
      Map.get 0 (u.cell cell).sems k = min (Map.get 0 (s.cell cell).sems k + count) 65535)) ∧
    (∀ cell q, r.item = .radv cell q → let g := s.ringOf cell q
      (g.on = false → done (.radvPerform n) (fun u => u.ringOf cell q = g)) ∧
      (g.on = true → g.hasRoom = true → done (.radvPerform n) (fun u => u.ringOf cell q = { g with t := g.t + 1 })) ∧
      (g.on = true → g.hasRoom = false → NotDue (.radvPerform n) s)) ∧
    (∀ cell q w upto, r.item = .rcfg cell q w upto →
      let c := s.cell cell
      let k := upto.getD (c.matDone + c.matq.length, c.copyDone + c.copyq.length)
      let early := ∃ p ∈ s.released.take n, p.tid = r.tid ∧ ((∃ d m, p.item = .matrix d m) ∨ ∃ d m, p.item = .copy d m)
      let busy := (∃ m ∈ c.matq.take (k.1 - c.matDone), m.op.names q = true) ∨ c.copyDone < k.2 ∨ s.barred r.tid [lineOf (ringLine cell q)] = true
      (early → NotDue (.rcfgPerform n) s) ∧
      (¬early → busy → exec (.rcfgPerform n) s = .next { s with released := setAt s.released n { r with item := .rcfg cell q w (some k) } }) ∧
      (¬early → ¬busy → done (.rcfgPerform n) (fun u => (u.ringOf cell q).word = w ∧ (u.ringOf cell q).t = 0 ∧ (u.ringOf cell q).h = 0 ∧ (u.ringOf cell q).c = 0))) ∧
    (∀ cell q e ep, r.item = .rpop cell q e ep → let g := s.ringOf cell q
      (g.epoch ≠ ep ∨ g.on = false → done (.rpopFree n) (fun u => u.ringOf cell q = g)) ∧
      (g.epoch = ep → g.on = true → g.freed = [] → e = g.h → (s.cell cell).matq = [] → done (.rpopFree n) (fun u => (u.ringOf cell q).h = g.h + 1))) ∧
    (∀ cell cs, r.item = .ringStore cell cs → done (.ringAreaStore n) (fun u => (u.cell cell).ringMem = Memory.writeMasked (s.cell cell).ringMem cs)) ∧
    (∀ l v cls ea, r.item = .tsemSig l v cls ea → l.home = none → s.barred r.tid (linesAt l.pa 8) = false → s.homeFail l (s.initOf r.tid) = none →
      s.poisonedAt l 8 = false → s.untraced → leNat (s.homeBytes l 8) ≠ 2 ^ 64 - 1 →
      done (.tsemsigPerform n) (fun u => leNat (u.homeBytes l 8) = max (leNat (s.homeBytes l 8)) v.toNat)) ∧
    (∀ l op k src cls ea, r.item = .comet l op k src cls ea → l.home = none → op ≠ .faddO → s.barred r.tid (linesAt l.pa k) = false →
      s.homeFail l (s.initOf r.tid) = none → s.poisonedAt l k = false → s.untraced → k = 4 ∨ k = 8 →
      done (.cometPerform n) (fun u => leNat (u.homeBytes l k) = op.apply k (leNat (s.homeBytes l k)) (src.toNat % 2 ^ (8 * k)) % 2 ^ (8 * k))) ∧
    (∀ gid inst g, r.item = .trigger gid inst → s.findGang gid = some g → done (.triggerRecord n) (fun u => ∃ h, u.findGang gid = some h ∧
      h.triggered = (if g.launch.inst = inst then true else g.triggered))) ∧
    (∀ cell cmd, r.item = .matrix cell cmd →
      ((s.cell cell).matq.length < 16 → done (.engineCommandAccept n) (fun u => (u.cell cell).matq = (s.cell cell).matq ++ [cmd])) ∧
      (16 ≤ (s.cell cell).matq.length → NotDue (.engineCommandAccept n) s)) ∧
    (∀ cell cmd, r.item = .copy cell cmd →
      ((s.cell cell).copyq.length < 16 → done (.engineCommandAccept n) (fun u => (u.cell cell).copyq = (s.cell cell).copyq ++ [cmd])) ∧
      (16 ≤ (s.cell cell).copyq.length → NotDue (.engineCommandAccept n) s)) ∧
    (∀ l k src cls ea, r.item = .comet l .faddO k src cls ea → l.home = none → k = 4 ∨ k = 8 → s.barred r.tid [lineOf l.pa] = false →
      let c : Loc := { home := none, pa := l.pa / 64 * 64 }
      s.homeFail c (s.initOf r.tid) = none →
      (s.keyReg c = none → s.keyRegsAt c < Config.keyLimit → r.rank = 0 → s.poisonedAt l k = false → s.untraced →
        done (.orderedContribution n) (fun u => leNat (u.homeBytes l k) =
          RmwOp.apply .faddO k (leNat (s.homeBytes l k)) (src.toNat % 2 ^ (8 * k)) % 2 ^ (8 * k))) ∧
      ((s.contribute r).2 = false → Completes (.orderedContribution n) s (fun u => u.released[n]? = some { r with stage := .refused } ∧ ∀ a, u.byteAt a = s.byteAt a)))) ∧
  (∀ (s : State) (n : Nat) (r : Released) (l : Loc), s.released[n]? = some r → r.stage = .refused → r.item.ordered = true → s.contribLoc r.item = some l →
    s.heldBack n = false → r.item.farTo = none → l.home = none → s.barred r.tid [lineOf l.pa] = false → s.homeFail l (s.initOf r.tid) = none →
    ((s.contribute r).2 = true → exec (.contributionRetry n) s = .next ((s.contribute r).1.clearRel n)) ∧
    ((s.contribute r).2 = false → Completes (.contributionRetry n) s (fun u => u.released[n]? = some r ∧ ∀ a, u.byteAt a = s.byteAt a))) ∧
  (∀ (s : State) (n : Nat) (r : Released), s.released[n]? = some r → r.stage = .handed → s.heldBack n = false →
    ∀ home cs cls ea, r.item = .farStore home cs cls ea → s.maySend home cls = true → s.farLocked r.tid home (cs.map (·.1)) = false →
      s.farFail { home := some home, pa := (cs.headD (0, 0, 0)).1 } cls = none → Completes (.farStoreArrival n) s (fun u =>
        u.released[n]? = some { r with stage := .performed } ∧
        (home ≠ s.moduleId → u.farMem = Memory.writeMasked s.farMem (cs.map (fun c => (farKey home c.1, c.2)))))) ∧
  (∀ (s : State) (n : Nat) (r : Released), s.released[n]? = some r → r.stage = .performed → r.item.travelsFar = true →
    Completes (.farStoreAck n) s (fun u => u.released = dropAt s.released n ∧ (s.untraced → ∀ a, u.byteAt a = s.byteAt a))) ∧
  (∀ (s : State) (port : Nat), Completes (.hostStoreAck port) s (fun u =>
    u.released = s.released.filter (fun r => !(r.stage == .handed && (match r.item with | .hostStore p _ _ => p == port | _ => false))))) ∧
  (∀ (s : State) (n pa k : Nat) (t : Thread) (home : BitVec 16) (cls : FabClass), s.findTid n = some t → t.st = .dataWait → s.behindO n home cls = false →
    s.routeHeld home cls = false → let l : Loc := { home := some home, pa := pa }
    s.farFail l cls = none → s.poisonedAt l k = false →
    (t.pend = .outer l k cls → s.farMoonBytes l k = none → (home = s.moduleId → s.locked (linesAt pa k) = false) → Completes (.farLoadService n) s (fun u =>
      u.has n (fun q => q.st = .runnable ∧ q.replies = t.replies ++ [(l, s.homeBytes l k)] ∧ q.arch = t.arch))) ∧
    (∀ leaf size d, t.pend = .pageWord l leaf size cls d → Completes (.farLoadService n) s (fun u =>
      u.has n (fun q => q.st = .runnable ∧ q.replies = t.replies ++ [(l, leBytes 8 (s.farPageWord home leaf size).toNat)] ∧ q.arch = t.arch))) ∧
    (∀ op src cmp d s0, t.pend = .rmw l op k src cmp cls d → op ≠ some .faddO → t.chunk.isOpen = false → s.farLocked n home (countFrom pa k) = false →
      s.amoUnderWay n = false → s.focus n = some s0 → s0.replaying = false → home ≠ s.moduleId →
      let old := leNat (s.homeBytes l k)
      let new := match op with
        | some f => some (f.apply k old (src.toNat % 2 ^ (8 * k)))
        | none => if old = cmp.toNat then some src.toNat else none
      Completes (.farAmoService n) s (fun u => (∃ u0, u.focus n = some u0 ∧ s0.onlyX u0 d (rmwResult op k old)) ∧
        u.farMem = match new with
          | some v => Memory.writeMasked s.farMem ((mcellsAt pa (leBytes k v)).map (fun c => (farKey home c.1, c.2)))
          | none => s.farMem)) ∧
    (∀ w d s0, t.pend = .key { home := some home, pa := pa } w cls d → t.chunk.isOpen = false → s.farLocked n home [pa] = false → s.focus n = some s0 →
      s.farFail { home := some home, pa := pa / 64 * 64 } cls = none → (∀ u ∈ s.allThreads, ∀ f, u.pend ≠ .fence f) →
      Completes (.farAmoService n) s (fun u => ∃ u0, u.focus n = some u0 ∧
        s0.onlyX u0 d (s.amokeyAt (s.here { home := some home, pa := pa / 64 * 64 }) w).2))) ∧
  (∀ (s : State) (n : Nat) (f : Finished), s.finished[n]? = some f →
    (f.target = .none → Completes (.completionTarget n) s (fun u => u.finished = dropAt s.finished n)) ∧
    (∀ k, f.target = .sem k → Completes (.completionTarget n) s (fun u => u.finished = dropAt s.finished n ∧
      Map.get 0 (u.cell f.cell).sems k = min (Map.get 0 (s.cell f.cell).sems k + 1) 65535)) ∧
    (∀ b p g, f.target = .barrier b p → s.findGang f.who.gang = some g → Completes (.completionTarget n) s (fun u => u.finished = dropAt s.finished n ∧
      ∃ h, u.findGang f.who.gang = some h ∧ (f.who.rank, p) ∈ (h.barrier b).arrivals)) ∧
    (∀ ea, f.target = .counter ea → let s0 : State := { s with finished := dropAt s.finished n }
      (s0.bumpCounter f ea = .error false → NotDue (.completionTarget n) s) ∧
      (s0.bumpCounter f ea = .error true → exec (.completionTarget n) s = .next { s with
        finished := setAt s.finished n { f with who := { f.who with heldAt := some (f.who.heldAt.getD s.time.up) } } }) ∧
      ∀ s1, s0.bumpCounter f ea = .ok s1 → exec (.completionTarget n) s = .next s1)) ∧
  (∀ (s : State) (cell : Nat) (m : MatCmd) (ms : List MatCmd), (s.cell cell).matq = m :: ms →
    (∀ va, m.faulted = some va → bit va 63 = false → (∀ f ∈ s.service.faults, f.engine ≠ some (cell, true)) →
      Completes (.engineFaultResolved cell true) s (fun u => (u.cell cell).matq = { m with faulted := none } :: ms)) ∧
    (∀ acc, m.op = .mzero acc → Completes (.mzeroExecute cell) s (fun u => (u.cell cell).acc acc = Acc.reset ∧ (u.cell cell).matq = ms)) ∧
    (∀ acc qa qb ea eb pa pb w rows z neg, m.op = .mma acc qa qb ea eb pa pb w rows z neg →
      (¬(ea < (s.ringOf cell qa).t ∧ eb < (s.ringOf cell qb).t) → NotDue (.mmaExecute cell) s) ∧
      (∀ k rule, ea < (s.ringOf cell qa).t → eb < (s.ringOf cell qb).t → (fmtCtx w).combo rows = some (k, rule) →
        let c := fmtCtx w
        let mem := (s.cell cell).ringMem
        let oa := (s.ringOf cell qa).entryAt ea
        let ob := (s.ringOf cell qb).entryAt eb
        let a : Operand := { off := oa, trailer := oa + up256 (aBytes c rows k) }
        let b : Operand := { off := ob, trailer := ob + up256 (bBytes c k) }
        let old := (s.cell cell).acc acc
        Completes (.mmaExecute cell) s (fun u => (u.cell cell).matq = ms ∧ ((u.cell cell).acc acc).int = c.int ∧
          ∀ i j, i < rows → j < 32 →
            let row := aRow mem oa c rows k i
            let col := bCol mem ob c k j
            (c.int = true → ((u.cell cell).acc acc).get i j =
              BitVec.ofNat 32 (intAcc neg row col (if z then 0 else sextInt (old.get i j).toNat 32)).1) ∧
            (c.int = false → ¬(rule = .tree ∧ doubled row = true) → ((u.cell cell).acc acc).get i j = BitVec.ofNat 32
              (fF32.round .rne false false 0 (floatAcc mem rule a b rows k i j neg row col (if z then negZero else fF32.unpack (old.get i j).toNat))).1)))) ∧
    (∀ acc mode addr word fmt rm sat seed count, m.op = .mdrain acc mode addr word fmt rm sat seed count → mayRun m.faulted = true →
      s.targetPending cell true = false → s.addsPending cell true = false →
      (∀ e, m.ended = some e → exec (.mdrainExecute cell) s = .next (s.drainEnd cell m.who word e)) ∧ (m.ended = none →
      let d : DrainArg := { fmt := fmt.toNat, rm := (rmOfCode rm.toNat).getD .rne, sat := sat, seed := seed, count := count }
      let rows := fld word 57 52 + 1
      let vals := drainVals ((s.cell cell).acc acc) (fF32.unpack (fld word 31 0))
      let g := s.ringOf cell addr.toNat
      let p := s.drainRows m.who cell m.faulted mode addr (fld word 51 32) d vals rows 0 { puts := [], adds := [], flags := false }
      (mode = 1 → g.on = true → drainEntry d.fmt rows ≤ g.entryBytes → g.hasRoom = true → Completes (.mdrainExecute cell) s (fun u =>
        (u.cell cell).matq = ms ∧ (u.ringOf cell addr.toNat).t = g.t + 1)) ∧
      (mode = 1 → g.on = true → drainEntry d.fmt rows ≤ g.entryBytes → g.hasRoom = false → NotDue (.mdrainExecute cell) s) ∧
      (mode ≠ 1 → p.2.2 = none → p.2.1.adds = [] → p.1.putsHeld m.who p.2.1.puts = false → Completes (.mdrainExecute cell) s (fun u =>
        (u.cell cell).matq = ms ∧ ∀ a, u.byteAt a = (p.1.deliverPuts cell p.2.1.puts).byteAt a))))) ∧
  (∀ (s : State) (cell : Nat) (m : CopyCmd) (ms : List CopyCmd), (s.cell cell).copyq = m :: ms → mayRun m.faulted = true →
    s.targetPending cell false = false → s.addsPending cell false = false →
    (∀ e, m.ended = some e → exec (.cpyExecute cell) s = .next (s.copyDone cell m e)) ∧
    ∀ s1 x y, m.ended = none → s.readRecords cell m = (s1, some (x, y)) → let a := layoutOf x; let b := layoutOf y
    (∀ f, s1.recordFail cell m.rw a b = some f → Completes (.cpyExecute cell) s (fun u => (u.cell cell).copyq = ms ∧ ∀ k, u.byteAt k = s1.byteAt k)) ∧
    (s1.recordFail cell m.rw a b = none → b.rng = false → let p := s1.copyAll cell m a b
      p.2.2 = none → p.2.1.adds = [] → p.1.putsHeld m.who p.2.1.puts = false → Completes (.cpyExecute cell) s (fun u =>
        (u.cell cell).copyq = ms ∧ ∀ k, u.byteAt k = (p.1.deliverPuts cell p.2.1.puts).byteAt k))) ∧
  (∀ (s : State) (cell : Nat) (ps : List Put), s.untraced → (ps.map (·.loc.pa)).Nodup → ∀ p ∈ ps, s.isHere p.loc = true → p.mask = BitVec.allOnes 8 →
    (s.deliverPuts cell ps).byteAt p.loc.pa = p.val) ∧
  (∀ (r : Run) (rs : List Run) (o : Nat), (o < r.n → (runAt (r :: rs) o).loc = { r.loc with pa := r.loc.pa + o }) ∧ (r.n ≤ o → runAt (r :: rs) o = runAt rs (o - r.n))) ∧
  (∀ (s : State) (who : Issuer) (cell : Nat) (held : Option W64) (mode : Nat) (addr : W64) (stride : Nat) (d : DrainArg) (vals : Nat → List FVal) (rows : Nat),
    mode < 3 → let drain := fun (n : Nat) => s.drainRows who cell held mode addr stride d vals n 0 { puts := [], adds := [], flags := false }
    (drain rows).2.2 = none → ∃ runs : Nat → Option (List Run), (drain rows).2.1.adds = [] ∧
      (drain rows).2.1.puts = ((List.range rows).map (fun r => match runs r with
        | some rs => putsAt rs (mcellsAt 0 (drainRow d r (vals r)).1) | none => [])).flatten ∧
      ∀ r, r < rows → let n := 4 * (fmtElem d.fmt).bits
        (mode ≠ 2 → ∃ rs, runs r = some rs ∧ ((drain r).1.engAccess who cell held (addr + BitVec.ofNat 64 (r * stride)) n 8 .store false).2 = .ok rs) ∧
        (mode = 2 → ∃ q bs, (drain r).1.engRead who cell held (addr + BitVec.ofNat 64 (8 * r)) 8 8 = (q, .ok bs) ∧
          (BitVec.ofNat 64 (leNat bs) = BitVec.allOnes 64 → runs r = none) ∧
          (BitVec.ofNat 64 (leNat bs) ≠ BitVec.allOnes 64 → ∃ rs, runs r = some rs ∧ (q.engAccess who cell held (BitVec.ofNat 64 (leNat bs)) n 8 .store false).2 = .ok rs))) ∧
  (∀ (l : Layout) (src : Bool) (idx : Option Nat) (n : Nat), let len := l.dims.length
    let dim := fun (k : Nat) => l.dims.getD k { size := 0, org := 0, stride := 0, win := 0 }
    let pos := fun (k : Nat) => match k, idx with
      | 1, some j => (j : Int)
      | _, _ => (dim k).org + ((n / ((l.dims.take k).map (·.win)).foldl (· * ·) 1 % (dim k).win : Nat) : Int)
    let at_ := fun (c : Nat → Int) => ((List.range len).map (fun k => c k * ((dim k).stride : Int))).sum
    let inb := ∀ k, k < len → 0 ≤ pos k ∧ pos k < ((dim k).size : Int)
    (inb → l.find src idx n = .at (at_ pos)) ∧ (¬inb → l.fillm = 2 → l.find src idx n = .bounds (at_ pos)) ∧
    (¬inb → l.fillm = 1 → src = true → l.find src idx n = .at (at_ (fun k => clampInt (pos k) 0 (((dim k).size : Int) - 1)))) ∧
    (¬inb → l.fillm ≠ 2 → (l.fillm ≠ 1 ∨ src = false) → l.find src idx n = .outside)) ∧
  (∀ (l : Layout) (e : Nat), l.ilv < 4 → let g := 32 * 2 ^ l.ilv
    let first := e * l.bits / 8
    let swz := fun (o : Nat) => if l.ilv = 0 then o else Nat.xor o (16 * ((o / g) % (g / 16)))
    l.bytesOf e = ((List.range ((e * l.bits % 8 + l.bits + 7) / 8)).map (fun j => (swz (first + j) : Int)), e * l.bits % 8)) ∧
  (∀ (s : State) (cell : Nat) (m : CopyCmd) (a : Layout) (idx : Option Nat) (n : Nat),
    (a.find true idx n = .outside → s.sourceElem cell m a idx n = (s, .ok (a.fillBits, []))) ∧
    (∀ e, a.find true idx n = .at e → ∀ s1 rs, s.copyRuns m.who cell m.faulted .load true a (runsOf (a.bytesOf e).1) = (s1, .ok rs) →
      ∃ ls, (s.sourceElem cell m a idx n).2 = .ok (leNat (s1.runBytes rs) / 2 ^ (a.bytesOf e).2 % 2 ^ a.bits, ls)) ∧
    (m.gather = false ∨ a.rank < 2 → s.gatherIndex cell m a n = (s, .ok none)) ∧
    (m.gather = true → 2 ≤ a.rank → m.list.toNat % 4 = 0 → ∀ s1 bs,
      s.engRead m.who cell m.faulted (m.list + BitVec.ofNat 64 (4 * (n / a.winAt 0 % a.winAt 1))) 4 1 = (s1, .ok bs) →
      s.gatherIndex cell m a n = (s1, .ok (some (leNat bs))))) ∧
  (∀ (s : State) (cell : Nat) (m : CopyCmd) (a b : Layout), m.rw = 0 → b.rng = false →
    let moved := fun (n : Nat) => s.moveElems cell m a b n 0 { puts := [], ring := [], adds := [], flags := false, seen := [] }
    (s.copyAll cell m a b).2.2 = none → ∃ (bits : Nat → Nat) (runs : Nat → List Run) (scales : List Put),
      (s.copyAll cell m a b).2.1.adds = [] ∧ (a.ssch = 0 → scales = []) ∧
      (s.copyAll cell m a b).2.1.puts = ((List.range a.count).map (fun n => match b.find false none n with
        | .at e => putsAt (runs n) (elemCells b.bits (b.bytesOf e).2 (copyConvert a.fmt b.fmt (bits n)).1 (b.bytesOf e).1.length)
        | _ => [])).flatten ++ scales ∧
      ∀ n, n < a.count → ∃ s1 idx s2 ls, (moved n).1.gatherIndex cell m a n = (s1, .ok idx) ∧ s1.sourceElem cell m a idx n = (s2, .ok (bits n, ls)) ∧
        ∀ e, b.find false none n = .at e → (s2.copyRuns m.who cell m.faulted .store false b (runsOf (b.bytesOf e).1)).2 = .ok (runs n)) ∧
  (∀ (bits sub v n j : Nat), j < n → (elemCells bits sub v n)[j]? =
    some (j, BitVec.ofNat 8 ((2 ^ bits - 1) * 2 ^ sub / 256 ^ j), BitVec.ofNat 8 (v % 2 ^ bits * 2 ^ sub / 256 ^ j)))

/-- Memory management and hosts (03: R48; 04: R78, R82, R83; 05: R88, R91 to R93; 09: R156 to R158; 12: R218 to R222; 13: R225). The model's choice, not the spec's: that an event which is not due changes nothing (log entry 7); that one entry of a completion ring stays free (entry 26); which windows of the sharing monitor have ended, and that a home drops a subscription by a further answer (entry 48); who writes SEGTAB, PTROOT and the partition register (entry 50); that an engine's or a host's access takes a line back at once (entry 59); the encoding of the Resizable BAR register (entry 61, PRESUMED); when firmware may move a page (entry 67). -/
def Obligations.PagesMoonsAndHosts : Prop :=
  (∀ (s : State) (r : AddrRange),
    r.base % 65536 = 0 → r.len % 65536 = 0 → r.frames % 65536 = 0 → 0 < r.len → r.base + r.len ≤ 2 ^ 57 → (rangeTables r).2.2 + r.len ≤ Config.hbmEnd →
    r.fwmin.toNat ≤ r.fwmax.toNat → r.fwmax.toNat ≤ 4 →
    let clear := ∀ q ∈ s.service.ranges, q.asid ≠ r.asid ∨ r.base + r.len ≤ q.base ∨ q.base + q.len ≤ r.base
    (clear → Completes (.rangeAllocate r) s (fun u => u.service.ranges = s.service.ranges ++ [r] ∧
      ∀ k, r.frames / 2097152 ≤ k → k < (r.frames + r.len + 2097151) / 2097152 → let g := Map.get Region.reset u.regions k
        g.deg = r.fwmin.toNat ∧ g.fwmin = r.fwmin.toNat ∧ g.fwmax = r.fwmax.toNat ∧ g.hits = 0)) ∧
    (¬clear → NotDue (.rangeAllocate r) s)) ∧
  (∀ (s : State) (asid : BitVec 16) (base : Nat),
    let mine := fun (q : AddrRange) => q.asid == asid && q.base == base
    (s.tokenBars frontTid = false → (∃ q ∈ s.service.ranges, mine q = true) →
      Completes (.rangeRelease asid base) s (fun u => u.service.ranges = s.service.ranges.filter (fun q => !mine q))) ∧
    (s.tokenBars frontTid = true ∨ (∀ q ∈ s.service.ranges, mine q = false) → NotDue (.rangeRelease asid base) s)) ∧
  (∀ s : State, Completes .dirtyHarvest s (fun u => (∀ c, (u.core c).dlog = []) ∧ ∀ p ∈ u.tlbs, ∀ e ∈ p.2, e.logged = false)) ∧
  (∀ (s : State) (m : Migration), let w := Memory.read64 s.mem m.leafPa
    let old := leafPlace w
    let new := leafPlace m.newLeaf
    let ok := bit w 10 = false ∧ s.leaves.any (fun p => p.1 == m.leafPa && pageSize p.2 == m.bytes) = true ∧ s.moveBarred old m.bytes = false
    (¬ok → NotDue (.pageMigration m) s) ∧
    (ok → Completes (.pageMigration m) s (fun u => Memory.read64 u.mem m.leafPa &&& ~~~0x400 = m.newLeaf &&& ~~~0x400 ∧
      (s.untraced → old.home = none → new.home = none → (∀ pa ∈ m.leafPa :: s.mappings w, pa + 8 ≤ new.pa ∨ new.pa + m.bytes ≤ pa) →
        ∀ k < m.bytes, u.byteAt (new.pa + k) = s.byteAt (old.pa + k))))) ∧
  (∀ (s : State) (page : Nat), let r := Map.get PageRec.reset s.pages page
    let due := r.pin = true ∧ r.pinnedAt + s.service.pinTimeMs * 1000 * 16000 ≤ s.time.up
    (due → Completes (.pinTimeExpiry page) s (fun u => Map.get PageRec.reset u.pages page = { r with pin := false, times := [] } ∧
      bit (Memory.read64 u.mem r.leafPa) 10 = false)) ∧ (¬due → NotDue (.pinTimeExpiry page) s)) ∧
  (∀ (s : State) (n : Nat), let g := Map.get Region.reset s.regions n
    (s.windowsEnded n ≤ g.windows → NotDue (.moonWindowEnd n) s) ∧
    (g.windows < s.windowsEnded n → Completes (.moonWindowEnd n) s (fun u => let h := Map.get Region.reset u.regions n
      h.rr = 0 ∧ h.w = 0 ∧ h.c = 0 ∧ h.deg = (if s.service.cthr ≤ g.c then (if g.dmin < g.deg then g.deg - 1 else g.deg)
        else if 256 ≤ g.rr ∧ 64 * g.w ≤ g.rr then (if g.deg < g.dmax then g.deg + 1 else g.deg) else g.deg) ∧
      (h.deg = g.deg → h.changes = g.changes ∧ u.moons = s.moons)))) ∧
  (∀ (s : State) (n line pos : Nat) (yes : Bool) (data : V512),
    (Map.get 0 s.subs n = 1 → Completes (.subscriptionAnswer n yes) s (fun u => Map.get 0 u.subs n = if yes then 2 else 3)) ∧
    (Map.get 0 s.subs n = 2 → Completes (.subscriptionAnswer n false) s (fun u => Map.get 0 u.subs n = 3 ∧ ∀ p ∈ u.farMoons, 64 * p.1 / 2097152 ≠ n)) ∧
    (Map.get 0 s.subs n ≠ 1 → Map.get 0 s.subs n ≠ 2 → NotDue (.subscriptionAnswer n yes) s) ∧
    (Map.get 0 s.subs n = 2 → NotDue (.subscriptionAnswer n true) s) ∧
    (∀ p, Map.get 0 s.subs (64 * line / 2097152) = 2 → s.farMoons.find? (fun q => q.1 == line) = some p → (p.2.1 ≤ pos →
        Completes (.subscriptionPush line pos data) s (fun u => Map.get (0, 0#512) u.farMoons line = (pos, data))) ∧
      (pos < p.2.1 → Completes (.subscriptionPush line pos data) s (fun u => u.farMoons = s.farMoons)))) ∧
  (∀ (s : State) (port line : Nat), port < 2 → let l := lineOf (hostKey port (64 * line))
    (s.locked [l] = true → NotDue (.hostSnoop port line) s) ∧
    (s.locked [l] = false → Completes (.hostSnoop port line) s (fun u => (∀ c, ∀ h ∈ (u.core c).dcache, h.line ≠ l) ∧ Map.get 0 u.mesi l = 0 ∧
      ((s.allThreads.map (·.tid)).Nodup → ∀ q ∈ s.allThreads, q.uncommitted = true →
        Sig.holds q.chunk.rsig (64 * l) = true ∨ Sig.holds q.chunk.wsig (64 * l) = true →
        u.has q.tid (fun r => r.arch = q.chunk.start ∧ r.chunk = Chunk.reset))))) ∧
  (∀ (s : State) (port pa off n : Nat) (data : List Byte), port < 2 → let size := 2 ^ (s.host port).bar2log
    let b := (s.host port).bar2base.toNat / size * size + off
    let covers := fun (m : Nat) => ∃ b l, (port, b, l) ∈ s.service.cxl ∧ b ≤ pa ∧ pa + m ≤ b + l
    (s.barred frontTid (linesAt pa data.length) = true → NotDue (.cxlMemWrite port pa data) s) ∧
    (covers data.length → data ≠ [] → s.barred frontTid (linesAt pa data.length) = false →
      (s.hostMay pa data.length true = true → s.untraced → Completes (.cxlMemWrite port pa data) s (fun u => ∀ j, j < data.length → u.byteAt (pa + j) = data.getD j 0)) ∧
      (s.hostMay pa data.length true = false → Completes (.cxlMemWrite port pa data) s (fun u => u.mem = s.mem ∧ u.hosts = s.hosts))) ∧
    (off + data.length ≤ size → s.barred frontTid (linesAt b data.length) = false → (∀ cs ∈ pieces 64 (mcellsAt b data), s.hostMay (cs.headD (0, 0, 0)).1 cs.length true = true) → s.untraced →
      Completes (.bar2Write port off data) s (fun u => ∀ j, j < data.length → u.byteAt (b + j) = data.getD j 0)) ∧
    (∀ keep, (covers n → Completes (.cxlMemRead port pa n keep) s (fun u => u.mem = s.mem ∧
        (u.host port).readReply = (if s.hostMay pa n false then some (s.bytesAt pa n) else none) ∧
        (keep = true → s.hostMay pa n false = true → ∀ l ∈ linesAt pa n, u.hostHolds l = true))) ∧
      (¬covers n → NotDue (.cxlMemRead port pa n keep) s)) ∧
    (off + n ≤ size → Completes (.bar2Read port off n) s (fun u => u.mem = s.mem ∧ (u.host port).readReply = if s.hostMay b n false then some (s.bytesAt b n) else none)) ∧
    (size < off + n → NotDue (.bar2Read port off n) s) ∧
    (bar0Listed off = false → Completes (.bar0UnlistedAccess port off false) s (fun u => u.mem = s.mem ∧
        (u.host port).readReply = some (List.replicate 8 0xFF)) ∧
      Completes (.bar0UnlistedAccess port off true) s (fun u => u.mem = s.mem ∧ u.hosts = s.hosts))) ∧
  (∀ (s : State) (port ring : Nat) (v : W64), port < 2 → ring < 512 → let c := s.cmdRing port ring
    let room := (v.toNat + c.size - c.head) % c.size
    let bad := c.en = false ∨ v.toNat % 64 ≠ 0 ∨ c.size ≤ v.toNat ∨ 65536 < room ∨ (c.loc = true ∧ Config.hbmEnd < c.start + c.size)
    (bad → Completes (.cqDoorbell port ring v) s (fun u => u.cmdRing port ring = { c with err := true })) ∧
    (¬bad → Completes (.cqDoorbell port ring v) s (fun u => (u.cmdRing port ring).tail = v.toNat ∧
      (u.cmdRing port ring).snap.map (·.2) = c.snap.map (·.2) ++ (s.takePackets port c (room / 64) c.head (room / 64)).1)) ∧
    Completes (.cqEnable port ring) s (fun u => u.cmdRing port ring = if c.en then c else { c with en := true, head := 0, tail := 0 }) ∧
    Completes (.cqDisable port ring) s (fun u => u.cmdRing port ring = { c with en := false })) ∧
  (∀ (s : State) (port ring : Nat) (v : W64), port < 2 → ring < 64 → let c := s.cplRing port ring
    let ok := v.toNat % 64 = 0 ∧ v.toNat < c.size ∧ (v.toNat + c.size - c.head) % c.size ≤ (c.tail + c.size - c.head) % c.size
    (ok → Completes (.crHeadWrite port ring v) s (fun u => (u.cplRing port ring).head = v.toNat)) ∧
    (¬ok → Completes (.crHeadWrite port ring v) s (fun u => u.cplRing port ring = { c with err := true })) ∧
    (c.en = false → Completes (.crEnable port ring) s (fun u => (u.cplRing port ring).en = true ∧ (u.cplRing port ring).head = 0 ∧
      (c.waiting = [] → (u.cplRing port ring).tail = 0)))) ∧
  (∀ (s : State) (core port ring pa : Nat) (v : W64) (i : Initiator),
    Completes (.registerWrite .rootMonitor (.ptroot core) v) s (fun u => (u.core core).ptroot = v &&& 0xFFFF0FFFFFE00000) ∧
    (i ≠ .rootMonitor → Completes (.registerWrite i (.ptroot core) v) s (fun u => u.cores = s.cores ∧ u.service.roots = s.service.roots)) ∧
    Completes (.registerWrite .rootMonitor .partition v) s (fun u => u.fabric.partition = v) ∧
    Completes (.registerWrite .rootMonitor .moduleId v) s (fun u => u.moduleId = v.setWidth 16 &&& 0xFFFC) ∧
    Completes (.registerWrite .serviceColumn (.segtab core) v) s (fun u => (u.core core).segtab = v &&& 0xFFFF0FFFFFFFFFF0) ∧
    (port < 2 → let n := 20 + fld v 13 8
      Completes (.registerWrite .host (.resizeBar port) v) s (fun u => (u.host port).bar2log = if 30 ≤ n ∧ n ≤ 41 then n else (s.host port).bar2log)) ∧
    (port < 2 → ring < 512 → let c := s.cmdRing port ring
      Completes (.registerWrite .host (.bar0 port (64 * ring)) v) s (fun u => u.cmdRing port ring = if c.en then { c with err := true } else { c with base := v })) ∧
    (∀ s1, s.mmioStore i (pa / 8 * 8) (leBytes 8 v.toNat) = some s1 → exec (.registerWrite i (.mmio pa) v) s = .next s1) ∧
    (s.mmioStore i (pa / 8 * 8) (leBytes 8 v.toNat) = none → Completes (.registerWrite i (.mmio pa) v) s (fun u => u.mem = s.mem ∧ u.cores = s.cores)))

/-- Packets and scheduling (09: R159 to R163, R167, R174, R176, R177; 10: R192; 13: R232, R233, R236, R238, R240). The model's choice, not the spec's: that an event which is not due changes nothing (log entry 7); that an entry counts its unused doublewords as zero (entry 33); when an identifier counts as live (entry 35); that the head launch alone is placed, where a gang is restored and how a pre-emption is cancelled (entry 37); what DRAIN_QUERY counts and that RETIRED refuses launches too (entry 39); BUSY while another request of the same MODE is pending, the order of the shards and which slot is taken (entry 40); that a cell of which no thread stands at a safe point is saved without its routine (entry 71). -/
def Obligations.PacketsAndScheduling : Prop :=
  (∀ (s : State) (port ring order : Nat) (p : List W64), s.offers port ring order p →
    let q : CmdSource := .ring port ring
    let s0 := (s.asking (frontKey q)).popPacket port ring
    let kind := fld (dw p 0) 7 0
    let len := fld (dw p 0) 15 8
    let mode := fld (dw p 1) 18 16
    let tag := fld (dw p 0) 63 32
    let entry := fun (code grade : Nat) (lid : W64) (d : List W64) => cplHead tag 0 code grade 0 :: lid :: d ++ [s.time.now, 0]
    let refused := entry 3 3 0 [0, 0, 0, 0]
    (kind = 0 → len = 1 → unitReserved p 1 = false → exec (.nop q) s = .next (s.popPacket port ring)) ∧
    (6 < kind → Answers (.nop q) s port ring 0 refused) ∧
    (∀ i, (kind = 1 ∧ len = 4 ∧ i = Instr.launch q) ∨ (kind = 2 ∧ len = 6 ∧ i = Instr.guardedLaunch q) →
      let l := launchOf port (s.cmdRing port ring).prio p
      let code := if launchBad p l then some (3, 3) else if s0.shapeBad l then some (4, 3) else if l.ids.any s0.liveIds.contains then some (5, 3)
        else if l.prods.any (fun p => (s0.bindProducer p).isNone) then some (6, 3) else none
      (∀ c, code = some c → s.service.drain = .normal → AnswersAsking i s port ring l.cring (entry c.1 c.2 l.lid [0, 0, 0, 0])) ∧
      (code = none → ∀ s1, s0.kernels l = (s1, none) → s.service.drain = .normal →
        exec i s = .next (s.asFront (frontKey q) (fun _ => s1.complete port l.cring (entry 7 3 l.lid [0, 0, 0, 0])))) ∧
      (code = none → ∀ s1 k, s0.kernels l = (s1, some k) → s.service.drain = .draining ∨ s.service.drain = .drained →
        exec i s = .next (s.asFront (frontKey q) (fun _ =>
          State.complete { s1 with service := { s1.service with refusedLaunches := s1.service.refusedLaunches + 1 } } port l.cring (entry 8 1 l.lid [0, 0, 0, 0])))) ∧
      (code = none → ∀ s1 k, s0.kernels l = (s1, some k) → s1.fabric.held = false →
        (s.service.drain = .normal → Takes i s port ring (fun u => u.service.launches = s1.service.launches + 1 ∧
          u.waiting = s.waiting ++ [{ launch := { l with inst := s1.service.launches, deps := l.prods.filterMap s1.bindProducer }, kernel := k.1, xkernel := k.2, aged := 0, since := s.time.up, order := order }])) ∧
        (s.service.drain ≠ .normal → Takes i s port ring (fun u => u.waiting.map (·.launch.lid) = s.waiting.map (·.launch.lid) ∧ u.gangs.map (·.ident) = s.gangs.map (·.ident))))) ∧
    (kind = 3 → len = 1 → ∀ l, s.tsemPlace (dw p 1) = some l → unitReserved p 3 = false → dw p 2 ≠ 0 →
      (l.home = none → s.barred frontTid [lineOf l.pa] = true → NotDue (.tsemSignal q) s) ∧
      (l.home = none → s.barred frontTid [lineOf l.pa] = false → s.homeFail l .serviceColumn = none → s.poisonedAt l 8 = false → s.untraced →
        leNat (s.homeBytes l 8) ≠ 2 ^ 64 - 1 → Takes (.tsemSignal q) s port ring (fun u => leNat (u.homeBytes l 8) = max (leNat (s.homeBytes l 8)) (dw p 2).toNat)) ∧
      (l.home ≠ none → Takes (.tsemSignal q) s port ring (fun u => ∃ r, u.released = s.released ++ [r] ∧ r.stage = .handed ∧ r.item = .tsemSig l (dw p 2) .a (dw p 1)))) ∧
    (kind = 3 → len = 1 → dw p 2 = 0 ∨ unitReserved p 3 = true →
      (∀ l, s.tsemPlace (dw p 1) = some l → l.home = none → s.barred frontTid [lineOf l.pa] = false) → Answers (.tsemSignal q) s port ring 0 refused) ∧
    (kind = 3 ∨ kind = 4 → len = 1 → unitReserved p 3 = false → (kind = 3 → dw p 2 ≠ 0) → s.tsemPlace (dw p 1) = none →
      let a := dw p 1
      let home := BitVec.ofNat 16 (fld a 59 44)
      let unpopulated := fld a 63 60 = 0 ∧ (home = 0 ∨ home = s.moduleId) ∧ Config.hbmEnd ≤ fld a 43 0 ∧ fld a 43 0 < Config.mmioBase
      let k := s.popPacket port ring
      exec (if kind = 3 then .tsemSignal q else .tsemWait q) s =
        .next (State.complete { k with service := { k.service with errlog := k.service.errlog ++ (if unpopulated then [fld a 43 0] else []) } } port 0 refused)) ∧
    (kind = 4 → len = 1 → unitReserved p 3 = true → Answers (.tsemWait q) s port ring 0 refused) ∧
    (kind = 4 → len = 1 → unitReserved p 3 = false → ∀ l, s.tsemPlace (dw p 1) = some l → (l.home = none → s.locked [lineOf l.pa] = false) →
      s.homeFail l (if l.home.isNone then .serviceColumn else .wounoLink) = none → s.poisonedAt l 8 = false →
      ((dw p 2).toNat ≤ leNat (s.homeBytes l 8) → exec (.tsemWait q) s = .next (s.popPacket port ring)) ∧
      (leNat (s.homeBytes l 8) < (dw p 2).toNat → NotDue (.tsemWait q) s)) ∧
    (kind = 5 → len = 1 → ckptBad p = false →
      let c := ckptOf port p s.time.up
      let said := fun (code grade detail : Nat) (step : W64) (cid : Nat) =>
        [cplHead tag 0 0 grade 0, 0, BitVec.ofNat 64 code, BitVec.ofNat 64 detail, step, BitVec.ofNat 64 cid, s.time.now, 0]
      (∀ i, (mode = 0 ∧ i = Instr.ckptOnce q) ∨ (mode = 1 ∧ i = Instr.ckptEverySteps q) ∨ (mode = 2 ∧ i = Instr.ckptEveryMs q) →
        let busy := s.ckptRuns c.asid || s.ckpts.any (fun d => d.asid == c.asid && d.mode == mode)
        (busy = false → Takes i s port ring (fun u => u.ckpts = s.ckpts ++ [c])) ∧ (busy = true → Answers i s port ring 0 (said 6 1 0 0 0))) ∧
      (mode = 3 → Takes (.ckptCancelPeriodic q) s port ring (fun u => (∀ d ∈ u.ckpts, d.asid = c.asid → d.mode ≠ 1 ∧ d.mode ≠ 2) ∧
        ∀ d ∈ s.ckpts, d.asid ≠ c.asid ∨ (d.mode ≠ 1 ∧ d.mode ≠ 2) → d ∈ u.ckpts)) ∧
      (∀ i, (mode = 4 ∧ i = Instr.ckptRestore q) ∨ (mode = 5 ∧ i = Instr.ckptVerify q) → s.ckptRuns c.asid = false →
        let r := s0.checkPool c.asid c.pool.toNat c.slotsz.toNat (fld (dw p 5) 63 32)
        let listed := r.2.2.2.take 1024
        let k := (r.1.jobPut c.asid (dw p 6).toNat (wordBytes (BitVec.ofNat 64 listed.length :: listed))).1
        ∀ m, r.2.1 = some m →
          let tells := fun (k : State) (e : List W64) => exec i s = .next (s.asFront (frontKey q) (fun _ => k.complete port 0 e))
          (listed ≠ [] → tells k (said 5 3 listed.length m.step m.cid.toNat)) ∧
          (listed = [] → mode = 5 → tells k (said 0 0 0 m.step m.cid.toNat)) ∧
          (∀ k2 tab k3, listed = [] → mode = 4 → k.jobWords c.asid c.rtab.toNat (2 * c.count) = (k2, some tab) →
            k2.loadShards c.asid (slotBase c.pool.toNat c.slotsz.toNat m.slot) tab r.2.2.1 = (k3, true) →
            tells k3 (said 0 0 0 m.step m.cid.toNat)))) ∧
    (kind = 6 → len = 1 → unitReserved p 2 = false → fld (dw p 1) 31 2 = 0 →
      let v := s.service
      let said0 := fun (no : Nat) => entry 0 0 0 [BitVec.ofNat 64 v.drain.code, BitVec.ofNat 64 s.gangs.length,
        BitVec.ofNat 64 (sumOf (fun w => w.launch.ids.length) s.waiting), BitVec.ofNat 64 v.refusedLaunches]
        |>.set 6 (BitVec.ofNat 64 no) |>.set 7 0
      (fld (dw p 1) 1 0 = 0 → Answers (.drainQuery q) s port ring 0 (said0 0)) ∧
      (fld (dw p 1) 1 0 = 1 → (v.drain ≠ .normal → Answers (.drain q) s port ring 0 (said0 1)) ∧
        (v.drain = .normal → Takes (.drain q) s port ring (fun u => u.waiting = [] ∧ u.gangs.map (·.ident) = s.gangs.map (·.ident) ∧ u.service.killMs = fld (dw p 1) 63 32 ∧
          u.service.drainAt = s.time.up ∧ (u.service.drain = .draining ∨ (u.service.drain = .drained ∧ s.gangs = []))))) ∧
      (fld (dw p 1) 1 0 = 2 → (v.drain = .draining ∨ v.drain = .drained → Takes (.resume q) s port ring (fun u => u.service.drain = .normal)) ∧
        (v.drain = .normal ∨ v.drain = .retired → Answers (.resume q) s port ring 0 (said0 1))) ∧
      (fld (dw p 1) 1 0 = 3 → (v.drain = .drained → Takes (.retire q) s port ring (fun u => u.service.drain = .retired)) ∧
        (v.drain ≠ .drained → Answers (.retire q) s port ring 0 (said0 1))))) ∧
  (∀ (s : State) (w : W64), s.serving = true → fld w 31 2 = 0 → let v := s.service
    (fld w 1 0 = 0 → Completes (.drainQuery (.mctp w)) s (fun u => u.waiting = s.waiting ∧ u.gangs = s.gangs)) ∧
    (fld w 1 0 = 1 → v.drain = .normal → Completes (.drain (.mctp w)) s (fun u => u.waiting = [] ∧ u.service.killMs = fld w 63 32 ∧ u.service.drainAt = s.time.up ∧
      (u.service.drain = .draining ∨ (u.service.drain = .drained ∧ s.gangs = [])))) ∧
    (fld w 1 0 = 2 → v.drain = .draining ∨ v.drain = .drained → Completes (.resume (.mctp w)) s (fun u => u.service.drain = .normal)) ∧
    (fld w 1 0 = 3 → v.drain = .drained → Completes (.retire (.mctp w)) s (fun u => u.service.drain = .retired))) ∧
  (∀ (s : State) (w : Waiting), s.serving = true → firstWaiting s.waiting = some w → let l := w.launch
    (s.spots l = none → Map.get none s.fabric.heldAt placeKey = none → NotDue .gangPlacement s) ∧
    (∀ a, s.spots l = some (a, none) → l.guarded = false → l.rrm = 0 → Completes .gangPlacement s (fun u =>
      u.waiting = s.waiting.filter (fun v => v.launch.lid != l.lid) ∧ ∃ g, u.gangs = s.gangs ++ [g] ∧ g.ident = l.lid.toNat ∧ g.ox = a.1 ∧ g.oy = a.2 ∧
        g.wd = l.wd ∧ g.ht = l.ht ∧ g.placed = true ∧ g.released = false ∧ g.size = l.wd * l.ht * perCell l.cores * l.tpc ∧
        ∀ c ∈ g.cells, (u.cell c).owner = some g.ident ∧ (u.cell c).accs = [] ∧ (u.cell c).sems = [])) ∧
    (∀ a b x, s.spots l = some (a, some b) → l.guarded = true → l.rrm = 0 → w.xkernel = some x → Completes .gangPlacement s (fun u =>
      u.waiting = s.waiting.filter (fun v => v.launch.lid != l.lid) ∧
      u.gangs.map (·.ident) = s.gangs.map (·.ident) ++ [l.lid.toNat, (l.lid ^^^ 0x8000000000000000).toNat]))) ∧
  (∀ (s : State) (gang : Nat) (g : Gang), s.findGang gang = some g →
    let due := g.placed = true ∧ g.released = false ∧ g.ended = false ∧ g.launch.start.toNat ≤ s.time.now.toNat
    (due → Completes (.gangRelease gang) s (fun u => (∃ h, u.findGang gang = some h ∧ h.released = true) ∧ u.nextTid = s.nextTid + g.size)) ∧
    (due → s.service.restored = [] → Completes (.gangRelease gang) s (fun u => u.findGang gang = some { g with released := true } ∧ u.nextTid = s.nextTid + g.size ∧
      ∀ r < g.size, ∃ t ∈ u.threads, t.tid = s.nextTid + r ∧ t.rank = r ∧ t.gang = some gang ∧ t.st = .runnable ∧ t.core = g.coreOf r ∧
        t.arch.pc = BitVec.ofNat 64 g.kernel.entry ∧ t.trapvec = BitVec.ofNat 64 g.kernel.trap ∧ t.chunk = Chunk.reset)) ∧
    (¬due → NotDue (.gangRelease gang) s)) ∧
  (∀ (s : State) (n : Nat) (w : Waiting), s.waiting[n]? = some w → let due := w.since + 100 * 16000000 * (w.aged + 1) ≤ s.time.up
    (due → Completes (.priorityAging n) s (fun u => u.waiting[n]? = some { w with aged := w.aged + 1 })) ∧ (¬due → NotDue (.priorityAging n) s)) ∧
  (∀ (s : State) (gang : Nat) (g : Gang) (w : Waiting), s.findGang gang = some g → firstWaiting s.waiting = some w →
    let due := s.spots w.launch = none ∧ g.placed = true ∧ g.released = true ∧ g.ended = false ∧ g.kernel.safepts ≠ [] ∧ g.launch.prio < w.eff
    (due → g.req = .none → Completes (.preemptRequest gang) s (fun u => (∃ h, u.findGang gang = some h ∧ h.req = .preempt ∧ h.reqAt = s.time.up) ∧
      ∀ n t, s.findTid n = some t → t.gang = some gang → t.chunk.isOpen = true → u.has n (fun k => k.cutReq = true))) ∧
    (∀ v, due → g.req = .checkpoint v → Completes (.preemptRequest gang) s (fun u => u.findGang gang = some { g with reqNext := true })) ∧
    (¬due → NotDue (.preemptRequest gang) s)) ∧
  (∀ (s : State) (cell gang o : Nat) (g : Gang), (s.cell cell).owner = some gang → s.findGang gang = some g →
    (countFrom 0 (g.wd * g.ht)).find? (fun k => rectCell g.ox g.oy g.wd g.ht g.launch.ord k == cell) = some o →
    let due := g.req ≠ .none ∧ g.ended = false ∧ o ∉ g.savedCells ∧ s.cellParked g o = true ∧ s.cellQuiet cell = true
    (¬due → NotDue (.cellSave cell) s) ∧
    (due → (∀ t ∈ s.cellThreads g o, t.standsAtSafept = false) → exec (.cellSave cell) s = .next (s.cellSaved g o)) ∧
    (∀ v, due → s.cellThreads g o = [] → g.req = .checkpoint v → Completes (.cellSave cell) s (fun u => ∃ h, u.findGang gang = some h ∧ o ∈ h.savedCells)) ∧
    (due → s.cellThreads g o = [] → g.req = .preempt → Completes (.cellSave cell) s (fun u => (u.cell cell).owner = none ∧
      ∃ h, u.findGang gang = some h ∧ h.everPreempted = true ∧ (o ∈ h.savedCells ∨ h.swapped = true))) ∧
    (∀ t, due → lowestRank ((s.cellThreads g o).filter (·.standsAtSafept)) = some t → (s.allThreads.map (·.tid)).Nodup → t.arch.frames.length < Config.frameLimit →
      Completes (.cellSave cell) s (fun u => u.has t.tid (fun k => k.st = .runnable ∧ k.arch.pc = BitVec.ofNat 64 (g.kernel.safePoint t.safeId).save ∧
        k.arch.depth = t.arch.depth + 1 ∧ k.wait = .none)))) ∧
  (∀ (s : State) (gang : Nat) (g : Gang), s.findGang gang = some g →
    let here := g.ended = false ∧ g.swapped = false
    let due := here ∧ g.req = .preempt ∧ g.reqAt + 100 * 16000000 ≤ s.time.up
    let free := ∀ o ∈ g.savedCells, s.cellFree (rectCell g.ox g.oy g.wd g.ht g.launch.ord o) = true
    (¬due → g.req ≠ .none ∨ ¬here ∨ g.savedCells = [] ∨ ¬free → NotDue (.preemptCancel gang) s) ∧
    (here → g.req = .none → g.savedCells ≠ [] → free → Completes (.preemptCancel gang) s (fun u => (∃ h, u.findGang gang = some h ∧ h.savedCells = []) ∧
      ∀ o ∈ g.savedCells, (u.cell (rectCell g.ox g.oy g.wd g.ht g.launch.ord o)).owner = some gang)) ∧
    (due → g.savedCells = [] → Completes (.preemptCancel gang) s (fun u => u.findGang gang = some { g with req := .none } ∧
      ((s.allThreads.map (·.tid)).Nodup → ∀ t ∈ s.allThreads, t.gang = some gang → t.st = .parked → (∃ n, t.wait = .safept n) →
        u.has t.tid (fun k => k.safeResult = some 0 ∧ k.st = .runnable))))) ∧
  (∀ (s : State) (gang : Nat) (g : Gang), s.findGang gang = some g →
    let ahead := ∃ w, firstWaiting s.waiting = some w ∧ g.launch.prio < w.eff
    (g.swapped = false ∨ g.ended = true ∨ ahead ∨ s.restoreSpot g = none → NotDue (.gangRestore gang) s) ∧
    (∀ a, g.swapped = true → g.ended = false → ¬ahead → s.restoreSpot g = some a → Completes (.gangRestore gang) s (fun u =>
      ∃ h, u.findGang gang = some h ∧ h.ox = a.1 ∧ h.oy = a.2 ∧ h.placed = true ∧ h.swapped = false ∧ ∀ c ∈ h.cells, (u.cell c).owner = some gang))) ∧
  (∀ (s : State) (gang : Nat) (g : Gang), s.findGang gang = some g → g.mate = none → g.exact = false →
    let done := (g.released = true ∨ g.ended = true) ∧ s.hasLive gang = false ∧ s.outstanding gang = false
    (¬done → NotDue (.gangCompletion gang) s) ∧
    (done → g.launch.tsaddr = 0 → g.launch.rrm = 0 → Completes (.gangCompletion gang) s (fun u =>
      u.gangs.map (·.ident) = (s.gangs.filter (fun h => h.ident != gang)).map (·.ident) ∧ (∀ c, (s.cell c).owner = some gang → (u.cell c).owner = none) ∧
      (∀ t ∈ u.threads, t.gang ≠ some gang) ∧
      let r := s.cplRing g.launch.port g.launch.cring
      let done : Completed := { inst := g.launch.inst, lid := g.launch.lid, ids := g.launch.ids, code := if g.ended then g.code else 0, triggered := g.triggered }
      r.waiting = [] → (r.en = true ∧ r.full = false → u.completed.getLast? = some done) ∧ (r.en = false ∨ r.full = true → done ∈ u.unwritten)))) ∧
  (∀ s : State, let v := s.service
    let due := v.drain = .draining ∧ v.killMs ≠ 0 ∧ v.drainAt + v.killMs * 16000000 ≤ s.time.up
    (due → Completes .drainKillTimeout s (fun u => u.waiting = [] ∧ ∀ g ∈ u.gangs, g.ended = true)) ∧ (¬due → NotDue .drainKillTimeout s)) ∧
  (∀ (s : State) (asid : BitVec 16), let due := fun (c : Ckpt) => c.asid == asid && !c.running && (c.mode != 2 || decide (c.nextAt ≤ s.time.up))
    (s.ckpts.find? due = none → NotDue (.ckptTrigger asid) s) ∧
    (∀ c, s.ckpts.find? due = some c →
      let free := s.ckptRuns asid = false ∧ (s.jobGangs asid).any Gang.beingSaved = false ∧ (s.jobThreads asid).any (·.routine.isSome) = false
      (¬free → NotDue (.ckptTrigger asid) s) ∧
      (free →
        ((∀ g ∈ s.jobGangs asid, g.kernel.safepts = []) → Completes (.ckptTrigger asid) s (fun u => u.ckpts.length + 1 = s.ckpts.length)) ∧
        ((∃ g ∈ s.jobGangs asid, g.kernel.safepts ≠ []) → (c.mode = 1 → c.period ≠ 0) →
          let j := s.jobStep asid
          let target := BitVec.ofNat 64 (if c.mode = 1 then (j / c.period.toNat + 1) * c.period.toNat else j + 1)
          Completes (.ckptTrigger asid) s (fun u => u.runningCkpt asid = some { c with running := true, target := target, startAt := s.time.up } ∧
            ∀ g ∈ s.jobGangs asid, ∃ h ∈ u.gangs, h.ident = g.ident ∧ h.req = .checkpoint target))))) ∧
  (∀ (s : State) (asid : BitVec 16) (c : Ckpt), s.ckpts.filter (fun d => d.asid == asid && d.running) = [c] →
    let ends := fun (i : Instr) => Completes i s (fun u => u.runningCkpt asid = none ∧
      ∀ g ∈ u.gangs, g.launch.asid = asid → g.ended = false → ∀ v, g.req ≠ .checkpoint v)
    let k := s.asking (gatherKey asid)
    (c.carav = none → s.jobSaved asid = false → NotDue (.ckptGather asid) s) ∧
    (c.carav = none → s.jobSaved asid = true →
      let pairs := ((s.jobGangs asid).map (fun g => (countFrom 0 (g.wd * g.ht)).map (fun o => (g, o)))).flatten
      ∀ areas s1 tab s2 old s3 id, k.areaShards pairs = some areas → k.jobWords asid c.rtab.toNat (2 * c.count) = (s1, some tab) →
        let xs := areas ++ regionShards tab c.count
        (∀ x ∈ regionShards tab c.count, x.va % 4096 = 0 ∧ x.len % 4096 = 0) → xs.length ≤ 16320 → sumOf (·.len) xs ≤ c.slotsz.toNat →
        s1.jobWords asid c.pool.toNat 8 = (s2, some old) → s2.openCkpt asid = (s3, some id) → s3.fabric.held = false →
        Completes (.ckptGather asid) s (fun u => u.caravans = s3.caravans ∧ ∃ d, u.runningCkpt asid = some d ∧ d.carav = some id ∧ d.shards = xs ∧
          d.slot = 1 - (manifestOf old).slot)) ∧
    (∀ id, c.carav = some id → c.stored = false → (s.caravan id).st = .opened →
      let cid := BitVec.ofNat 64 (s.cidOf id).toNat
      let done := c.crcs.length
      let offset := fun (i : Nat) => sumOf (fun (x : Shard) => x.len) (c.shards.take i)
      let takes := fun (s1 : State) (d : Ckpt) => Completes (.ckptGather asid) s (fun u => u.runningCkpt asid = some d ∧ u.released = s1.released ∧
        u.caravans = s1.caravans ∧ u.mem = s1.mem)
      (∀ x s1, c.entered < done → c.shards[c.entered]? = some x →
        k.ckptLine c id (c.pool.toNat + 4096 + 64 * c.entered) [c.target, cid, BitVec.ofNat 64 x.kind, BitVec.ofNat 64 x.source,
          BitVec.ofNat 64 (offset c.entered), BitVec.ofNat 64 x.len, BitVec.ofNat 64 (c.crcs.getD c.entered 0), 0] = (s1, true) → s1.fabric.held = false →
        takes s1 { c with entered := c.entered + 1 }) ∧
      (∀ x s1 crc, done ≤ c.entered → c.shards[done]? = some x →
        k.copyShard c x (slotBase c.pool.toNat c.slotsz.toNat c.slot + offset done) = (s1, .ok crc) → s1.fabric.held = false →
        takes s1 { c with crcs := c.crcs ++ [crc] }) ∧
      (∀ x s1 code side, done ≤ c.entered → c.shards[done]? = some x →
        k.copyShard c x (slotBase c.pool.toNat c.slotsz.toNat c.slot + offset done) = (s1, .error (.copy code side)) → s1.fabric.held = false →
        ends (.ckptGather asid)) ∧
      (∀ s1, done ≤ c.entered → c.shards.length ≤ done →
        k.ckptLine c id c.pool.toNat [c.target, cid, BitVec.ofNat 64 c.slot, BitVec.ofNat 64 c.shards.length, s.time.now, 0, 0, 0] = (s1, true) →
        s1.fabric.held = false → takes s1 { c with stored := true })) ∧
    (∀ id s1 outcome, c.carav = some id → c.stored = true ∨ (s.caravan id).st ≠ .opened → s.cvTurn id = (s1, .ended outcome) → ends (.ckptGather asid)) ∧
    let late := c.stored = false ∧ c.startAt + s.service.gatherMs * 16000000 ≤ s.time.up
    (late → ends (.ckptGatherTimeout asid)) ∧ (¬late → NotDue (.ckptGatherTimeout asid) s))

/-- Caravan events (10: R183 to R191, R194; 13: R231). Entries are as the model keeps them: `gone` marks one that was published or discarded, `old` a decided one whose identifier has come into use again. The model's choices, and no rule of the spec: what an early ABORT and a decision of an unknown deadline come to, deadlines in stages and queries, and the other points of log entry 41; an event that is not due changes nothing (log entry 7). -/
def Obligations.CaravanProtocol : Prop :=
  (∀ (s : State) (n : Nat) (r : Released) (cid : BitVec 32) (gen : BitVec 16) (seq : Nat) (l : Loc) (cs : List MCell) (d : W64),
    s.released[n]? = some r → r.item = .stage cid gen seq l cs d →
    let done := fun (post : State → Prop) => Completes (.cvStageArrival n) s (fun u => u.released = dropAt s.released n ∧ post u)
    let bad := Config.hbmEnd ≤ l.pa ∨ s.permits (s.initOf r.tid) l.pa true = false ∨ s.poisonedAt l 1 = true
    (l.home = none → s.stageLives cid gen = false → done (fun u => u.cvDests = s.cvDests)) ∧
    (l.home = none → s.stageLives cid gen = true → s.cvDest cid = none → ¬bad → s.innUsed (s.homeDie l.pa) + 64 ≤ Config.innBytes →
      done (fun u => u.cvDest cid = some { CvDest.fresh cid (some gen) d with staged := 1, inn := mergeInn [] seq cs })) ∧
    (∀ e, l.home = none → s.stageLives cid gen = true → s.cvDest cid = some e → e.gen = some gen → e.gone = false → e.expect = none →
      let full := (∃ k ∈ linesOf (cs.map (·.1)), k ∉ linesOf (e.inn.map (·.1))) ∧ Config.innBytes < s.innUsed (s.homeDie l.pa) + 64
      (bad → done (fun u => u.cvDest cid = some { e with staged := e.staged + 1, bad := true })) ∧
      (¬bad → full → done (fun u => u.cvDest cid = some { e with staged := e.staged + 1, refused := true })) ∧
      (¬bad → ¬full → done (fun u => u.cvDest cid = some { e with staged := e.staged + 1, inn := mergeInn e.inn seq cs }))) ∧
    (s.isHere l = false → s.routeHeld (s.homeOf l) .a = true → NotDue (.cvStageArrival n) s) ∧
    (s.isHere l = false → s.routeHeld (s.homeOf l) .a = false → s.cvOurs cid = true → s.stageLives cid gen = true →
      let c := s.caravan (cidRecord cid)
      (s.homeFail l .wounoLink = none → done (fun u => u.caravan (cidRecord cid) = { c with out := c.out ++ [(s.homeOf l, seq, cs)] })) ∧
      (s.homeFail l .wounoLink = some 1 → done (fun u => s.homeOf l ∈ (u.caravan (cidRecord cid)).undelivered)) ∧
      (∀ k, s.homeFail l .wounoLink = some k → k ≠ 1 → done (fun u => (s.homeOf l, .fault) ∈ (u.caravan (cidRecord cid)).answers)))) ∧
  (∀ (s : State) (n : Nat) (r : Released) (cs : List MCell) (t : Thread), s.released[n]? = some r → r.item = .gstage cs → s.findTid r.tid = some t →
    (s.heldBack n = true → NotDue (.cvStageArrival n) s) ∧
    (s.heldBack n = false → t.item.inItem = true → t.item.checked = false → Completes (.cvStageArrival n) s (fun u =>
      u.released = dropAt s.released n ∧ u.has r.tid (fun k => k.item = { t.item with staged := t.item.staged ++ cs })))) ∧
  (∀ (s : State) (cid : BitVec 32) (parts : List (BitVec 16)) (count : Nat) (d : W64),
    (s.cvOurs cid = true → NotDue (.cvPrepare cid parts count d) s) ∧
    (s.cvOurs cid = false → s.cvDest cid = none → 0 < count → Completes (.cvPrepare cid parts count d) s (fun u =>
      u.cvDest cid = some { CvDest.fresh cid none d with parts := parts, expect := some count } ∧ u.fabric.sent = s.fabric.sent)) ∧
    (∀ e, s.cvOurs cid = false → s.cvDest cid = some e → e.gone = true → e.d = d → NotDue (.cvPrepare cid parts count d) s) ∧
    (∀ e, s.cvOurs cid = false → s.cvDest cid = some e → e.gone = true ∨ e.commit ≠ none → e.d ≠ d → 0 < count → Completes (.cvPrepare cid parts count d) s (fun u =>
      u.cvDest cid = some { CvDest.fresh cid none d with parts := parts, expect := some count } ∧
      (e.gone = false → { e with old := true } ∈ u.cvDests))) ∧
    (∀ e, s.cvOurs cid = false → s.cvDest cid = some e → e.gone = false → e.commit = none → e.confirmed = false → count ≤ e.staged →
      (e.refused = false → e.bad = false → Completes (.cvPrepare cid parts count d) s (fun u => u.fabric.sent = s.fabric.sent ++ [.confirm cid .ok] ∧
        u.cvDest cid = some { e with parts := parts, expect := some count, d := d, confirmed := true })) ∧
      (e.refused = true ∨ e.bad = true → Completes (.cvPrepare cid parts count d) s (fun u =>
        u.fabric.sent = s.fabric.sent ++ [.confirm cid (if e.refused then .overflow else .fault)] ∧ ∃ k, u.cvDest cid = some k ∧ k.gone = true ∧ k.inn = [])))) ∧
  (∀ (s : State) (cid : BitVec 32) (dest : BitVec 16) (ans : CvAnswer), let id := cidRecord cid
    let c := s.caravan id
    let others := c.dests.filter (fun p => p.1 != s.moduleId)
    let ends := fun (i : Instr) (code : Nat) => Completes i s (fun u => (u.caravan id).st = .done ∧ (u.caravan id).outcome = code ∧
      u.fabric.sent = s.fabric.sent ++ others.map (fun p => CvMsg.abort cid p.1) ∧ ∀ k, u.cvDest cid = some k → k.gone = true)
    let mine := s.cvOurs cid = true ∧ s.cidOf id = cid ∧ c.st = .preparing ∧ dest ∈ c.dests.map (·.1)
    (mine → dest ∉ c.answers.map (·.1) →
      let c1 := { c with answers := c.answers ++ [(dest, ans)] }
      let agreed := c1.undelivered = [] ∧ (∀ a ∈ c1.answers, a.2 = .ok) ∧ s.time.now.toNat + 200 * 16000 < c.d.toNat
      let t := satAdd s.time.now (c.lead * 16000)
      (c1.answered = false → Completes (.cvConfirm cid dest ans) s (fun u => u.caravan id = c1)) ∧
      (c1.answered = true → agreed → Completes (.cvConfirm cid dest ans) s (fun u => u.caravan id = { c1 with st := .publishing, t := t } ∧
        u.fabric.sent = s.fabric.sent ++ others.map (fun p => CvMsg.commit cid p.1 t) ∧ { cid := cid, d := c.d, commit := some t } ∈ u.decisions)) ∧
      (c1.answered = true → ¬agreed → ends (.cvConfirm cid dest ans) (if ∃ a ∈ c1.answers, a.2 = .overflow then 2 else if c1.undelivered ≠ [] then 3
        else if ∃ a ∈ c1.answers, a.2 = .fault then 5 else 4))) ∧
    (c.st ≠ .preparing → NotDue (.cvConfirm cid dest ans) s ∧ NotDue (.cvUndeliverable cid dest) s) ∧
    (mine → let c1 := { c with undelivered := dedup (c.undelivered ++ [dest]) }
      (c1.answered = false → Completes (.cvUndeliverable cid dest) s (fun u => u.caravan id = c1)) ∧
      (c1.answered = true → ends (.cvUndeliverable cid dest) (if ∃ a ∈ c.answers, a.2 = .overflow then 2 else 3))) ∧
    (s.cvOurs cid = true → s.cidOf id = cid →
      (c.st = .opened → c.d.toNat ≤ s.time.now.toNat → ends (.cvDeadline cid) 4) ∧
      (c.st = .preparing → c.d.toNat ≤ s.time.now.toNat + 200 * 16000 → c.answers = [] → c.undelivered = [] → ends (.cvDeadline cid) 4) ∧
      (c.st = .publishing → c.d.toNat ≤ s.time.now.toNat → Completes (.cvDeadline cid) s (fun u => u.caravan id = { c with st := .done, outcome := 0 })) ∧
      (s.time.now.toNat + 200 * 16000 < c.d.toNat → NotDue (.cvDeadline cid) s))) ∧
  (∀ (s : State) (cid : BitVec 32) (dest : BitVec 16) (t : W64) (skew : Bool), let id := cidRecord cid
    let c := s.caravan id
    (s.cvOurs cid = false ∨ dest = s.moduleId → NotDue (.cvPublishAck cid dest t skew) s) ∧
    (s.cvOurs cid = true → dest ≠ s.moduleId → c.st = .publishing → dest ∈ c.dests.map (·.1) → dest ∉ c.acked →
      Completes (.cvPublishAck cid dest t skew) s (fun u => let k := u.caravan id
        k.acked = c.acked ++ [dest] ∧ k.tlast = (if c.tlast.toNat < t.toNat then t else c.tlast) ∧ k.skew = (c.skew || skew) ∧
        ((∀ p ∈ c.dests, p.1 = dest ∨ p.1 ∈ c.acked) → k.st = .done ∧ k.outcome = 0) ∧
        (¬(∀ p ∈ c.dests, p.1 = dest ∨ p.1 ∈ c.acked) → k.st = .publishing)))) ∧
  (∀ (s : State) (cid : BitVec 32) (d : W64) (asker : BitVec 16),
    let known := fun (v : W64) => s.decisions.find? (fun e => e.cid == cid && e.d == v)
    let tells := fun (r : CvQueryReply) => Completes (.cvQuery cid d asker) s (fun u => u.fabric.sent = s.fabric.sent ++ [.answer cid asker r])
    (∀ k, known d = some k → tells (match k.commit with | some t => .holdsCommit t | none => .aborted)) ∧
    (∀ k, known d = none → known 0 = some k →
      ((∃ x ∈ s.cvDests, x.cid = cid ∧ x.d = d) → tells .undecided) ∧
      (¬(∃ x ∈ s.cvDests, x.cid = cid ∧ x.d = d) → tells (match k.commit with | some t => .holdsCommit t | none => .aborted))) ∧
    ((∀ e ∈ s.decisions, e.cid = cid → e.d ≠ d ∧ e.d ≠ 0) → tells .undecided) ∧
    (s.cvOurs cid = false → s.cvDest cid = none → Completes (.cvAbort cid) s (fun u => ∃ k, u.cvDest cid = some k ∧ k.gone = true))) ∧
  (∀ (s : State) (cid : BitVec 32) (e : CvDest) (t : W64),
    let now := s.time.now.toNat
    let cands := fun (p : CvDest → Bool) => s.cvDests.filter (fun d => d.cid == cid && !d.gone && d.commit.isSome && p d)
    let first := fun (p : CvDest → Bool) => e ∈ cands p ∧ e.commit = some t ∧ ∀ k ∈ cands p, ∀ u, k.commit = some u → k = e ∨ t.toNat < u.toNat
    let free := s.cvHeld e = false ∧ s.cvBehind e t = false
    (cands (fun d => !d.locked) = [] → NotDue (.cvPrelock cid) s) ∧ (cands (fun _ => true) = [] → NotDue (.cvPublish cid) s) ∧
    (first (fun d => !d.locked) →
      let due := t.toNat ≤ now + 2 * 16000 ∧ free ∧ s.tokenBars e.owner = false
      (¬due → NotDue (.cvPrelock cid) s) ∧
      (due → Completes (.cvPrelock cid) s (fun u => u.cvDests = s.cvDests.map (fun k => if k = e then { e with locked := true } else k) ∧
        u.locks = s.locks ++ e.lines.map (fun l => (l, e.owner))))) ∧
    (first (fun _ => true) →
      let due := t.toNat ≤ now ∧ free ∧ (e.locked = true ∨ s.tokenBars e.owner = false)
      (¬due → NotDue (.cvPublish cid) s) ∧
      (due → Completes (.cvPublish cid) s (fun u =>
        (e.old = true → u.cvDests = s.cvDests.filter (fun k => k != e)) ∧
        (e.old = false → u.cvDests = s.cvDests.map (fun k => if k.current cid then { k with inn := [], gone := true, locked := false } else k)) ∧
        (∀ p ∈ u.locks, p.2 = e.owner → p.1 ∉ e.lines) ∧
        (s.untraced → (e.inn.map (·.1)).Nodup → ∀ p ∈ e.inn, u.byteAt p.1 = p.2.2) ∧
        (s.cvOurs cid = false → u.fabric.sent = s.fabric.sent ++ [.ack cid s.time.now (s.time.st != .locked)]))))) ∧
  (∀ (s : State) (cid : BitVec 32) (e : CvDest), s.cvDest cid = some e →
    let now := s.time.now.toNat
    let queries := (s.cvAsked e).map (fun m => CvMsg.query cid e.d m)
    let drops := fun (i : Instr) => Completes i s (fun u => (∃ k, u.cvDest cid = some k ∧ k.gone = true ∧ k.inn = []) ∧
      { cid := cid, d := e.d, commit := none } ∈ u.decisions ∧ ∀ p ∈ u.locks, p.2 ≠ cvOwner cid)
    (∀ t, (s.cvOurs cid = false ∧ e.gone = false ∧ e.confirmed = true ∧ e.commit = none → Completes (.cvCommit cid t) s (fun u =>
        u.cvDest cid = some { e with commit := some t } ∧ { cid := cid, d := e.d, commit := some t } ∈ u.decisions)) ∧
      (¬(s.cvOurs cid = false ∧ e.gone = false ∧ e.confirmed = true ∧ e.commit = none) → NotDue (.cvCommit cid t) s)) ∧
    (s.cvOurs cid = false → (e.gone = false → e.commit = none → drops (.cvAbort cid)) ∧ (e.gone = true → NotDue (.cvAbort cid) s) ∧
      (e.gone = false → e.commit ≠ none → Completes (.cvAbort cid) s (fun u => (∃ k, u.cvDest cid = some k ∧ k.gone = true) ∧ { e with old := true } ∈ u.cvDests))) ∧
    (s.cvOurs cid = false →
      let due := e.gone = false ∧ e.commit = none ∧ e.asked = false ∧ e.d.toNat ≤ now
      (¬due → NotDue (.cvDeadline cid) s) ∧ (due → e.confirmed = false → drops (.cvDeadline cid)) ∧
      (due → e.confirmed = true → Completes (.cvDeadline cid) s (fun u => u.fabric.sent = s.fabric.sent ++ queries ∧
        u.cvDest cid = some { e with asked := true, askedAt := s.time.up }))) ∧
    let doubts := e.gone = false ∧ e.confirmed = true ∧ e.commit = none ∧ e.asked = true
    (∀ part ans, (¬doubts ∨ part ∉ s.cvAsked e → NotDue (.cvQueryAnswer cid part ans) s) ∧
      (doubts → part ∈ s.cvAsked e →
        (∀ t, ans = .holdsCommit t → Completes (.cvQueryAnswer cid part ans) s (fun u => u.cvDest cid = some { e with commit := some t })) ∧
        (ans = .aborted → drops (.cvQueryAnswer cid part ans)) ∧
        (ans = .undecided ∨ ans = .dead →
          let e1 := { e with replies := e.replies.filter (fun r => r.1 != part) ++ [(part, ans)] }
          ((∀ m ∈ s.cvAsked e, ∃ r ∈ e1.replies, r.1 = m ∧ (r.2 = .undecided ∨ r.2 = .dead)) → drops (.cvQueryAnswer cid part ans)) ∧
          (¬(∀ m ∈ s.cvAsked e, ∃ r ∈ e1.replies, r.1 = m ∧ (r.2 = .undecided ∨ r.2 = .dead)) →
            Completes (.cvQueryAnswer cid part ans) s (fun u => u.cvDest cid = some e1))))) ∧
    (doubts → e.askedAt + 16000000 ≤ s.time.up → Completes (.cvQueryInterval cid) s (fun u => u.fabric.sent = s.fabric.sent ++ queries ∧
      u.cvDest cid = some { e with askedAt := s.time.up })) ∧
    (¬doubts ∨ s.time.up < e.askedAt + 16000000 → NotDue (.cvQueryInterval cid) s) ∧
    (doubts → e.d.toNat + s.service.indoubtS * 1000 * 16000000 ≤ now → drops (.cvIndoubtLimit cid) ∧ Completes (.cvIndoubtLimit cid) s (fun u =>
      ∃ h, u.health.events.getLast? = some h ∧ h.kind = .caravanIndoubt ∧ h.arg = cid.toNat)) ∧
    (¬doubts ∨ now < e.d.toNat + s.service.indoubtS * 1000 * 16000000 → NotDue (.cvIndoubtLimit cid) s))

/-- Fabric and time (04: R83; 11: R206, R207, R210; 12: R214, R217; 13: R231). The model's choice, not the spec's: that an event which is not due changes nothing (log entry 7); how an offset, a path delay and the best master follow from the messages, and when PPS is lost (entry 14); which clock a time-out counts (entry 27); that a spare's memory is as at reset, and from when a held transfer's 100 us count (entry 43); what every port sends in a sync interval, and that an Announce is believed for three of them (entry 69). -/
def Obligations.FabricAndTime : Prop :=
  (∀ (s : State) (port : Nat),
    let raised := fun (u : State) (k : HealthKind) (a : Nat) => ∃ h, u.health.events.getLast? = some h ∧ h.kind = k ∧ h.arg = a
    (24 ≤ port ∨ s.portUp port = false → NotDue (.linkDown port) s) ∧
    (port < 24 → s.portUp port = true → Completes (.linkDown port) s (fun u => u.portUp port = false ∧ (∀ q, q ≠ port → u.portUp q = s.portUp q) ∧
      raised u .linkDown port ∧
      ((countFrom (3 * (port / 3)) 3).any (fun q => q != port && s.portUp q) = true → u.fabric.reconverging = s.fabric.reconverging) ∧
      ((countFrom (3 * (port / 3)) 3).any (fun q => q != port && s.portUp q) = false → u.fabric.reconverging = true ∧ (port / 3, s.time.up) ∈ u.fabric.falling))) ∧
    (24 ≤ port ∨ s.portUp port = true ∨ s.hasNeighbour (port / 3) = false → NotDue (.linkUp port) s) ∧
    (port < 24 → s.portUp port = false → s.hasNeighbour (port / 3) = true → Completes (.linkUp port) s (fun u => u.portUp port = true ∧ (∀ q, q ≠ port → u.portUp q = s.portUp q) ∧
      raised u .linkUp port))) ∧
  (∀ s : State, (s.fabric.reconverging = false → NotDue .routeReconverged s) ∧
    (s.fabric.reconverging = true → let s1 : State := { s with fabric := { s.fabric with reconverging := false, falling := [] } }
      Completes .routeReconverged s (fun u => u.fabric.reconverging = false ∧ (∀ q, u.portUp q = s.portUp q) ∧
        ∀ r ∈ u.released, r ∈ s.released ∧ ∀ h, s.travels r = some h → s1.noRoute h.1 h.2 = false))) ∧
  (∀ (s : State) (n : Nat) (r : Released) (h : BitVec 16 × FabClass), n < 2 ^ 32 → s.released[n]? = some r → s.travels r = some h →
    (s.heldOut h.1 h.2 r.sentAt = true → Completes (.routeHoldTimeout n) s (fun u => (∀ q ∈ u.released, q ∈ dropAt s.released n) ∧
      (r.item.ofEngine = false → u.released = dropAt s.released n) ∧
      (r.item.ofEngine = true → r.tid ≠ frontTid → ∀ q ∈ u.released, q.item.sameCommand r.item = false))) ∧
    (s.heldOut h.1 h.2 r.sentAt = false → NotDue (.routeHoldTimeout n) s)) ∧
  (∀ (s : State) (n : Nat) (t : Thread) (h : BitVec 16 × FabClass), s.findTid n = some t → t.travels = some h →
    (s.heldOut h.1 h.2 t.waitAt = true → Completes (.routeHoldTimeout (2 ^ 32 + n)) s (fun u => u.has n (fun k => k.st = .runnable ∧ k.replyBad = true ∧ k.arch = t.arch))) ∧
    (s.heldOut h.1 h.2 t.waitAt = false → NotDue (.routeHoldTimeout (2 ^ 32 + n)) s)) ∧
  (∀ (s : State) (ident : BitVec 16), (ident = s.moduleId → NotDue (.spareSubstitution ident) s) ∧
    (ident ≠ s.moduleId → Completes (.spareSubstitution ident) s (fun u => u.mem = s.mem ∧ u.moduleId = s.moduleId ∧
      (∀ pa < 2 ^ 44, Memory.read u.farMem (farKey ident pa) = 0) ∧
      (∀ h, h ≠ ident → ∀ pa < 2 ^ 44, Memory.read u.farMem (farKey h pa) = Memory.read s.farMem (farKey h pa)) ∧
      (∀ p ∈ s.subs, p.2 ≠ 0 → 2097152 * p.1 / 2 ^ 44 = ident.toNat → (p.1, 3) ∈ u.subs) ∧
      ∃ extra, extra ≤ 2 ∧ u.fabric.spares.head? = some (ident, extra)))) ∧
  (∀ (s : State) (entry : Nat), let e := Map.get Slot.reset s.fabric.slots entry
    (e.openAt s.time.now = false → NotDue (.slotOpen entry) s) ∧
    (∀ r cs ea, e.openAt s.time.now = true → s.released = [r] → r.stage = .handed → s.heldBack 0 = false → r.item = .farStore e.dest cs .s ea →
      s.maySend e.dest .s = true → s.farLocked r.tid e.dest (cs.map (·.1)) = false → s.farFail { home := some e.dest, pa := (cs.headD (0, 0, 0)).1 } .s = none →
      Completes (.slotOpen entry) s (fun u => u.released = [{ r with stage := .performed }] ∧
        (e.dest ≠ s.moduleId → u.farMem = Memory.writeMasked s.farMem (cs.map (fun c => (farKey e.dest c.1, c.2)))))) ∧
    ((∀ p ∈ s.fabric.slotWrites, p.1 ≠ entry) → NotDue (.slotTableUpdate entry) s) ∧
    (∀ p, s.fabric.slotWrites.find? (fun p => p.1 == entry) = some p → (s.time.now.toNat < p.2.2 → NotDue (.slotTableUpdate entry) s) ∧
      (p.2.2 ≤ s.time.now.toNat → Completes (.slotTableUpdate entry) s (fun u =>
        Map.get Slot.reset u.fabric.slots entry = p.2.1 ∧ u.fabric.slotWrites = s.fabric.slotWrites.filter (fun q => q.1 != entry))))) ∧
  (∀ (s : State) (msg : PtpTime), let t := s.time
    let st := if t.st = .freerun then TbState.acquiring else t.st
    let good := if t.st = .freerun then 0 else t.good
    let disciplined := fun (u : State) (o : Int) (src : Nat) =>
      let run := if o.natAbs ≤ 160 then good + 1 else 0
      u.time.src = src ∧ u.time.syncAt = t.up ∧ u.time.up = t.up ∧
      (st = .locked → u.time.st = (if 320 < o.natAbs then .holdover else .locked)) ∧
      (st ≠ .locked → (16 ≤ run → u.time.st = .locked) ∧ (run < 16 → u.time.st = st ∧ u.time.good = run)) ∧
      (-2147483648 ≤ o → o < 2147483648 → u.time.offs = BitVec.ofInt 32 o) ∧
      (st = .acquiring → 16000000 < o → u.time.now = satAdd t.now o.toNat ∧ u.time.hold = 0) ∧
      let far := st = .acquiring ∧ 16000000 < o.natAbs
      (o < 0 → far ∨ 0 < t.hold → u.time.now = t.now ∧ u.time.hold = o.natAbs ∧ u.time.slew = 0) ∧
      (¬far → 0 ≤ o ∨ t.hold = 0 → u.time.now = t.now ∧ u.time.slew = o ∧ u.time.hold = 0)
    let epoch := s.service.tbepoch * 16000000000
    let valid := msg.valid = true ∧ (∃ b, s.master = some b ∧ b.1 = msg.port) ∧ msg.domain = s.service.ptpDomain ∧ epoch ≤ msg.ptp ∧ msg.ptp < epoch + 2 ^ 64
    (¬valid → NotDue (.sync msg) s ∧ NotDue (.followUp msg) s) ∧
    (valid → Completes (.sync msg) s (fun u => u.time.st = st ∧ u.time.src = 1 ∧ u.time.syncAt = t.up ∧ u.time.syncSeen = true ∧ u.time.syncRx = t.now ∧ u.time.now = t.now)) ∧
    (t.syncSeen = false → NotDue (.followUp msg) s) ∧
    (valid → t.syncSeen = true → let delay : Int := match s.master with | some b => Map.get 0 t.pathDelay b.1 | none => 0
      Completes (.followUp msg) s (fun u => disciplined u ((msg.ptp : Int) - epoch + delay - t.syncRx.toNat) 1 ∧ u.time.syncSeen = false)) ∧
    (s.service.pps = false → NotDue .ppsEdge s) ∧
    (s.service.pps = true → let r : Nat := t.now.toNat % 16000000000
      Completes .ppsEdge s (fun u => disciplined u (if 2 * r ≤ 16000000000 then -(r : Int) else 16000000000 - (r : Int)) 2))) ∧
  (∀ (s : State) (port prio domain : Nat) (v : Int), let t := s.time
    let up := port < 24 ∧ s.portUp port = true
    let mine := ∃ b, s.master = some b ∧ b.1 = port
    let heard := fun (m : Nat × Nat × Nat) => m ∈ t.masters ∧ m.2.1 < s.service.ptpRank ∧ t.up ≤ m.2.2 + 3 * 1000000000
    (s.master = none ↔ ∀ m, ¬heard m) ∧
    (∀ b, s.master = some b → (∃ m, heard m ∧ m.1 = b.1 ∧ m.2.1 = b.2) ∧ ∀ m, heard m → b.2 < m.2.1 ∨ (b.2 = m.2.1 ∧ b.1 ≤ m.1)) ∧
    (up → Completes (.pdelayReq port) s (fun u => u.time = { t with sent := t.sent ++ [(port, .pdelayResp), (port, .pdelayRespFollowUp)] })) ∧ (¬up → NotDue (.pdelayReq port) s) ∧
    (port < 24 → Completes (.pdelayResp port v) s (fun u => Map.get 0 u.time.turn port = v ∧ u.time.now = t.now)) ∧
    (port < 24 → Completes (.pdelayRespFollowUp port v) s (fun u => Map.get 0 u.time.pathDelay port = (Map.get 0 t.turn port - v) / 2 ∧ u.time.now = t.now)) ∧
    (port < 24 → domain = s.service.ptpDomain → Completes (.announce port { prio := prio, domain := domain }) s (fun u =>
      u.time = { t with masters := t.masters.filter (fun m => m.1 != port) ++ [(port, prio, t.up)] })) ∧
    (24 ≤ port ∨ domain ≠ s.service.ptpDomain → NotDue (.announce port { prio := prio, domain := domain }) s) ∧
    (up → ¬mine → Completes (.syncInterval port) s (fun u => u.time = { t with sent := t.sent ++ [(port, .pdelayReq), (port, .sync), (port, .followUp), (port, .announce)] })) ∧
    (up → mine → Completes (.syncInterval port) s (fun u => u.time = { t with sent := t.sent ++ [(port, .pdelayReq)] })) ∧ (¬up → NotDue (.syncInterval port) s)) ∧
  (∀ s : State, let t := s.time
    let lost := t.st = .locked ∧ t.syncAt + 4 * (if t.src = 2 then 16000000000 else 1000000000) ≤ t.up
    let beyond := t.st = .holdover ∧ t.holdAt + 160000000000 ≤ t.up
    (lost → Completes .syncLoss s (fun u => u.time = { t with st := .holdover, holdAt := t.up, good := 0 })) ∧ (¬lost → NotDue .syncLoss s) ∧
    (beyond → Completes .holdoverTimeout s (fun u => u.time.st = .freerun ∧ u.time.now = t.now ∧ u.time.up = t.up)) ∧ (¬beyond → NotDue .holdoverTimeout s))

/-- Service and debug events (13: R224, R227, R229 to R232; 14: R244 to R247, R251, R253, R259). The model's choices, and no rule of the spec: an event that is not due changes nothing (log entry 7); what reset leaves where the spec names no value (1), and in memory (2); an image's verification is an operand (13), and so is the configuration table (50); which clock a time-out counts (27); what THROTTLE accepts, how withheld cycles and orbits count (57); what the scheduler's log holds (58). -/
def Obligations.ServiceAndDebug : Prop :=
  (∀ s : State, Completes .moduleReset s (fun u => u.mem = [] ∧ u.farMem = s.farMem ∧ (∀ p, (u.host p).mem = (s.host p).mem) ∧ u.gangs = [] ∧ u.waiting = [] ∧
      u.released = [] ∧ u.caravans = [] ∧ u.time.now = 0 ∧ u.time.st = .freerun ∧ u.service.boot = 0 ∧ u.service.drain = .normal ∧
      (∀ c, u.core c = Core.reset) ∧ (∀ c, u.cell c = Cell.reset) ∧ u.th.st = .vacant ∧ u.threads = [] ∧ u.locks = [] ∧ u.poisoned = [])) ∧
  (∀ (s : State) (img : BootImage) (port : Nat),
    let starts := fun (i : Instr) (n : Nat) => Completes i s (fun u => u.service = { s.service with boot := n, monitor := some img } ∧
      fld u.health.dw1 18 16 = n ∧ u.mem = s.mem ∧ u.moduleId = s.moduleId)
    (∀ m : BootImage, s.service.monitor = some m →
      (tableOk m = false → Completes (.securityBoot img) s (fun u => u.service.boot = 4 ∧ u.service.drain = .retired ∧ fld u.health.dw1 18 16 = 4)) ∧
      (tableOk m = true → Completes (.securityBoot img) s (fun u => u.moduleId = m.moduleId &&& 0xFFFC ∧ u.service.boot = 5 ∧ u.service.columnWidth = m.columnWidth ∧
        u.service.ibnd = m.ibndGiB * 2 ^ 30 ∧ u.service.cthr = m.cthr ∧ u.service.degMin = m.degMin ∧ u.service.degMax = m.degMax ∧ u.service.pinTimeMs = m.pinTimeMs ∧ u.service.indoubtS = m.indoubtS ∧
        u.service.gatherMs = m.gatherMs ∧ u.service.pps = m.pps ∧ u.service.roles = m.roles ∧ u.service.tbepoch = m.tbepoch ∧ u.service.cxl = m.cxl ∧ u.service.firewall = bootFirewall m.firewall ∧ u.mem = s.mem))) ∧
    (s.service.monitor = none → s.service.boot ≠ 0 ∨ s.service.flashBad ≠ none → NotDue (.securityBoot img) s) ∧
    (s.service.monitor = none → s.service.boot = 0 → s.service.flashBad = none →
      (img.imageValid = false → Completes (.securityBoot img) s (fun u => u.service = { s.service with flashBad := some s.time.up })) ∧
      (img.imageValid = true → starts (.securityBoot img) 1)) ∧
    (s.service.flashBad = none → NotDue (.hostImageDelivery port img) s ∧ NotDue .bootImageTimeout s) ∧
    (∀ t, s.service.flashBad = some t →
      let late := t + 60000 * 16000000 ≤ s.time.up
      (s.service.boot ≠ 0 ∨ 2 ≤ port ∨ img.imageValid = false ∨ late → NotDue (.hostImageDelivery port img) s) ∧
      (s.service.boot = 0 → port < 2 → img.imageValid = true → ¬late → starts (.hostImageDelivery port img) 2) ∧
      (s.service.boot = 0 → late → Completes .bootImageTimeout s (fun u => u.service.boot = 3 ∧ u.service.drain = .retired)) ∧
      (s.service.boot ≠ 0 ∨ ¬late → NotDue .bootImageTimeout s))) ∧
  (∀ (s : State) (core : Nat), let v := s.service
    let restarts := fun (i : Instr) => Completes i s (fun u => u.service.restartCount = v.restartCount + 1 ∧ u.service.watchdogAt = s.time.up ∧
      (∃ new, u.service.log = v.log.filter (·.1) ++ new ∧ ∀ p ∈ new, p.1 = true) ∧ (∃ h ∈ u.health.events, h.kind = .watchdog) ∧ (∀ c ∈ u.ckpts, c.running = false) ∧
      (3 ≤ (v.restarts.filter (fun t => decide (s.time.up < t + 1000 * 16000000))).length + 1 → u.service.drain = .retired))
    let silent := s.serving = true ∧ v.watchdogAt + 100 * 16000000 ≤ s.time.up
    Completes .watchdogWrite s (fun u => u.service = { v with watchdogAt := s.time.up }) ∧
    (silent → restarts .watchdogTimeout) ∧ (¬silent → NotDue .watchdogTimeout s) ∧
    (s.serving = true → s.inColumn (cellOf core) = true → restarts (.serviceCrash core)) ∧
    (s.serving = false ∨ s.inColumn (cellOf core) = false → NotDue (.serviceCrash core) s)) ∧
  (∀ s : State, (s.serving = false → NotDue .healthRefresh s) ∧ (s.serving = true → Completes .healthRefresh s (fun u =>
    u.health.seq = s.health.seq + 2 ∧ u.health.live = s.gangs.length ∧ u.health.waiting = sumOf (fun w => w.launch.ids.length) s.waiting ∧
    u.health.refused = s.service.refusedLaunches ∧ fld u.health.dw1 15 0 = s.moduleId.toNat ∧ fld u.health.dw1 18 16 = 5 ∧
    fld u.health.dw1 23 20 = s.service.drain.code ∧ u.health.tbstat = s.tbstat ∧ (∀ c < 2048, u.health.freeCells.getLsbD c = s.cellFree c) ∧
    u.health.events = s.health.events))) ∧
  (∀ (s : State) (island mhz cycles : Nat), let now := s.time.now.toNat
    let ok := island < 72 ∧ 300 ≤ mhz ∧ mhz ≤ 1700 ∧ mhz % 100 = 0 ∧ mhz ≠ Map.get 1700 s.service.islands island
    let near := (s.awaited island).find? (fun v => decide (v ≤ now + 2 * 16000) && decide (now ≤ v + 16000))
    let full := now < Map.get 0 s.service.fullSpeed island ∨ near ≠ none
    (ok → Completes (.throttle island mhz) s (fun u => Map.get 1700 u.service.islands island = mhz ∧
      ∃ h, u.health.events.getLast? = some h ∧ h.kind = .throttle ∧ h.arg = island)) ∧ (¬ok → NotDue (.throttle island mhz) s) ∧
    (∀ v, near = some v → Completes (.waittWindow island) s (fun u => Map.get 0 u.service.fullSpeed island = v + 16000)) ∧
    (near = none → NotDue (.waittWindow island) s) ∧
    (64 ≤ island ∨ full → NotDue (.currentGovernor island cycles) s) ∧
    (island < 64 → ¬full → Completes (.currentGovernor island cycles) s (fun u =>
      Map.get 0 u.service.withheld island = Map.get 0 s.service.withheld island + 16000 * cycles ∧
      ∀ c < 4096, islandOf c = island → (u.core c).dbg.skip = satAdd (s.core c).dbg.skip cycles))) ∧
  (∀ (s : State) (core : Nat), let d := (s.core core).dbg
    let sets := fun (i : Instr) (e : Debug) => Completes i s (fun u => (u.core core).dbg = e ∧ u.th = s.th ∧ u.threads = s.threads ∧ u.mem = s.mem)
    (d.halt = true → NotDue (.dbgctlHalt core) s) ∧ (d.halt = false → sets (.dbgctlHalt core) { d with halt := true, hcause := 1 }) ∧
    (d.halt = false → NotDue (.dbgctlResume core) s) ∧
    (d.halt = true → d.msgs = [] → Completes (.dbgctlResume core) s (fun u => (u.core core).dbg = { d with halt := false } ∧
      ∀ n t, s.findTid n = some t → t.occupies core = true → t.st = .stopped → u.has n (fun k => k.st = .runnable ∧ k.arch = t.arch ∧ k.stepping = false))) ∧
    (s.halted core = false → NotDue (.dbgctlStep core) s) ∧
    (∀ t, s.halted core = true → s.slotTid core d.sslot = some t → t.st = .stopped → Completes (.dbgctlStep core) s (fun u =>
      u.has t.tid (fun k => k.st = .runnable ∧ k.stepping = true))) ∧
    (let slot := s.slotTid core (fld d.dacc 19 16)
      let idx := fld d.dacc 11 0
      (slot = none ∨ (∃ t, slot = some t ∧ t.st ≠ .stopped) → Completes (.daccAccess core) s (fun u => bit (u.core core).dbg.dacc 61 = true ∧ u.th = s.th ∧ u.threads = s.threads)) ∧
      (∀ t, slot = some t → t.st = .stopped → (s.allThreads.map (·.tid)).Nodup →
        (6 ≤ fld d.dacc 15 12 → Completes (.daccAccess core) s (fun u => bit (u.core core).dbg.dacc 61 = true ∧ u.th = s.th ∧ u.threads = s.threads)) ∧
        (bit d.dacc 62 = false → fld d.dacc 15 12 = 0 → idx < 32 → Completes (.daccAccess core) s (fun u => bit (u.core core).dbg.dacc 61 = false ∧
          Map.get 0 (u.core core).dbg.ddata 0 = t.arch.getX idx ∧ u.th = s.th ∧ u.threads = s.threads)) ∧
        (bit d.dacc 62 = true → fld d.dacc 15 12 = 0 → 0 < idx → idx < 32 → Completes (.daccAccess core) s (fun u => bit (u.core core).dbg.dacc 61 = false ∧
          u.has t.tid (fun k => k.arch.getX idx = Map.get 0 d.ddata 0 ∧ k.st = .stopped))) ∧
        (bit d.dacc 62 = true → fld d.dacc 15 12 = 3 → idx = 0 → Completes (.daccAccess core) s (fun u =>
          u.has t.tid (fun k => k.arch.pc = Map.get 0 d.ddata 0 ∧ k.st = .stopped))))) ∧
    (let units := fld d.orbit 31 0 * 16000
      let n := (s.time.up - d.orbitAt) / units
      (n = 0 → NotDue (.orbitEnd core) s) ∧
      (n ≠ 0 → sets (.orbitEnd core) { d with curSet := (d.curSet + n) % (fld d.pmctl 1 0 + 1), orbitAt := d.orbitAt + n * units })) ∧
    sets (.clrCounters core) { d with count := [], trun := [], tena := 0 } ∧ sets (.clrStall core) { d with stall := [] } ∧
    sets (.clrDelay core) { d with dsum := [], dcnt := [] } ∧ sets (.clrRas core) { d with corr := 0, sesq := 0, latent := 0, poisc := 0, skip := 0 } ∧
    sets (.clrTrlost core) { d with trlost := 0 })

/-- Taking a trap (02: R35; 05: R96 to R98). -/
def Obligations.TrapEntry : Prop :=
  (∀ (s : State) (c : Cause) (v : W64), s.th.chunk.isOpen = false → s.gangEnded = false → s.th.deferredDue = false → s.th.merges = [] → s.th.stepping = false →
    let t := s.raise c v
    (s.Handles → t.th.trappc = s.th.arch.pc ∧ t.th.trapcause = BitVec.ofNat 64 (2 ^ 63 + c.code) ∧ t.th.inh = true ∧ t.th.trapval = v ∧
      t.th.arch = { s.th.arch with pc := s.th.trapvec } ∧ t.th.st = .runnable ∧ t.th.seg = s.th.seg ∧ t.th.trapvec = s.th.trapvec ∧
      t.th.asyncerr = s.th.asyncerr ∧ t.th.chunks = s.th.chunks ∧ t.threads.map (·.arch) = s.threads.map (·.arch) ∧
      (s.untraced → ∀ a, t.byteAt a = s.byteAt a)) ∧
    (∀ n g, s.th.trapvec = 0 ∨ s.th.inh = true → s.th.gang = some n → s.findGang n = some g → t.th.st = .exited ∧
      (∃ h, t.findGang n = some h ∧ h.ended = true ∧ h.code = 1 ∧ h.cause = c.code ∧ trapGrade c s.th.asyncerr ≤ h.grade) ∧
      ∀ m, g.mate = some m → ∀ k, s.findGang m = some k → ∃ h, t.findGang m = some h ∧ h.ended = true)) ∧
  (∀ (s : State) (c : Cause) (v : W64), s.th.chunk.isOpen = true → s.th.chunk.wbuf ≠ [] → s.replayed = none →
    s.raise c v = { s with th := { s.th with st := .requesting, after := .trap c v, met := .trap c v } }) ∧
  [Cause.illegal, .combo, .align, .seglimit, .segrights, .role, .breakpoint, .ecall, .token, .ring, .caravan, .timeline, .repeatCount, .page, .farerr,
    .poison, .deferred].map Cause.code = [1, 2, 3, 4, 5, 6, 7, 8, 9, 10, 11, 12, 13, 14, 15, 16, 17]

/-- One step (02: R26; 05: R87; 15: R261, R270). Whose turn it is, is the model's agenda (log entry 4). -/
def Obligations.StepRunsTheDecodedInstruction : Prop :=
  (∀ (s k : State) (rest : List Turn) (w : W32), s.agenda = .select s.th.tid :: rest → ({ s with agenda := rest } : State).Fetches k w →
    (∀ i, decode w = .ok i → step s = exec i k.counted) ∧
    (∀ e, decode w = .error e → step s = .next (k.raise .illegal (w.setWidth 64)))) ∧
  (∀ (s k : State) (w : W32), s.agenda = [] → s.firstDue s.candidates = none → s.th.yielded = false → s.Fetches k w →
    (∀ i, decode w = .ok i → step s = exec i k.counted) ∧
    (∀ e, decode w = .error e → step s = .next (k.raise .illegal (w.setWidth 64)))) ∧
  (∀ (s f k : State) (tid : Nat) (rest : List Turn) (w : W32), s.agenda = .select tid :: rest →
    ({ s with agenda := rest } : State).focus tid = some f → f.Fetches k w → ∀ i, decode w = .ok i → step s = exec i k.counted) ∧
  (∀ (s : State) (i : Instr) (rest : List Turn), s.agenda = .event i :: rest →
    (encode i = none → step s = exec i { s with agenda := rest }) ∧ (encode i ≠ none → step s = .next { s with agenda := rest }))

/-- Sample words (15: R261 to R270). -/
def Obligations.DecodeSamples : Prop :=
  decode (0x01#7 ++ 5#5 ++ 6#5 ++ 7#5 ++ 0#10) = .ok (.add 5 6 7) ∧
  decode 0xB0500000#32 = .ok (.rdtime 5) ∧ decode 0xAA660008#32 = .ok (.cvst 6 12 8) ∧
  decode 0#32 = .error .reservedWord ∧ decode 0xFFFFFFFF#32 = .error .reservedWord ∧
  decode (0x7F#7 ++ 0#25) = .error .unassigned

/-- Encoding and decoding are inverse (15: R261 to R270; the encodings of 16 to 19). -/
def Obligations.EncodeDecode : Prop :=
  (∀ (i : Instr) (w : W32), encode i = some w → decode w = .ok i) ∧
  (∀ (w : W32) (i : Instr), decode w = .ok i → encode i = some w)

/-- An invariant of the model: equal memories are equal data (01: R18, R24; log entry 2). -/
def Obligations.StepKeepsMemory : Prop :=
  ∀ s t : State, s.MemoryOk → step s = .next t → t.MemoryOk

/-- An invariant of the model: an identifier names one context (02: R26, R30; 09: R162). -/
def Obligations.StepKeepsThreads : Prop :=
  ∀ s t : State, s.TidsOk → step s = .next t → t.TidsOk

/-- Reset (01: R16, R24; 04: R78; 11: R206, R207; 13: R224; 14: R243 to R253). The zeros of memory and NORMAL are the model's choices (log entries 2 and 1). -/
def Obligations.ResetState : Prop :=
  State.reset.MemoryOk ∧ State.reset.TidsOk ∧
  State.reset.time.now = 0 ∧ State.reset.time.st = .freerun ∧ State.reset.tbstat = 0 ∧ State.reset.service.boot = 0 ∧ State.reset.service.cthr = 16 ∧
  State.reset.moduleId = 0 ∧ State.reset.gangs = [] ∧ State.reset.waiting = [] ∧ State.reset.caravans = [] ∧ State.reset.locks = [] ∧ State.reset.poisoned = [] ∧
  State.reset.service.drain = .normal ∧ State.reset.allThreads.all (fun t => t.st == .vacant) = true ∧
  (∀ a, State.reset.byteAt a = 0) ∧ (∀ c, (State.reset.cell c).area = 1048576) ∧
  (∀ c, State.reset.windowRead c 0x000 = 0 ∧ State.reset.windowRead c 0x180 = 0 ∧ State.reset.windowRead c 0x200 = 0 ∧ State.reset.windowRead c 0x208 = 1000 ∧
    State.reset.windowRead c 0x108 = 3) ∧
  [0x000, 0x001, 0x002, 0x022, 0x024, 0x030, 0x031, 0x032, 0x040, 0x050, 0x060].map State.reset.csrRead = [0, 0, 0, 0, 0, 0xC0C, 0, 0, 0, 0, 0]
end

