-- ==== Sys2Proof/Laws/Maps.lean ====
section
/-! SUPPORT. Sparse tables and byte memories: read after write, and the canonical form that every write keeps. -/
namespace Sys2Proof.Machine

/-! ## Tables -/

theorem Map.get_put {β : Type} (d : β) (q r : Nat) (v : β) :
    ∀ (m : List (Nat × β)), Map.get d (Map.put m q v) r = if r = q then v else Map.get d m r := by
  intro m
  induction m with
  | nil =>
    by_cases h : r = q
    · simp [Map.put, Map.get, h]
    · simp [Map.put, Map.get, h, Ne.symm h]
  | cons p rest ih =>
    by_cases hk : p.1 = q
    · by_cases h : r = q
      · simp [Map.put, Map.get, hk, h]
      · simp [Map.put, Map.get, hk, h, Ne.symm h]
    · by_cases hlt : q < p.1
      · by_cases h : r = q
        · simp [Map.put, Map.get, hk, hlt, h]
        · simp [Map.put, Map.get, hk, hlt, h, Ne.symm h]
      · by_cases hp : p.1 = r
        · have h : r ≠ q := by omega
          simp only [Map.put, if_neg hk, if_neg hlt, Map.get, if_pos hp, if_neg h]
        · simp only [Map.put, if_neg hk, if_neg hlt, Map.get, if_neg hp, ih]

theorem Map.get_drop {β : Type} (d : β) (q r : Nat) :
    ∀ (m : List (Nat × β)), Map.get d (m.filter (fun p => p.1 != q)) r = if r = q then d else Map.get d m r := by
  intro m
  induction m with
  | nil => simp [Map.get]
  | cons p rest ih =>
    by_cases hk : p.1 = q
    · rw [List.filter_cons_of_neg (by simp [hk]), ih]
      by_cases h : r = q
      · simp [h]
      · have : p.1 ≠ r := by omega
        simp [Map.get, h, this]
    · rw [List.filter_cons_of_pos (by simp [hk])]
      by_cases hp : p.1 = r
      · have h : r ≠ q := by omega
        simp [Map.get, hp, h]
      · simp only [Map.get, if_neg hp, ih]

/-- What a table reads at a key after a set. -/
theorem Map.get_set {β : Type} [DecidableEq β] (d : β) (m : List (Nat × β)) (q r : Nat) (v : β) :
    Map.get d (Map.set d m q v) r = if r = q then v else Map.get d m r := by
  unfold Map.set
  by_cases hv : v = d
  · rw [if_pos hv, Map.get_drop, hv]
  · rw [if_neg hv, Map.get_put]

theorem Map.wfFrom_mono {β : Type} [DecidableEq β] (d : β) :
    ∀ (m : List (Nat × β)) (lo lo' : Nat), lo' ≤ lo → Map.wfFrom d lo m = true → Map.wfFrom d lo' m = true := by
  intro m
  cases m with
  | nil => intros; rfl
  | cons p rest =>
    intro lo lo' hle h
    simp only [Map.wfFrom, Bool.and_eq_true, decide_eq_true_eq] at h ⊢
    exact ⟨⟨by omega, h.1.2⟩, h.2⟩

/-- Dropping entries keeps the canonical form. -/
theorem Map.wfFrom_filter {β : Type} [DecidableEq β] (d : β) (p : Nat × β → Bool) :
    ∀ (m : List (Nat × β)) (lo : Nat), Map.wfFrom d lo m = true → Map.wfFrom d lo (m.filter p) = true := by
  intro m
  induction m with
  | nil => intros; rfl
  | cons c rest ih =>
    intro lo h
    simp only [Map.wfFrom, Bool.and_eq_true, decide_eq_true_eq] at h
    by_cases hp : p c = true
    · rw [List.filter_cons_of_pos hp]
      simp only [Map.wfFrom, Bool.and_eq_true, decide_eq_true_eq]
      exact ⟨h.1, ih (c.1 + 1) h.2⟩
    · rw [List.filter_cons_of_neg hp]
      exact Map.wfFrom_mono d _ (c.1 + 1) lo (by omega) (ih (c.1 + 1) h.2)

theorem Map.wfFrom_put {β : Type} [DecidableEq β] (d : β) (q : Nat) (v : β) (hv : v ≠ d) :
    ∀ (m : List (Nat × β)) (lo : Nat), lo ≤ q → Map.wfFrom d lo m = true → Map.wfFrom d lo (Map.put m q v) = true := by
  intro m
  induction m with
  | nil => intro lo hq _; simp [Map.put, hv, Map.wfFrom, hq]
  | cons p rest ih =>
    intro lo hq h
    simp only [Map.wfFrom, Bool.and_eq_true, decide_eq_true_eq] at h
    obtain ⟨⟨hlo, hne⟩, hrest⟩ := h
    by_cases hk : p.1 = q
    · simp only [Map.put, if_pos hk, Map.wfFrom, Bool.and_eq_true, decide_eq_true_eq]
      exact ⟨⟨hq, hv⟩, hk ▸ hrest⟩
    · by_cases hlt : q < p.1
      · simp only [Map.put, if_neg hk, if_pos hlt, Map.wfFrom, Bool.and_eq_true, decide_eq_true_eq]
        exact ⟨⟨hq, hv⟩, ⟨by omega, hne⟩, hrest⟩
      · simp only [Map.put, if_neg hk, if_neg hlt, Map.wfFrom, Bool.and_eq_true, decide_eq_true_eq]
        exact ⟨⟨hlo, hne⟩, ih (p.1 + 1) (by omega) hrest⟩

/-- A set keeps the canonical form. -/
theorem Map.wf_set {β : Type} [DecidableEq β] (d : β) (m : List (Nat × β)) (q : Nat) (v : β)
    (h : Map.wf d m = true) : Map.wf d (Map.set d m q v) = true := by
  unfold Map.set
  by_cases hv : v = d
  · rw [if_pos hv]; exact Map.wfFrom_filter d _ m 0 h
  · rw [if_neg hv]; exact Map.wfFrom_put d q v hv m 0 (Nat.zero_le q) h

/-- A change of one entry keeps the canonical form. -/
theorem Map.wf_upd {β : Type} [DecidableEq β] (d : β) (m : List (Nat × β)) (k : Nat) (f : β → β)
    (h : Map.wf d m = true) : Map.wf d (Map.upd d m k f) = true :=
  Map.wf_set d m k _ h

/-! ## Byte memories -/

/-- Read after write. -/
theorem Memory.read_write (mem : List Host.Cell) (a q : Nat) (b : Byte) :
    Memory.read (Memory.write mem a b) q = if q = a then b else Memory.read mem q :=
  Map.get_set Memory.blank mem a q b

theorem Memory.wf_write (mem : List Host.Cell) (a : Nat) (b : Byte) (h : Memory.wf mem) : Memory.wf (Memory.write mem a b) :=
  Map.wf_set Memory.blank mem a b h

theorem Memory.wf_writeBytes (bs : List Byte) : ∀ (mem : List Host.Cell) (a : Nat), Memory.wf mem →
    Memory.wf (Memory.writeBytes mem a bs) := by
  induction bs with
  | nil => intro mem a h; exact h
  | cons b bs ih => intro mem a h; exact ih _ _ (Memory.wf_write mem a b h)

theorem Memory.wf_writeCells (cs : List Host.Cell) : ∀ (mem : List Host.Cell), Memory.wf mem → Memory.wf (Memory.writeCells mem cs) := by
  induction cs with
  | nil => intro mem h; exact h
  | cons c cs ih => intro mem h; exact ih _ (Memory.wf_write mem c.1 c.2 h)

theorem Memory.wf_writeMasked (cs : List MCell) : ∀ (mem : List Host.Cell), Memory.wf mem → Memory.wf (Memory.writeMasked mem cs) := by
  induction cs with
  | nil => intro mem h; exact h
  | cons c cs ih => intro mem h; exact ih _ (Memory.wf_write mem c.1 _ h)

theorem Memory.wf_write64 (mem : List Host.Cell) (a : Nat) (v : W64) (h : Memory.wf mem) : Memory.wf (Memory.write64 mem a v) :=
  Memory.wf_writeBytes _ mem a h

theorem Memory.wf_filter (mem : List Host.Cell) (p : Host.Cell → Bool) (h : Memory.wf mem) : Memory.wf (mem.filter p) :=
  Map.wfFrom_filter Memory.blank p mem 0 h

/-- A write of bytes leaves every byte outside them alone. -/
theorem Memory.read_writeBytes_outside (bs : List Byte) : ∀ (mem : List Host.Cell) (a q : Nat),
    (q < a ∨ a + bs.length ≤ q) → Memory.read (Memory.writeBytes mem a bs) q = Memory.read mem q := by
  induction bs with
  | nil => intros; rfl
  | cons b bs ih =>
    intro mem a q hq
    simp only [List.length_cons] at hq
    rw [Memory.writeBytes, ih _ (a + 1) q (by omega), Memory.read_write mem a q b, if_neg (by omega)]

/-- The byte a write of bytes puts at its i-th place. -/
theorem Memory.read_writeBytes_inside (bs : List Byte) : ∀ (mem : List Host.Cell) (a i : Nat),
    (h : i < bs.length) → Memory.read (Memory.writeBytes mem a bs) (a + i) = bs[i] := by
  induction bs with
  | nil => intro mem a i h; simp at h
  | cons b bs ih =>
    intro mem a i hi
    cases i with
    | zero =>
      rw [Memory.writeBytes, Memory.read_writeBytes_outside bs _ (a + 1) (a + 0) (by omega), Memory.read_write mem a _ b]
      simp
    | succ i =>
      have := ih (Memory.write mem a b) (a + 1) i (by simpa using hi)
      rw [Memory.writeBytes, show a + (i + 1) = a + 1 + i by omega, this]
      simp

theorem countFrom_length (lo n : Nat) : (countFrom lo n).length = n := by
  induction n generalizing lo with
  | zero => rfl
  | succ n ih => simp [countFrom, ih]

theorem mem_countFrom (n k lo : Nat) : k ∈ countFrom lo n ↔ lo ≤ k ∧ k < lo + n := by
  induction n generalizing lo with
  | zero => simp [countFrom]
  | succ n ih => simp only [countFrom, List.mem_cons, ih]; omega

/-- A value below 256^n is what its n bytes give back (R5). -/
theorem leNat_leBytes (n v : Nat) : leNat (leBytes n v) = v % 256 ^ n := by
  induction n generalizing v with
  | zero => simp [leBytes, leNat, Nat.mod_one]
  | succ n ih =>
    have h8 : (2 : Nat) ^ 8 = 256 := rfl
    rw [leBytes, leNat, ih, BitVec.toNat_ofNat, h8, Nat.pow_succ', Nat.mod_mul]

end Sys2Proof.Machine
end

