-- ==== Sys2Proof/Laws/State.lean ====
section
/-! SUPPORT. What each update of the state leaves alone, field by field, and what it sets. -/
namespace Sys2Proof.Machine


/-! ### updTh -/

@[simp] theorem State.updTh_threads (s : State) (f : Thread → Thread) : (s.updTh f).threads = s.threads := rfl
@[simp] theorem State.updTh_agenda (s : State) (f : Thread → Thread) : (s.updTh f).agenda = s.agenda := rfl
@[simp] theorem State.updTh_free (s : State) (f : Thread → Thread) : (s.updTh f).free = s.free := rfl
@[simp] theorem State.updTh_nextTid (s : State) (f : Thread → Thread) : (s.updTh f).nextTid = s.nextTid := rfl
@[simp] theorem State.updTh_doorbells (s : State) (f : Thread → Thread) : (s.updTh f).doorbells = s.doorbells := rfl
@[simp] theorem State.updTh_mem (s : State) (f : Thread → Thread) : (s.updTh f).mem = s.mem := rfl
@[simp] theorem State.updTh_farMem (s : State) (f : Thread → Thread) : (s.updTh f).farMem = s.farMem := rfl
@[simp] theorem State.updTh_poisoned (s : State) (f : Thread → Thread) : (s.updTh f).poisoned = s.poisoned := rfl
@[simp] theorem State.updTh_locks (s : State) (f : Thread → Thread) : (s.updTh f).locks = s.locks := rfl
@[simp] theorem State.updTh_position (s : State) (f : Thread → Thread) : (s.updTh f).position = s.position := rfl
@[simp] theorem State.updTh_moduleId (s : State) (f : Thread → Thread) : (s.updTh f).moduleId = s.moduleId := rfl
@[simp] theorem State.updTh_islandTicks (s : State) (f : Thread → Thread) : (s.updTh f).islandTicks = s.islandTicks := rfl
@[simp] theorem State.updTh_cores (s : State) (f : Thread → Thread) : (s.updTh f).cores = s.cores := rfl
@[simp] theorem State.updTh_cells (s : State) (f : Thread → Thread) : (s.updTh f).cells = s.cells := rfl
@[simp] theorem State.updTh_tlbs (s : State) (f : Thread → Thread) : (s.updTh f).tlbs = s.tlbs := rfl
@[simp] theorem State.updTh_keyRegs (s : State) (f : Thread → Thread) : (s.updTh f).keyRegs = s.keyRegs := rfl
@[simp] theorem State.updTh_regions (s : State) (f : Thread → Thread) : (s.updTh f).regions = s.regions := rfl
@[simp] theorem State.updTh_moons (s : State) (f : Thread → Thread) : (s.updTh f).moons = s.moons := rfl
@[simp] theorem State.updTh_farMoons (s : State) (f : Thread → Thread) : (s.updTh f).farMoons = s.farMoons := rfl
@[simp] theorem State.updTh_subs (s : State) (f : Thread → Thread) : (s.updTh f).subs = s.subs := rfl
@[simp] theorem State.updTh_subscribers (s : State) (f : Thread → Thread) : (s.updTh f).subscribers = s.subscribers := rfl
@[simp] theorem State.updTh_pages (s : State) (f : Thread → Thread) : (s.updTh f).pages = s.pages := rfl
@[simp] theorem State.updTh_released (s : State) (f : Thread → Thread) : (s.updTh f).released = s.released := rfl
@[simp] theorem State.updTh_finished (s : State) (f : Thread → Thread) : (s.updTh f).finished = s.finished := rfl
@[simp] theorem State.updTh_gangs (s : State) (f : Thread → Thread) : (s.updTh f).gangs = s.gangs := rfl
@[simp] theorem State.updTh_waiting (s : State) (f : Thread → Thread) : (s.updTh f).waiting = s.waiting := rfl
@[simp] theorem State.updTh_completed (s : State) (f : Thread → Thread) : (s.updTh f).completed = s.completed := rfl
@[simp] theorem State.updTh_tokenQueue (s : State) (f : Thread → Thread) : (s.updTh f).tokenQueue = s.tokenQueue := rfl
@[simp] theorem State.updTh_caravans (s : State) (f : Thread → Thread) : (s.updTh f).caravans = s.caravans := rfl
@[simp] theorem State.updTh_cvDests (s : State) (f : Thread → Thread) : (s.updTh f).cvDests = s.cvDests := rfl
@[simp] theorem State.updTh_decisions (s : State) (f : Thread → Thread) : (s.updTh f).decisions = s.decisions := rfl
@[simp] theorem State.updTh_hostLines (s : State) (f : Thread → Thread) : (s.updTh f).hostLines = s.hostLines := rfl
@[simp] theorem State.updTh_mesi (s : State) (f : Thread → Thread) : (s.updTh f).mesi = s.mesi := rfl
@[simp] theorem State.updTh_hosts (s : State) (f : Thread → Thread) : (s.updTh f).hosts = s.hosts := rfl
@[simp] theorem State.updTh_fabric (s : State) (f : Thread → Thread) : (s.updTh f).fabric = s.fabric := rfl
@[simp] theorem State.updTh_time (s : State) (f : Thread → Thread) : (s.updTh f).time = s.time := rfl
@[simp] theorem State.updTh_service (s : State) (f : Thread → Thread) : (s.updTh f).service = s.service := rfl
@[simp] theorem State.updTh_health (s : State) (f : Thread → Thread) : (s.updTh f).health = s.health := rfl
@[simp] theorem State.updTh_ckpts (s : State) (f : Thread → Thread) : (s.updTh f).ckpts = s.ckpts := rfl
@[simp] theorem State.updTh_set_th (s : State) (f : Thread → Thread) : (s.updTh f).th = f s.th := rfl

/-! ### updArch -/

@[simp] theorem State.updArch_threads (s : State) (f : Arch → Arch) : (s.updArch f).threads = s.threads := rfl
@[simp] theorem State.updArch_agenda (s : State) (f : Arch → Arch) : (s.updArch f).agenda = s.agenda := rfl
@[simp] theorem State.updArch_free (s : State) (f : Arch → Arch) : (s.updArch f).free = s.free := rfl
@[simp] theorem State.updArch_nextTid (s : State) (f : Arch → Arch) : (s.updArch f).nextTid = s.nextTid := rfl
@[simp] theorem State.updArch_doorbells (s : State) (f : Arch → Arch) : (s.updArch f).doorbells = s.doorbells := rfl
@[simp] theorem State.updArch_mem (s : State) (f : Arch → Arch) : (s.updArch f).mem = s.mem := rfl
@[simp] theorem State.updArch_farMem (s : State) (f : Arch → Arch) : (s.updArch f).farMem = s.farMem := rfl
@[simp] theorem State.updArch_poisoned (s : State) (f : Arch → Arch) : (s.updArch f).poisoned = s.poisoned := rfl
@[simp] theorem State.updArch_locks (s : State) (f : Arch → Arch) : (s.updArch f).locks = s.locks := rfl
@[simp] theorem State.updArch_position (s : State) (f : Arch → Arch) : (s.updArch f).position = s.position := rfl
@[simp] theorem State.updArch_moduleId (s : State) (f : Arch → Arch) : (s.updArch f).moduleId = s.moduleId := rfl
@[simp] theorem State.updArch_islandTicks (s : State) (f : Arch → Arch) : (s.updArch f).islandTicks = s.islandTicks := rfl
@[simp] theorem State.updArch_cores (s : State) (f : Arch → Arch) : (s.updArch f).cores = s.cores := rfl
@[simp] theorem State.updArch_cells (s : State) (f : Arch → Arch) : (s.updArch f).cells = s.cells := rfl
@[simp] theorem State.updArch_tlbs (s : State) (f : Arch → Arch) : (s.updArch f).tlbs = s.tlbs := rfl
@[simp] theorem State.updArch_keyRegs (s : State) (f : Arch → Arch) : (s.updArch f).keyRegs = s.keyRegs := rfl
@[simp] theorem State.updArch_regions (s : State) (f : Arch → Arch) : (s.updArch f).regions = s.regions := rfl
@[simp] theorem State.updArch_moons (s : State) (f : Arch → Arch) : (s.updArch f).moons = s.moons := rfl
@[simp] theorem State.updArch_farMoons (s : State) (f : Arch → Arch) : (s.updArch f).farMoons = s.farMoons := rfl
@[simp] theorem State.updArch_subs (s : State) (f : Arch → Arch) : (s.updArch f).subs = s.subs := rfl
@[simp] theorem State.updArch_subscribers (s : State) (f : Arch → Arch) : (s.updArch f).subscribers = s.subscribers := rfl
@[simp] theorem State.updArch_pages (s : State) (f : Arch → Arch) : (s.updArch f).pages = s.pages := rfl
@[simp] theorem State.updArch_released (s : State) (f : Arch → Arch) : (s.updArch f).released = s.released := rfl
@[simp] theorem State.updArch_finished (s : State) (f : Arch → Arch) : (s.updArch f).finished = s.finished := rfl
@[simp] theorem State.updArch_gangs (s : State) (f : Arch → Arch) : (s.updArch f).gangs = s.gangs := rfl
@[simp] theorem State.updArch_waiting (s : State) (f : Arch → Arch) : (s.updArch f).waiting = s.waiting := rfl
@[simp] theorem State.updArch_completed (s : State) (f : Arch → Arch) : (s.updArch f).completed = s.completed := rfl
@[simp] theorem State.updArch_tokenQueue (s : State) (f : Arch → Arch) : (s.updArch f).tokenQueue = s.tokenQueue := rfl
@[simp] theorem State.updArch_caravans (s : State) (f : Arch → Arch) : (s.updArch f).caravans = s.caravans := rfl
@[simp] theorem State.updArch_cvDests (s : State) (f : Arch → Arch) : (s.updArch f).cvDests = s.cvDests := rfl
@[simp] theorem State.updArch_decisions (s : State) (f : Arch → Arch) : (s.updArch f).decisions = s.decisions := rfl
@[simp] theorem State.updArch_hostLines (s : State) (f : Arch → Arch) : (s.updArch f).hostLines = s.hostLines := rfl
@[simp] theorem State.updArch_mesi (s : State) (f : Arch → Arch) : (s.updArch f).mesi = s.mesi := rfl
@[simp] theorem State.updArch_hosts (s : State) (f : Arch → Arch) : (s.updArch f).hosts = s.hosts := rfl
@[simp] theorem State.updArch_fabric (s : State) (f : Arch → Arch) : (s.updArch f).fabric = s.fabric := rfl
@[simp] theorem State.updArch_time (s : State) (f : Arch → Arch) : (s.updArch f).time = s.time := rfl
@[simp] theorem State.updArch_service (s : State) (f : Arch → Arch) : (s.updArch f).service = s.service := rfl
@[simp] theorem State.updArch_health (s : State) (f : Arch → Arch) : (s.updArch f).health = s.health := rfl
@[simp] theorem State.updArch_ckpts (s : State) (f : Arch → Arch) : (s.updArch f).ckpts = s.ckpts := rfl
@[simp] theorem State.updArch_set_th_arch (s : State) (f : Arch → Arch) : (s.updArch f).th.arch = f s.th.arch := rfl
@[simp] theorem State.updArch_set_th_chunk (s : State) (f : Arch → Arch) : (s.updArch f).th.chunk = s.th.chunk := rfl
@[simp] theorem State.updArch_set_th_tid (s : State) (f : Arch → Arch) : (s.updArch f).th.tid = s.th.tid := rfl
@[simp] theorem State.updArch_set_th_core (s : State) (f : Arch → Arch) : (s.updArch f).th.core = s.th.core := rfl

/-! ### updChunk -/

@[simp] theorem State.updChunk_threads (s : State) (f : Chunk → Chunk) : (s.updChunk f).threads = s.threads := rfl
@[simp] theorem State.updChunk_agenda (s : State) (f : Chunk → Chunk) : (s.updChunk f).agenda = s.agenda := rfl
@[simp] theorem State.updChunk_free (s : State) (f : Chunk → Chunk) : (s.updChunk f).free = s.free := rfl
@[simp] theorem State.updChunk_nextTid (s : State) (f : Chunk → Chunk) : (s.updChunk f).nextTid = s.nextTid := rfl
@[simp] theorem State.updChunk_doorbells (s : State) (f : Chunk → Chunk) : (s.updChunk f).doorbells = s.doorbells := rfl
@[simp] theorem State.updChunk_mem (s : State) (f : Chunk → Chunk) : (s.updChunk f).mem = s.mem := rfl
@[simp] theorem State.updChunk_farMem (s : State) (f : Chunk → Chunk) : (s.updChunk f).farMem = s.farMem := rfl
@[simp] theorem State.updChunk_poisoned (s : State) (f : Chunk → Chunk) : (s.updChunk f).poisoned = s.poisoned := rfl
@[simp] theorem State.updChunk_locks (s : State) (f : Chunk → Chunk) : (s.updChunk f).locks = s.locks := rfl
@[simp] theorem State.updChunk_position (s : State) (f : Chunk → Chunk) : (s.updChunk f).position = s.position := rfl
@[simp] theorem State.updChunk_moduleId (s : State) (f : Chunk → Chunk) : (s.updChunk f).moduleId = s.moduleId := rfl
@[simp] theorem State.updChunk_islandTicks (s : State) (f : Chunk → Chunk) : (s.updChunk f).islandTicks = s.islandTicks := rfl
@[simp] theorem State.updChunk_cores (s : State) (f : Chunk → Chunk) : (s.updChunk f).cores = s.cores := rfl
@[simp] theorem State.updChunk_cells (s : State) (f : Chunk → Chunk) : (s.updChunk f).cells = s.cells := rfl
@[simp] theorem State.updChunk_tlbs (s : State) (f : Chunk → Chunk) : (s.updChunk f).tlbs = s.tlbs := rfl
@[simp] theorem State.updChunk_keyRegs (s : State) (f : Chunk → Chunk) : (s.updChunk f).keyRegs = s.keyRegs := rfl
@[simp] theorem State.updChunk_regions (s : State) (f : Chunk → Chunk) : (s.updChunk f).regions = s.regions := rfl
@[simp] theorem State.updChunk_moons (s : State) (f : Chunk → Chunk) : (s.updChunk f).moons = s.moons := rfl
@[simp] theorem State.updChunk_farMoons (s : State) (f : Chunk → Chunk) : (s.updChunk f).farMoons = s.farMoons := rfl
@[simp] theorem State.updChunk_subs (s : State) (f : Chunk → Chunk) : (s.updChunk f).subs = s.subs := rfl
@[simp] theorem State.updChunk_subscribers (s : State) (f : Chunk → Chunk) : (s.updChunk f).subscribers = s.subscribers := rfl
@[simp] theorem State.updChunk_pages (s : State) (f : Chunk → Chunk) : (s.updChunk f).pages = s.pages := rfl
@[simp] theorem State.updChunk_released (s : State) (f : Chunk → Chunk) : (s.updChunk f).released = s.released := rfl
@[simp] theorem State.updChunk_finished (s : State) (f : Chunk → Chunk) : (s.updChunk f).finished = s.finished := rfl
@[simp] theorem State.updChunk_gangs (s : State) (f : Chunk → Chunk) : (s.updChunk f).gangs = s.gangs := rfl
@[simp] theorem State.updChunk_waiting (s : State) (f : Chunk → Chunk) : (s.updChunk f).waiting = s.waiting := rfl
@[simp] theorem State.updChunk_completed (s : State) (f : Chunk → Chunk) : (s.updChunk f).completed = s.completed := rfl
@[simp] theorem State.updChunk_tokenQueue (s : State) (f : Chunk → Chunk) : (s.updChunk f).tokenQueue = s.tokenQueue := rfl
@[simp] theorem State.updChunk_caravans (s : State) (f : Chunk → Chunk) : (s.updChunk f).caravans = s.caravans := rfl
@[simp] theorem State.updChunk_cvDests (s : State) (f : Chunk → Chunk) : (s.updChunk f).cvDests = s.cvDests := rfl
@[simp] theorem State.updChunk_decisions (s : State) (f : Chunk → Chunk) : (s.updChunk f).decisions = s.decisions := rfl
@[simp] theorem State.updChunk_hostLines (s : State) (f : Chunk → Chunk) : (s.updChunk f).hostLines = s.hostLines := rfl
@[simp] theorem State.updChunk_mesi (s : State) (f : Chunk → Chunk) : (s.updChunk f).mesi = s.mesi := rfl
@[simp] theorem State.updChunk_hosts (s : State) (f : Chunk → Chunk) : (s.updChunk f).hosts = s.hosts := rfl
@[simp] theorem State.updChunk_fabric (s : State) (f : Chunk → Chunk) : (s.updChunk f).fabric = s.fabric := rfl
@[simp] theorem State.updChunk_time (s : State) (f : Chunk → Chunk) : (s.updChunk f).time = s.time := rfl
@[simp] theorem State.updChunk_service (s : State) (f : Chunk → Chunk) : (s.updChunk f).service = s.service := rfl
@[simp] theorem State.updChunk_health (s : State) (f : Chunk → Chunk) : (s.updChunk f).health = s.health := rfl
@[simp] theorem State.updChunk_ckpts (s : State) (f : Chunk → Chunk) : (s.updChunk f).ckpts = s.ckpts := rfl
@[simp] theorem State.updChunk_set_th_chunk (s : State) (f : Chunk → Chunk) : (s.updChunk f).th.chunk = f s.th.chunk := rfl
@[simp] theorem State.updChunk_set_th_arch (s : State) (f : Chunk → Chunk) : (s.updChunk f).th.arch = s.th.arch := rfl
@[simp] theorem State.updChunk_set_th_tid (s : State) (f : Chunk → Chunk) : (s.updChunk f).th.tid = s.th.tid := rfl
@[simp] theorem State.updChunk_set_th_core (s : State) (f : Chunk → Chunk) : (s.updChunk f).th.core = s.th.core := rfl

/-! ### setX -/

@[simp] theorem State.setX_threads (s : State) (r : Reg) (v : W64) : (s.setX r v).threads = s.threads := rfl
@[simp] theorem State.setX_agenda (s : State) (r : Reg) (v : W64) : (s.setX r v).agenda = s.agenda := rfl
@[simp] theorem State.setX_free (s : State) (r : Reg) (v : W64) : (s.setX r v).free = s.free := rfl
@[simp] theorem State.setX_nextTid (s : State) (r : Reg) (v : W64) : (s.setX r v).nextTid = s.nextTid := rfl
@[simp] theorem State.setX_doorbells (s : State) (r : Reg) (v : W64) : (s.setX r v).doorbells = s.doorbells := rfl
@[simp] theorem State.setX_mem (s : State) (r : Reg) (v : W64) : (s.setX r v).mem = s.mem := rfl
@[simp] theorem State.setX_farMem (s : State) (r : Reg) (v : W64) : (s.setX r v).farMem = s.farMem := rfl
@[simp] theorem State.setX_poisoned (s : State) (r : Reg) (v : W64) : (s.setX r v).poisoned = s.poisoned := rfl
@[simp] theorem State.setX_locks (s : State) (r : Reg) (v : W64) : (s.setX r v).locks = s.locks := rfl
@[simp] theorem State.setX_position (s : State) (r : Reg) (v : W64) : (s.setX r v).position = s.position := rfl
@[simp] theorem State.setX_moduleId (s : State) (r : Reg) (v : W64) : (s.setX r v).moduleId = s.moduleId := rfl
@[simp] theorem State.setX_islandTicks (s : State) (r : Reg) (v : W64) : (s.setX r v).islandTicks = s.islandTicks := rfl
@[simp] theorem State.setX_cores (s : State) (r : Reg) (v : W64) : (s.setX r v).cores = s.cores := rfl
@[simp] theorem State.setX_cells (s : State) (r : Reg) (v : W64) : (s.setX r v).cells = s.cells := rfl
@[simp] theorem State.setX_tlbs (s : State) (r : Reg) (v : W64) : (s.setX r v).tlbs = s.tlbs := rfl
@[simp] theorem State.setX_keyRegs (s : State) (r : Reg) (v : W64) : (s.setX r v).keyRegs = s.keyRegs := rfl
@[simp] theorem State.setX_regions (s : State) (r : Reg) (v : W64) : (s.setX r v).regions = s.regions := rfl
@[simp] theorem State.setX_moons (s : State) (r : Reg) (v : W64) : (s.setX r v).moons = s.moons := rfl
@[simp] theorem State.setX_farMoons (s : State) (r : Reg) (v : W64) : (s.setX r v).farMoons = s.farMoons := rfl
@[simp] theorem State.setX_subs (s : State) (r : Reg) (v : W64) : (s.setX r v).subs = s.subs := rfl
@[simp] theorem State.setX_subscribers (s : State) (r : Reg) (v : W64) : (s.setX r v).subscribers = s.subscribers := rfl
@[simp] theorem State.setX_pages (s : State) (r : Reg) (v : W64) : (s.setX r v).pages = s.pages := rfl
@[simp] theorem State.setX_released (s : State) (r : Reg) (v : W64) : (s.setX r v).released = s.released := rfl
@[simp] theorem State.setX_finished (s : State) (r : Reg) (v : W64) : (s.setX r v).finished = s.finished := rfl
@[simp] theorem State.setX_gangs (s : State) (r : Reg) (v : W64) : (s.setX r v).gangs = s.gangs := rfl
@[simp] theorem State.setX_waiting (s : State) (r : Reg) (v : W64) : (s.setX r v).waiting = s.waiting := rfl
@[simp] theorem State.setX_completed (s : State) (r : Reg) (v : W64) : (s.setX r v).completed = s.completed := rfl
@[simp] theorem State.setX_tokenQueue (s : State) (r : Reg) (v : W64) : (s.setX r v).tokenQueue = s.tokenQueue := rfl
@[simp] theorem State.setX_caravans (s : State) (r : Reg) (v : W64) : (s.setX r v).caravans = s.caravans := rfl
@[simp] theorem State.setX_cvDests (s : State) (r : Reg) (v : W64) : (s.setX r v).cvDests = s.cvDests := rfl
@[simp] theorem State.setX_decisions (s : State) (r : Reg) (v : W64) : (s.setX r v).decisions = s.decisions := rfl
@[simp] theorem State.setX_hostLines (s : State) (r : Reg) (v : W64) : (s.setX r v).hostLines = s.hostLines := rfl
@[simp] theorem State.setX_mesi (s : State) (r : Reg) (v : W64) : (s.setX r v).mesi = s.mesi := rfl
@[simp] theorem State.setX_hosts (s : State) (r : Reg) (v : W64) : (s.setX r v).hosts = s.hosts := rfl
@[simp] theorem State.setX_fabric (s : State) (r : Reg) (v : W64) : (s.setX r v).fabric = s.fabric := rfl
@[simp] theorem State.setX_time (s : State) (r : Reg) (v : W64) : (s.setX r v).time = s.time := rfl
@[simp] theorem State.setX_service (s : State) (r : Reg) (v : W64) : (s.setX r v).service = s.service := rfl
@[simp] theorem State.setX_health (s : State) (r : Reg) (v : W64) : (s.setX r v).health = s.health := rfl
@[simp] theorem State.setX_ckpts (s : State) (r : Reg) (v : W64) : (s.setX r v).ckpts = s.ckpts := rfl
@[simp] theorem State.setX_set_th_arch (s : State) (r : Reg) (v : W64) : (s.setX r v).th.arch = s.th.arch.setX r.toNat v := rfl
@[simp] theorem State.setX_set_th_tid (s : State) (r : Reg) (v : W64) : (s.setX r v).th.tid = s.th.tid := rfl
@[simp] theorem State.setX_set_th_core (s : State) (r : Reg) (v : W64) : (s.setX r v).th.core = s.th.core := rfl

/-! ### setV -/

@[simp] theorem State.setV_threads (s : State) (r : Reg) (v : V512) : (s.setV r v).threads = s.threads := rfl
@[simp] theorem State.setV_agenda (s : State) (r : Reg) (v : V512) : (s.setV r v).agenda = s.agenda := rfl
@[simp] theorem State.setV_free (s : State) (r : Reg) (v : V512) : (s.setV r v).free = s.free := rfl
@[simp] theorem State.setV_nextTid (s : State) (r : Reg) (v : V512) : (s.setV r v).nextTid = s.nextTid := rfl
@[simp] theorem State.setV_doorbells (s : State) (r : Reg) (v : V512) : (s.setV r v).doorbells = s.doorbells := rfl
@[simp] theorem State.setV_mem (s : State) (r : Reg) (v : V512) : (s.setV r v).mem = s.mem := rfl
@[simp] theorem State.setV_farMem (s : State) (r : Reg) (v : V512) : (s.setV r v).farMem = s.farMem := rfl
@[simp] theorem State.setV_poisoned (s : State) (r : Reg) (v : V512) : (s.setV r v).poisoned = s.poisoned := rfl
@[simp] theorem State.setV_locks (s : State) (r : Reg) (v : V512) : (s.setV r v).locks = s.locks := rfl
@[simp] theorem State.setV_position (s : State) (r : Reg) (v : V512) : (s.setV r v).position = s.position := rfl
@[simp] theorem State.setV_moduleId (s : State) (r : Reg) (v : V512) : (s.setV r v).moduleId = s.moduleId := rfl
@[simp] theorem State.setV_islandTicks (s : State) (r : Reg) (v : V512) : (s.setV r v).islandTicks = s.islandTicks := rfl
@[simp] theorem State.setV_cores (s : State) (r : Reg) (v : V512) : (s.setV r v).cores = s.cores := rfl
@[simp] theorem State.setV_cells (s : State) (r : Reg) (v : V512) : (s.setV r v).cells = s.cells := rfl
@[simp] theorem State.setV_tlbs (s : State) (r : Reg) (v : V512) : (s.setV r v).tlbs = s.tlbs := rfl
@[simp] theorem State.setV_keyRegs (s : State) (r : Reg) (v : V512) : (s.setV r v).keyRegs = s.keyRegs := rfl
@[simp] theorem State.setV_regions (s : State) (r : Reg) (v : V512) : (s.setV r v).regions = s.regions := rfl
@[simp] theorem State.setV_moons (s : State) (r : Reg) (v : V512) : (s.setV r v).moons = s.moons := rfl
@[simp] theorem State.setV_farMoons (s : State) (r : Reg) (v : V512) : (s.setV r v).farMoons = s.farMoons := rfl
@[simp] theorem State.setV_subs (s : State) (r : Reg) (v : V512) : (s.setV r v).subs = s.subs := rfl
@[simp] theorem State.setV_subscribers (s : State) (r : Reg) (v : V512) : (s.setV r v).subscribers = s.subscribers := rfl
@[simp] theorem State.setV_pages (s : State) (r : Reg) (v : V512) : (s.setV r v).pages = s.pages := rfl
@[simp] theorem State.setV_released (s : State) (r : Reg) (v : V512) : (s.setV r v).released = s.released := rfl
@[simp] theorem State.setV_finished (s : State) (r : Reg) (v : V512) : (s.setV r v).finished = s.finished := rfl
@[simp] theorem State.setV_gangs (s : State) (r : Reg) (v : V512) : (s.setV r v).gangs = s.gangs := rfl
@[simp] theorem State.setV_waiting (s : State) (r : Reg) (v : V512) : (s.setV r v).waiting = s.waiting := rfl
@[simp] theorem State.setV_completed (s : State) (r : Reg) (v : V512) : (s.setV r v).completed = s.completed := rfl
@[simp] theorem State.setV_tokenQueue (s : State) (r : Reg) (v : V512) : (s.setV r v).tokenQueue = s.tokenQueue := rfl
@[simp] theorem State.setV_caravans (s : State) (r : Reg) (v : V512) : (s.setV r v).caravans = s.caravans := rfl
@[simp] theorem State.setV_cvDests (s : State) (r : Reg) (v : V512) : (s.setV r v).cvDests = s.cvDests := rfl
@[simp] theorem State.setV_decisions (s : State) (r : Reg) (v : V512) : (s.setV r v).decisions = s.decisions := rfl
@[simp] theorem State.setV_hostLines (s : State) (r : Reg) (v : V512) : (s.setV r v).hostLines = s.hostLines := rfl
@[simp] theorem State.setV_mesi (s : State) (r : Reg) (v : V512) : (s.setV r v).mesi = s.mesi := rfl
@[simp] theorem State.setV_hosts (s : State) (r : Reg) (v : V512) : (s.setV r v).hosts = s.hosts := rfl
@[simp] theorem State.setV_fabric (s : State) (r : Reg) (v : V512) : (s.setV r v).fabric = s.fabric := rfl
@[simp] theorem State.setV_time (s : State) (r : Reg) (v : V512) : (s.setV r v).time = s.time := rfl
@[simp] theorem State.setV_service (s : State) (r : Reg) (v : V512) : (s.setV r v).service = s.service := rfl
@[simp] theorem State.setV_health (s : State) (r : Reg) (v : V512) : (s.setV r v).health = s.health := rfl
@[simp] theorem State.setV_ckpts (s : State) (r : Reg) (v : V512) : (s.setV r v).ckpts = s.ckpts := rfl
@[simp] theorem State.setV_set_th_arch (s : State) (r : Reg) (v : V512) : (s.setV r v).th.arch = s.th.arch.setV r.toNat v := rfl
@[simp] theorem State.setV_set_th_chunk (s : State) (r : Reg) (v : V512) : (s.setV r v).th.chunk = s.th.chunk := rfl

/-! ### setM -/

@[simp] theorem State.setM_threads (s : State) (r : MaskReg) (v : W64) : (s.setM r v).threads = s.threads := rfl
@[simp] theorem State.setM_agenda (s : State) (r : MaskReg) (v : W64) : (s.setM r v).agenda = s.agenda := rfl
@[simp] theorem State.setM_free (s : State) (r : MaskReg) (v : W64) : (s.setM r v).free = s.free := rfl
@[simp] theorem State.setM_nextTid (s : State) (r : MaskReg) (v : W64) : (s.setM r v).nextTid = s.nextTid := rfl
@[simp] theorem State.setM_doorbells (s : State) (r : MaskReg) (v : W64) : (s.setM r v).doorbells = s.doorbells := rfl
@[simp] theorem State.setM_mem (s : State) (r : MaskReg) (v : W64) : (s.setM r v).mem = s.mem := rfl
@[simp] theorem State.setM_farMem (s : State) (r : MaskReg) (v : W64) : (s.setM r v).farMem = s.farMem := rfl
@[simp] theorem State.setM_poisoned (s : State) (r : MaskReg) (v : W64) : (s.setM r v).poisoned = s.poisoned := rfl
@[simp] theorem State.setM_locks (s : State) (r : MaskReg) (v : W64) : (s.setM r v).locks = s.locks := rfl
@[simp] theorem State.setM_position (s : State) (r : MaskReg) (v : W64) : (s.setM r v).position = s.position := rfl
@[simp] theorem State.setM_moduleId (s : State) (r : MaskReg) (v : W64) : (s.setM r v).moduleId = s.moduleId := rfl
@[simp] theorem State.setM_islandTicks (s : State) (r : MaskReg) (v : W64) : (s.setM r v).islandTicks = s.islandTicks := rfl
@[simp] theorem State.setM_cores (s : State) (r : MaskReg) (v : W64) : (s.setM r v).cores = s.cores := rfl
@[simp] theorem State.setM_cells (s : State) (r : MaskReg) (v : W64) : (s.setM r v).cells = s.cells := rfl
@[simp] theorem State.setM_tlbs (s : State) (r : MaskReg) (v : W64) : (s.setM r v).tlbs = s.tlbs := rfl
@[simp] theorem State.setM_keyRegs (s : State) (r : MaskReg) (v : W64) : (s.setM r v).keyRegs = s.keyRegs := rfl
@[simp] theorem State.setM_regions (s : State) (r : MaskReg) (v : W64) : (s.setM r v).regions = s.regions := rfl
@[simp] theorem State.setM_moons (s : State) (r : MaskReg) (v : W64) : (s.setM r v).moons = s.moons := rfl
@[simp] theorem State.setM_farMoons (s : State) (r : MaskReg) (v : W64) : (s.setM r v).farMoons = s.farMoons := rfl
@[simp] theorem State.setM_subs (s : State) (r : MaskReg) (v : W64) : (s.setM r v).subs = s.subs := rfl
@[simp] theorem State.setM_subscribers (s : State) (r : MaskReg) (v : W64) : (s.setM r v).subscribers = s.subscribers := rfl
@[simp] theorem State.setM_pages (s : State) (r : MaskReg) (v : W64) : (s.setM r v).pages = s.pages := rfl
@[simp] theorem State.setM_released (s : State) (r : MaskReg) (v : W64) : (s.setM r v).released = s.released := rfl
@[simp] theorem State.setM_finished (s : State) (r : MaskReg) (v : W64) : (s.setM r v).finished = s.finished := rfl
@[simp] theorem State.setM_gangs (s : State) (r : MaskReg) (v : W64) : (s.setM r v).gangs = s.gangs := rfl
@[simp] theorem State.setM_waiting (s : State) (r : MaskReg) (v : W64) : (s.setM r v).waiting = s.waiting := rfl
@[simp] theorem State.setM_completed (s : State) (r : MaskReg) (v : W64) : (s.setM r v).completed = s.completed := rfl
@[simp] theorem State.setM_tokenQueue (s : State) (r : MaskReg) (v : W64) : (s.setM r v).tokenQueue = s.tokenQueue := rfl
@[simp] theorem State.setM_caravans (s : State) (r : MaskReg) (v : W64) : (s.setM r v).caravans = s.caravans := rfl
@[simp] theorem State.setM_cvDests (s : State) (r : MaskReg) (v : W64) : (s.setM r v).cvDests = s.cvDests := rfl
@[simp] theorem State.setM_decisions (s : State) (r : MaskReg) (v : W64) : (s.setM r v).decisions = s.decisions := rfl
@[simp] theorem State.setM_hostLines (s : State) (r : MaskReg) (v : W64) : (s.setM r v).hostLines = s.hostLines := rfl
@[simp] theorem State.setM_mesi (s : State) (r : MaskReg) (v : W64) : (s.setM r v).mesi = s.mesi := rfl
@[simp] theorem State.setM_hosts (s : State) (r : MaskReg) (v : W64) : (s.setM r v).hosts = s.hosts := rfl
@[simp] theorem State.setM_fabric (s : State) (r : MaskReg) (v : W64) : (s.setM r v).fabric = s.fabric := rfl
@[simp] theorem State.setM_time (s : State) (r : MaskReg) (v : W64) : (s.setM r v).time = s.time := rfl
@[simp] theorem State.setM_service (s : State) (r : MaskReg) (v : W64) : (s.setM r v).service = s.service := rfl
@[simp] theorem State.setM_health (s : State) (r : MaskReg) (v : W64) : (s.setM r v).health = s.health := rfl
@[simp] theorem State.setM_ckpts (s : State) (r : MaskReg) (v : W64) : (s.setM r v).ckpts = s.ckpts := rfl
@[simp] theorem State.setM_set_th_arch (s : State) (r : MaskReg) (v : W64) : (s.setM r v).th.arch = s.th.arch.setM r.toNat v := rfl
@[simp] theorem State.setM_set_th_chunk (s : State) (r : MaskReg) (v : W64) : (s.setM r v).th.chunk = s.th.chunk := rfl

/-! ### updCore -/

@[simp] theorem State.updCore_th (s : State) (c : Nat) (f : Core → Core) : (s.updCore c f).th = s.th := rfl
@[simp] theorem State.updCore_threads (s : State) (c : Nat) (f : Core → Core) : (s.updCore c f).threads = s.threads := rfl
@[simp] theorem State.updCore_agenda (s : State) (c : Nat) (f : Core → Core) : (s.updCore c f).agenda = s.agenda := rfl
@[simp] theorem State.updCore_free (s : State) (c : Nat) (f : Core → Core) : (s.updCore c f).free = s.free := rfl
@[simp] theorem State.updCore_nextTid (s : State) (c : Nat) (f : Core → Core) : (s.updCore c f).nextTid = s.nextTid := rfl
@[simp] theorem State.updCore_doorbells (s : State) (c : Nat) (f : Core → Core) : (s.updCore c f).doorbells = s.doorbells := rfl
@[simp] theorem State.updCore_mem (s : State) (c : Nat) (f : Core → Core) : (s.updCore c f).mem = s.mem := rfl
@[simp] theorem State.updCore_farMem (s : State) (c : Nat) (f : Core → Core) : (s.updCore c f).farMem = s.farMem := rfl
@[simp] theorem State.updCore_poisoned (s : State) (c : Nat) (f : Core → Core) : (s.updCore c f).poisoned = s.poisoned := rfl
@[simp] theorem State.updCore_locks (s : State) (c : Nat) (f : Core → Core) : (s.updCore c f).locks = s.locks := rfl
@[simp] theorem State.updCore_position (s : State) (c : Nat) (f : Core → Core) : (s.updCore c f).position = s.position := rfl
@[simp] theorem State.updCore_moduleId (s : State) (c : Nat) (f : Core → Core) : (s.updCore c f).moduleId = s.moduleId := rfl
@[simp] theorem State.updCore_islandTicks (s : State) (c : Nat) (f : Core → Core) : (s.updCore c f).islandTicks = s.islandTicks := rfl
@[simp] theorem State.updCore_cells (s : State) (c : Nat) (f : Core → Core) : (s.updCore c f).cells = s.cells := rfl
@[simp] theorem State.updCore_tlbs (s : State) (c : Nat) (f : Core → Core) : (s.updCore c f).tlbs = s.tlbs := rfl
@[simp] theorem State.updCore_keyRegs (s : State) (c : Nat) (f : Core → Core) : (s.updCore c f).keyRegs = s.keyRegs := rfl
@[simp] theorem State.updCore_regions (s : State) (c : Nat) (f : Core → Core) : (s.updCore c f).regions = s.regions := rfl
@[simp] theorem State.updCore_moons (s : State) (c : Nat) (f : Core → Core) : (s.updCore c f).moons = s.moons := rfl
@[simp] theorem State.updCore_farMoons (s : State) (c : Nat) (f : Core → Core) : (s.updCore c f).farMoons = s.farMoons := rfl
@[simp] theorem State.updCore_subs (s : State) (c : Nat) (f : Core → Core) : (s.updCore c f).subs = s.subs := rfl
@[simp] theorem State.updCore_subscribers (s : State) (c : Nat) (f : Core → Core) : (s.updCore c f).subscribers = s.subscribers := rfl
@[simp] theorem State.updCore_pages (s : State) (c : Nat) (f : Core → Core) : (s.updCore c f).pages = s.pages := rfl
@[simp] theorem State.updCore_released (s : State) (c : Nat) (f : Core → Core) : (s.updCore c f).released = s.released := rfl
@[simp] theorem State.updCore_finished (s : State) (c : Nat) (f : Core → Core) : (s.updCore c f).finished = s.finished := rfl
@[simp] theorem State.updCore_gangs (s : State) (c : Nat) (f : Core → Core) : (s.updCore c f).gangs = s.gangs := rfl
@[simp] theorem State.updCore_waiting (s : State) (c : Nat) (f : Core → Core) : (s.updCore c f).waiting = s.waiting := rfl
@[simp] theorem State.updCore_completed (s : State) (c : Nat) (f : Core → Core) : (s.updCore c f).completed = s.completed := rfl
@[simp] theorem State.updCore_tokenQueue (s : State) (c : Nat) (f : Core → Core) : (s.updCore c f).tokenQueue = s.tokenQueue := rfl
@[simp] theorem State.updCore_caravans (s : State) (c : Nat) (f : Core → Core) : (s.updCore c f).caravans = s.caravans := rfl
@[simp] theorem State.updCore_cvDests (s : State) (c : Nat) (f : Core → Core) : (s.updCore c f).cvDests = s.cvDests := rfl
@[simp] theorem State.updCore_decisions (s : State) (c : Nat) (f : Core → Core) : (s.updCore c f).decisions = s.decisions := rfl
@[simp] theorem State.updCore_hostLines (s : State) (c : Nat) (f : Core → Core) : (s.updCore c f).hostLines = s.hostLines := rfl
@[simp] theorem State.updCore_mesi (s : State) (c : Nat) (f : Core → Core) : (s.updCore c f).mesi = s.mesi := rfl
@[simp] theorem State.updCore_hosts (s : State) (c : Nat) (f : Core → Core) : (s.updCore c f).hosts = s.hosts := rfl
@[simp] theorem State.updCore_fabric (s : State) (c : Nat) (f : Core → Core) : (s.updCore c f).fabric = s.fabric := rfl
@[simp] theorem State.updCore_time (s : State) (c : Nat) (f : Core → Core) : (s.updCore c f).time = s.time := rfl
@[simp] theorem State.updCore_service (s : State) (c : Nat) (f : Core → Core) : (s.updCore c f).service = s.service := rfl
@[simp] theorem State.updCore_health (s : State) (c : Nat) (f : Core → Core) : (s.updCore c f).health = s.health := rfl
@[simp] theorem State.updCore_ckpts (s : State) (c : Nat) (f : Core → Core) : (s.updCore c f).ckpts = s.ckpts := rfl
@[simp] theorem State.updCore_set_cores (s : State) (c : Nat) (f : Core → Core) : (s.updCore c f).cores = Map.upd Core.reset s.cores c f := rfl

/-! ### updDbg -/

@[simp] theorem State.updDbg_th (s : State) (c : Nat) (f : Debug → Debug) : (s.updDbg c f).th = s.th := rfl
@[simp] theorem State.updDbg_threads (s : State) (c : Nat) (f : Debug → Debug) : (s.updDbg c f).threads = s.threads := rfl
@[simp] theorem State.updDbg_agenda (s : State) (c : Nat) (f : Debug → Debug) : (s.updDbg c f).agenda = s.agenda := rfl
@[simp] theorem State.updDbg_free (s : State) (c : Nat) (f : Debug → Debug) : (s.updDbg c f).free = s.free := rfl
@[simp] theorem State.updDbg_nextTid (s : State) (c : Nat) (f : Debug → Debug) : (s.updDbg c f).nextTid = s.nextTid := rfl
@[simp] theorem State.updDbg_doorbells (s : State) (c : Nat) (f : Debug → Debug) : (s.updDbg c f).doorbells = s.doorbells := rfl
@[simp] theorem State.updDbg_mem (s : State) (c : Nat) (f : Debug → Debug) : (s.updDbg c f).mem = s.mem := rfl
@[simp] theorem State.updDbg_farMem (s : State) (c : Nat) (f : Debug → Debug) : (s.updDbg c f).farMem = s.farMem := rfl
@[simp] theorem State.updDbg_poisoned (s : State) (c : Nat) (f : Debug → Debug) : (s.updDbg c f).poisoned = s.poisoned := rfl
@[simp] theorem State.updDbg_locks (s : State) (c : Nat) (f : Debug → Debug) : (s.updDbg c f).locks = s.locks := rfl
@[simp] theorem State.updDbg_position (s : State) (c : Nat) (f : Debug → Debug) : (s.updDbg c f).position = s.position := rfl
@[simp] theorem State.updDbg_moduleId (s : State) (c : Nat) (f : Debug → Debug) : (s.updDbg c f).moduleId = s.moduleId := rfl
@[simp] theorem State.updDbg_islandTicks (s : State) (c : Nat) (f : Debug → Debug) : (s.updDbg c f).islandTicks = s.islandTicks := rfl
@[simp] theorem State.updDbg_cells (s : State) (c : Nat) (f : Debug → Debug) : (s.updDbg c f).cells = s.cells := rfl
@[simp] theorem State.updDbg_tlbs (s : State) (c : Nat) (f : Debug → Debug) : (s.updDbg c f).tlbs = s.tlbs := rfl
@[simp] theorem State.updDbg_keyRegs (s : State) (c : Nat) (f : Debug → Debug) : (s.updDbg c f).keyRegs = s.keyRegs := rfl
@[simp] theorem State.updDbg_regions (s : State) (c : Nat) (f : Debug → Debug) : (s.updDbg c f).regions = s.regions := rfl
@[simp] theorem State.updDbg_moons (s : State) (c : Nat) (f : Debug → Debug) : (s.updDbg c f).moons = s.moons := rfl
@[simp] theorem State.updDbg_farMoons (s : State) (c : Nat) (f : Debug → Debug) : (s.updDbg c f).farMoons = s.farMoons := rfl
@[simp] theorem State.updDbg_subs (s : State) (c : Nat) (f : Debug → Debug) : (s.updDbg c f).subs = s.subs := rfl
@[simp] theorem State.updDbg_subscribers (s : State) (c : Nat) (f : Debug → Debug) : (s.updDbg c f).subscribers = s.subscribers := rfl
@[simp] theorem State.updDbg_pages (s : State) (c : Nat) (f : Debug → Debug) : (s.updDbg c f).pages = s.pages := rfl
@[simp] theorem State.updDbg_released (s : State) (c : Nat) (f : Debug → Debug) : (s.updDbg c f).released = s.released := rfl
@[simp] theorem State.updDbg_finished (s : State) (c : Nat) (f : Debug → Debug) : (s.updDbg c f).finished = s.finished := rfl
@[simp] theorem State.updDbg_gangs (s : State) (c : Nat) (f : Debug → Debug) : (s.updDbg c f).gangs = s.gangs := rfl
@[simp] theorem State.updDbg_waiting (s : State) (c : Nat) (f : Debug → Debug) : (s.updDbg c f).waiting = s.waiting := rfl
@[simp] theorem State.updDbg_completed (s : State) (c : Nat) (f : Debug → Debug) : (s.updDbg c f).completed = s.completed := rfl
@[simp] theorem State.updDbg_tokenQueue (s : State) (c : Nat) (f : Debug → Debug) : (s.updDbg c f).tokenQueue = s.tokenQueue := rfl
@[simp] theorem State.updDbg_caravans (s : State) (c : Nat) (f : Debug → Debug) : (s.updDbg c f).caravans = s.caravans := rfl
@[simp] theorem State.updDbg_cvDests (s : State) (c : Nat) (f : Debug → Debug) : (s.updDbg c f).cvDests = s.cvDests := rfl
@[simp] theorem State.updDbg_decisions (s : State) (c : Nat) (f : Debug → Debug) : (s.updDbg c f).decisions = s.decisions := rfl
@[simp] theorem State.updDbg_hostLines (s : State) (c : Nat) (f : Debug → Debug) : (s.updDbg c f).hostLines = s.hostLines := rfl
@[simp] theorem State.updDbg_mesi (s : State) (c : Nat) (f : Debug → Debug) : (s.updDbg c f).mesi = s.mesi := rfl
@[simp] theorem State.updDbg_hosts (s : State) (c : Nat) (f : Debug → Debug) : (s.updDbg c f).hosts = s.hosts := rfl
@[simp] theorem State.updDbg_fabric (s : State) (c : Nat) (f : Debug → Debug) : (s.updDbg c f).fabric = s.fabric := rfl
@[simp] theorem State.updDbg_time (s : State) (c : Nat) (f : Debug → Debug) : (s.updDbg c f).time = s.time := rfl
@[simp] theorem State.updDbg_service (s : State) (c : Nat) (f : Debug → Debug) : (s.updDbg c f).service = s.service := rfl
@[simp] theorem State.updDbg_health (s : State) (c : Nat) (f : Debug → Debug) : (s.updDbg c f).health = s.health := rfl
@[simp] theorem State.updDbg_ckpts (s : State) (c : Nat) (f : Debug → Debug) : (s.updDbg c f).ckpts = s.ckpts := rfl

/-! ### updCell -/

@[simp] theorem State.updCell_th (s : State) (c : Nat) (f : Cell → Cell) : (s.updCell c f).th = s.th := rfl
@[simp] theorem State.updCell_threads (s : State) (c : Nat) (f : Cell → Cell) : (s.updCell c f).threads = s.threads := rfl
@[simp] theorem State.updCell_agenda (s : State) (c : Nat) (f : Cell → Cell) : (s.updCell c f).agenda = s.agenda := rfl
@[simp] theorem State.updCell_free (s : State) (c : Nat) (f : Cell → Cell) : (s.updCell c f).free = s.free := rfl
@[simp] theorem State.updCell_nextTid (s : State) (c : Nat) (f : Cell → Cell) : (s.updCell c f).nextTid = s.nextTid := rfl
@[simp] theorem State.updCell_doorbells (s : State) (c : Nat) (f : Cell → Cell) : (s.updCell c f).doorbells = s.doorbells := rfl
@[simp] theorem State.updCell_mem (s : State) (c : Nat) (f : Cell → Cell) : (s.updCell c f).mem = s.mem := rfl
@[simp] theorem State.updCell_farMem (s : State) (c : Nat) (f : Cell → Cell) : (s.updCell c f).farMem = s.farMem := rfl
@[simp] theorem State.updCell_poisoned (s : State) (c : Nat) (f : Cell → Cell) : (s.updCell c f).poisoned = s.poisoned := rfl
@[simp] theorem State.updCell_locks (s : State) (c : Nat) (f : Cell → Cell) : (s.updCell c f).locks = s.locks := rfl
@[simp] theorem State.updCell_position (s : State) (c : Nat) (f : Cell → Cell) : (s.updCell c f).position = s.position := rfl
@[simp] theorem State.updCell_moduleId (s : State) (c : Nat) (f : Cell → Cell) : (s.updCell c f).moduleId = s.moduleId := rfl
@[simp] theorem State.updCell_islandTicks (s : State) (c : Nat) (f : Cell → Cell) : (s.updCell c f).islandTicks = s.islandTicks := rfl
@[simp] theorem State.updCell_cores (s : State) (c : Nat) (f : Cell → Cell) : (s.updCell c f).cores = s.cores := rfl
@[simp] theorem State.updCell_tlbs (s : State) (c : Nat) (f : Cell → Cell) : (s.updCell c f).tlbs = s.tlbs := rfl
@[simp] theorem State.updCell_keyRegs (s : State) (c : Nat) (f : Cell → Cell) : (s.updCell c f).keyRegs = s.keyRegs := rfl
@[simp] theorem State.updCell_regions (s : State) (c : Nat) (f : Cell → Cell) : (s.updCell c f).regions = s.regions := rfl
@[simp] theorem State.updCell_moons (s : State) (c : Nat) (f : Cell → Cell) : (s.updCell c f).moons = s.moons := rfl
@[simp] theorem State.updCell_farMoons (s : State) (c : Nat) (f : Cell → Cell) : (s.updCell c f).farMoons = s.farMoons := rfl
@[simp] theorem State.updCell_subs (s : State) (c : Nat) (f : Cell → Cell) : (s.updCell c f).subs = s.subs := rfl
@[simp] theorem State.updCell_subscribers (s : State) (c : Nat) (f : Cell → Cell) : (s.updCell c f).subscribers = s.subscribers := rfl
@[simp] theorem State.updCell_pages (s : State) (c : Nat) (f : Cell → Cell) : (s.updCell c f).pages = s.pages := rfl
@[simp] theorem State.updCell_released (s : State) (c : Nat) (f : Cell → Cell) : (s.updCell c f).released = s.released := rfl
@[simp] theorem State.updCell_finished (s : State) (c : Nat) (f : Cell → Cell) : (s.updCell c f).finished = s.finished := rfl
@[simp] theorem State.updCell_gangs (s : State) (c : Nat) (f : Cell → Cell) : (s.updCell c f).gangs = s.gangs := rfl
@[simp] theorem State.updCell_waiting (s : State) (c : Nat) (f : Cell → Cell) : (s.updCell c f).waiting = s.waiting := rfl
@[simp] theorem State.updCell_completed (s : State) (c : Nat) (f : Cell → Cell) : (s.updCell c f).completed = s.completed := rfl
@[simp] theorem State.updCell_tokenQueue (s : State) (c : Nat) (f : Cell → Cell) : (s.updCell c f).tokenQueue = s.tokenQueue := rfl
@[simp] theorem State.updCell_caravans (s : State) (c : Nat) (f : Cell → Cell) : (s.updCell c f).caravans = s.caravans := rfl
@[simp] theorem State.updCell_cvDests (s : State) (c : Nat) (f : Cell → Cell) : (s.updCell c f).cvDests = s.cvDests := rfl
@[simp] theorem State.updCell_decisions (s : State) (c : Nat) (f : Cell → Cell) : (s.updCell c f).decisions = s.decisions := rfl
@[simp] theorem State.updCell_hostLines (s : State) (c : Nat) (f : Cell → Cell) : (s.updCell c f).hostLines = s.hostLines := rfl
@[simp] theorem State.updCell_mesi (s : State) (c : Nat) (f : Cell → Cell) : (s.updCell c f).mesi = s.mesi := rfl
@[simp] theorem State.updCell_hosts (s : State) (c : Nat) (f : Cell → Cell) : (s.updCell c f).hosts = s.hosts := rfl
@[simp] theorem State.updCell_fabric (s : State) (c : Nat) (f : Cell → Cell) : (s.updCell c f).fabric = s.fabric := rfl
@[simp] theorem State.updCell_time (s : State) (c : Nat) (f : Cell → Cell) : (s.updCell c f).time = s.time := rfl
@[simp] theorem State.updCell_service (s : State) (c : Nat) (f : Cell → Cell) : (s.updCell c f).service = s.service := rfl
@[simp] theorem State.updCell_health (s : State) (c : Nat) (f : Cell → Cell) : (s.updCell c f).health = s.health := rfl
@[simp] theorem State.updCell_ckpts (s : State) (c : Nat) (f : Cell → Cell) : (s.updCell c f).ckpts = s.ckpts := rfl
@[simp] theorem State.updCell_set_cells (s : State) (c : Nat) (f : Cell → Cell) : (s.updCell c f).cells = Map.upd Cell.reset s.cells c f := rfl

/-! ### updGang -/

@[simp] theorem State.updGang_th (s : State) (g : Nat) (f : Gang → Gang) : (s.updGang g f).th = s.th := rfl
@[simp] theorem State.updGang_threads (s : State) (g : Nat) (f : Gang → Gang) : (s.updGang g f).threads = s.threads := rfl
@[simp] theorem State.updGang_agenda (s : State) (g : Nat) (f : Gang → Gang) : (s.updGang g f).agenda = s.agenda := rfl
@[simp] theorem State.updGang_free (s : State) (g : Nat) (f : Gang → Gang) : (s.updGang g f).free = s.free := rfl
@[simp] theorem State.updGang_nextTid (s : State) (g : Nat) (f : Gang → Gang) : (s.updGang g f).nextTid = s.nextTid := rfl
@[simp] theorem State.updGang_doorbells (s : State) (g : Nat) (f : Gang → Gang) : (s.updGang g f).doorbells = s.doorbells := rfl
@[simp] theorem State.updGang_mem (s : State) (g : Nat) (f : Gang → Gang) : (s.updGang g f).mem = s.mem := rfl
@[simp] theorem State.updGang_farMem (s : State) (g : Nat) (f : Gang → Gang) : (s.updGang g f).farMem = s.farMem := rfl
@[simp] theorem State.updGang_poisoned (s : State) (g : Nat) (f : Gang → Gang) : (s.updGang g f).poisoned = s.poisoned := rfl
@[simp] theorem State.updGang_locks (s : State) (g : Nat) (f : Gang → Gang) : (s.updGang g f).locks = s.locks := rfl
@[simp] theorem State.updGang_position (s : State) (g : Nat) (f : Gang → Gang) : (s.updGang g f).position = s.position := rfl
@[simp] theorem State.updGang_moduleId (s : State) (g : Nat) (f : Gang → Gang) : (s.updGang g f).moduleId = s.moduleId := rfl
@[simp] theorem State.updGang_islandTicks (s : State) (g : Nat) (f : Gang → Gang) : (s.updGang g f).islandTicks = s.islandTicks := rfl
@[simp] theorem State.updGang_cores (s : State) (g : Nat) (f : Gang → Gang) : (s.updGang g f).cores = s.cores := rfl
@[simp] theorem State.updGang_cells (s : State) (g : Nat) (f : Gang → Gang) : (s.updGang g f).cells = s.cells := rfl
@[simp] theorem State.updGang_tlbs (s : State) (g : Nat) (f : Gang → Gang) : (s.updGang g f).tlbs = s.tlbs := rfl
@[simp] theorem State.updGang_keyRegs (s : State) (g : Nat) (f : Gang → Gang) : (s.updGang g f).keyRegs = s.keyRegs := rfl
@[simp] theorem State.updGang_regions (s : State) (g : Nat) (f : Gang → Gang) : (s.updGang g f).regions = s.regions := rfl
@[simp] theorem State.updGang_moons (s : State) (g : Nat) (f : Gang → Gang) : (s.updGang g f).moons = s.moons := rfl
@[simp] theorem State.updGang_farMoons (s : State) (g : Nat) (f : Gang → Gang) : (s.updGang g f).farMoons = s.farMoons := rfl
@[simp] theorem State.updGang_subs (s : State) (g : Nat) (f : Gang → Gang) : (s.updGang g f).subs = s.subs := rfl
@[simp] theorem State.updGang_subscribers (s : State) (g : Nat) (f : Gang → Gang) : (s.updGang g f).subscribers = s.subscribers := rfl
@[simp] theorem State.updGang_pages (s : State) (g : Nat) (f : Gang → Gang) : (s.updGang g f).pages = s.pages := rfl
@[simp] theorem State.updGang_released (s : State) (g : Nat) (f : Gang → Gang) : (s.updGang g f).released = s.released := rfl
@[simp] theorem State.updGang_finished (s : State) (g : Nat) (f : Gang → Gang) : (s.updGang g f).finished = s.finished := rfl
@[simp] theorem State.updGang_waiting (s : State) (g : Nat) (f : Gang → Gang) : (s.updGang g f).waiting = s.waiting := rfl
@[simp] theorem State.updGang_completed (s : State) (g : Nat) (f : Gang → Gang) : (s.updGang g f).completed = s.completed := rfl
@[simp] theorem State.updGang_tokenQueue (s : State) (g : Nat) (f : Gang → Gang) : (s.updGang g f).tokenQueue = s.tokenQueue := rfl
@[simp] theorem State.updGang_caravans (s : State) (g : Nat) (f : Gang → Gang) : (s.updGang g f).caravans = s.caravans := rfl
@[simp] theorem State.updGang_cvDests (s : State) (g : Nat) (f : Gang → Gang) : (s.updGang g f).cvDests = s.cvDests := rfl
@[simp] theorem State.updGang_decisions (s : State) (g : Nat) (f : Gang → Gang) : (s.updGang g f).decisions = s.decisions := rfl
@[simp] theorem State.updGang_hostLines (s : State) (g : Nat) (f : Gang → Gang) : (s.updGang g f).hostLines = s.hostLines := rfl
@[simp] theorem State.updGang_mesi (s : State) (g : Nat) (f : Gang → Gang) : (s.updGang g f).mesi = s.mesi := rfl
@[simp] theorem State.updGang_hosts (s : State) (g : Nat) (f : Gang → Gang) : (s.updGang g f).hosts = s.hosts := rfl
@[simp] theorem State.updGang_fabric (s : State) (g : Nat) (f : Gang → Gang) : (s.updGang g f).fabric = s.fabric := rfl
@[simp] theorem State.updGang_time (s : State) (g : Nat) (f : Gang → Gang) : (s.updGang g f).time = s.time := rfl
@[simp] theorem State.updGang_service (s : State) (g : Nat) (f : Gang → Gang) : (s.updGang g f).service = s.service := rfl
@[simp] theorem State.updGang_health (s : State) (g : Nat) (f : Gang → Gang) : (s.updGang g f).health = s.health := rfl
@[simp] theorem State.updGang_ckpts (s : State) (g : Nat) (f : Gang → Gang) : (s.updGang g f).ckpts = s.ckpts := rfl

/-! ### updHost -/

@[simp] theorem State.updHost_th (s : State) (p : Nat) (f : HostPort → HostPort) : (s.updHost p f).th = s.th := rfl
@[simp] theorem State.updHost_threads (s : State) (p : Nat) (f : HostPort → HostPort) : (s.updHost p f).threads = s.threads := rfl
@[simp] theorem State.updHost_agenda (s : State) (p : Nat) (f : HostPort → HostPort) : (s.updHost p f).agenda = s.agenda := rfl
@[simp] theorem State.updHost_free (s : State) (p : Nat) (f : HostPort → HostPort) : (s.updHost p f).free = s.free := rfl
@[simp] theorem State.updHost_nextTid (s : State) (p : Nat) (f : HostPort → HostPort) : (s.updHost p f).nextTid = s.nextTid := rfl
@[simp] theorem State.updHost_doorbells (s : State) (p : Nat) (f : HostPort → HostPort) : (s.updHost p f).doorbells = s.doorbells := rfl
@[simp] theorem State.updHost_mem (s : State) (p : Nat) (f : HostPort → HostPort) : (s.updHost p f).mem = s.mem := rfl
@[simp] theorem State.updHost_farMem (s : State) (p : Nat) (f : HostPort → HostPort) : (s.updHost p f).farMem = s.farMem := rfl
@[simp] theorem State.updHost_poisoned (s : State) (p : Nat) (f : HostPort → HostPort) : (s.updHost p f).poisoned = s.poisoned := rfl
@[simp] theorem State.updHost_locks (s : State) (p : Nat) (f : HostPort → HostPort) : (s.updHost p f).locks = s.locks := rfl
@[simp] theorem State.updHost_position (s : State) (p : Nat) (f : HostPort → HostPort) : (s.updHost p f).position = s.position := rfl
@[simp] theorem State.updHost_moduleId (s : State) (p : Nat) (f : HostPort → HostPort) : (s.updHost p f).moduleId = s.moduleId := rfl
@[simp] theorem State.updHost_islandTicks (s : State) (p : Nat) (f : HostPort → HostPort) : (s.updHost p f).islandTicks = s.islandTicks := rfl
@[simp] theorem State.updHost_cores (s : State) (p : Nat) (f : HostPort → HostPort) : (s.updHost p f).cores = s.cores := rfl
@[simp] theorem State.updHost_cells (s : State) (p : Nat) (f : HostPort → HostPort) : (s.updHost p f).cells = s.cells := rfl
@[simp] theorem State.updHost_tlbs (s : State) (p : Nat) (f : HostPort → HostPort) : (s.updHost p f).tlbs = s.tlbs := rfl
@[simp] theorem State.updHost_keyRegs (s : State) (p : Nat) (f : HostPort → HostPort) : (s.updHost p f).keyRegs = s.keyRegs := rfl
@[simp] theorem State.updHost_regions (s : State) (p : Nat) (f : HostPort → HostPort) : (s.updHost p f).regions = s.regions := rfl
@[simp] theorem State.updHost_moons (s : State) (p : Nat) (f : HostPort → HostPort) : (s.updHost p f).moons = s.moons := rfl
@[simp] theorem State.updHost_farMoons (s : State) (p : Nat) (f : HostPort → HostPort) : (s.updHost p f).farMoons = s.farMoons := rfl
@[simp] theorem State.updHost_subs (s : State) (p : Nat) (f : HostPort → HostPort) : (s.updHost p f).subs = s.subs := rfl
@[simp] theorem State.updHost_subscribers (s : State) (p : Nat) (f : HostPort → HostPort) : (s.updHost p f).subscribers = s.subscribers := rfl
@[simp] theorem State.updHost_pages (s : State) (p : Nat) (f : HostPort → HostPort) : (s.updHost p f).pages = s.pages := rfl
@[simp] theorem State.updHost_released (s : State) (p : Nat) (f : HostPort → HostPort) : (s.updHost p f).released = s.released := rfl
@[simp] theorem State.updHost_finished (s : State) (p : Nat) (f : HostPort → HostPort) : (s.updHost p f).finished = s.finished := rfl
@[simp] theorem State.updHost_gangs (s : State) (p : Nat) (f : HostPort → HostPort) : (s.updHost p f).gangs = s.gangs := rfl
@[simp] theorem State.updHost_waiting (s : State) (p : Nat) (f : HostPort → HostPort) : (s.updHost p f).waiting = s.waiting := rfl
@[simp] theorem State.updHost_completed (s : State) (p : Nat) (f : HostPort → HostPort) : (s.updHost p f).completed = s.completed := rfl
@[simp] theorem State.updHost_tokenQueue (s : State) (p : Nat) (f : HostPort → HostPort) : (s.updHost p f).tokenQueue = s.tokenQueue := rfl
@[simp] theorem State.updHost_caravans (s : State) (p : Nat) (f : HostPort → HostPort) : (s.updHost p f).caravans = s.caravans := rfl
@[simp] theorem State.updHost_cvDests (s : State) (p : Nat) (f : HostPort → HostPort) : (s.updHost p f).cvDests = s.cvDests := rfl
@[simp] theorem State.updHost_decisions (s : State) (p : Nat) (f : HostPort → HostPort) : (s.updHost p f).decisions = s.decisions := rfl
@[simp] theorem State.updHost_hostLines (s : State) (p : Nat) (f : HostPort → HostPort) : (s.updHost p f).hostLines = s.hostLines := rfl
@[simp] theorem State.updHost_mesi (s : State) (p : Nat) (f : HostPort → HostPort) : (s.updHost p f).mesi = s.mesi := rfl
@[simp] theorem State.updHost_fabric (s : State) (p : Nat) (f : HostPort → HostPort) : (s.updHost p f).fabric = s.fabric := rfl
@[simp] theorem State.updHost_time (s : State) (p : Nat) (f : HostPort → HostPort) : (s.updHost p f).time = s.time := rfl
@[simp] theorem State.updHost_service (s : State) (p : Nat) (f : HostPort → HostPort) : (s.updHost p f).service = s.service := rfl
@[simp] theorem State.updHost_health (s : State) (p : Nat) (f : HostPort → HostPort) : (s.updHost p f).health = s.health := rfl
@[simp] theorem State.updHost_ckpts (s : State) (p : Nat) (f : HostPort → HostPort) : (s.updHost p f).ckpts = s.ckpts := rfl
@[simp] theorem State.updHost_set_hosts (s : State) (p : Nat) (f : HostPort → HostPort) : (s.updHost p f).hosts = Map.upd HostPort.reset s.hosts p f := rfl

/-! ### updCaravan -/

@[simp] theorem State.updCaravan_th (s : State) (i : Nat) (f : Caravan → Caravan) : (s.updCaravan i f).th = s.th := rfl
@[simp] theorem State.updCaravan_threads (s : State) (i : Nat) (f : Caravan → Caravan) : (s.updCaravan i f).threads = s.threads := rfl
@[simp] theorem State.updCaravan_agenda (s : State) (i : Nat) (f : Caravan → Caravan) : (s.updCaravan i f).agenda = s.agenda := rfl
@[simp] theorem State.updCaravan_free (s : State) (i : Nat) (f : Caravan → Caravan) : (s.updCaravan i f).free = s.free := rfl
@[simp] theorem State.updCaravan_nextTid (s : State) (i : Nat) (f : Caravan → Caravan) : (s.updCaravan i f).nextTid = s.nextTid := rfl
@[simp] theorem State.updCaravan_doorbells (s : State) (i : Nat) (f : Caravan → Caravan) : (s.updCaravan i f).doorbells = s.doorbells := rfl
@[simp] theorem State.updCaravan_mem (s : State) (i : Nat) (f : Caravan → Caravan) : (s.updCaravan i f).mem = s.mem := rfl
@[simp] theorem State.updCaravan_farMem (s : State) (i : Nat) (f : Caravan → Caravan) : (s.updCaravan i f).farMem = s.farMem := rfl
@[simp] theorem State.updCaravan_poisoned (s : State) (i : Nat) (f : Caravan → Caravan) : (s.updCaravan i f).poisoned = s.poisoned := rfl
@[simp] theorem State.updCaravan_locks (s : State) (i : Nat) (f : Caravan → Caravan) : (s.updCaravan i f).locks = s.locks := rfl
@[simp] theorem State.updCaravan_position (s : State) (i : Nat) (f : Caravan → Caravan) : (s.updCaravan i f).position = s.position := rfl
@[simp] theorem State.updCaravan_moduleId (s : State) (i : Nat) (f : Caravan → Caravan) : (s.updCaravan i f).moduleId = s.moduleId := rfl
@[simp] theorem State.updCaravan_islandTicks (s : State) (i : Nat) (f : Caravan → Caravan) : (s.updCaravan i f).islandTicks = s.islandTicks := rfl
@[simp] theorem State.updCaravan_cores (s : State) (i : Nat) (f : Caravan → Caravan) : (s.updCaravan i f).cores = s.cores := rfl
@[simp] theorem State.updCaravan_cells (s : State) (i : Nat) (f : Caravan → Caravan) : (s.updCaravan i f).cells = s.cells := rfl
@[simp] theorem State.updCaravan_tlbs (s : State) (i : Nat) (f : Caravan → Caravan) : (s.updCaravan i f).tlbs = s.tlbs := rfl
@[simp] theorem State.updCaravan_keyRegs (s : State) (i : Nat) (f : Caravan → Caravan) : (s.updCaravan i f).keyRegs = s.keyRegs := rfl
@[simp] theorem State.updCaravan_regions (s : State) (i : Nat) (f : Caravan → Caravan) : (s.updCaravan i f).regions = s.regions := rfl
@[simp] theorem State.updCaravan_moons (s : State) (i : Nat) (f : Caravan → Caravan) : (s.updCaravan i f).moons = s.moons := rfl
@[simp] theorem State.updCaravan_farMoons (s : State) (i : Nat) (f : Caravan → Caravan) : (s.updCaravan i f).farMoons = s.farMoons := rfl
@[simp] theorem State.updCaravan_subs (s : State) (i : Nat) (f : Caravan → Caravan) : (s.updCaravan i f).subs = s.subs := rfl
@[simp] theorem State.updCaravan_subscribers (s : State) (i : Nat) (f : Caravan → Caravan) : (s.updCaravan i f).subscribers = s.subscribers := rfl
@[simp] theorem State.updCaravan_pages (s : State) (i : Nat) (f : Caravan → Caravan) : (s.updCaravan i f).pages = s.pages := rfl
@[simp] theorem State.updCaravan_released (s : State) (i : Nat) (f : Caravan → Caravan) : (s.updCaravan i f).released = s.released := rfl
@[simp] theorem State.updCaravan_finished (s : State) (i : Nat) (f : Caravan → Caravan) : (s.updCaravan i f).finished = s.finished := rfl
@[simp] theorem State.updCaravan_gangs (s : State) (i : Nat) (f : Caravan → Caravan) : (s.updCaravan i f).gangs = s.gangs := rfl
@[simp] theorem State.updCaravan_waiting (s : State) (i : Nat) (f : Caravan → Caravan) : (s.updCaravan i f).waiting = s.waiting := rfl
@[simp] theorem State.updCaravan_completed (s : State) (i : Nat) (f : Caravan → Caravan) : (s.updCaravan i f).completed = s.completed := rfl
@[simp] theorem State.updCaravan_tokenQueue (s : State) (i : Nat) (f : Caravan → Caravan) : (s.updCaravan i f).tokenQueue = s.tokenQueue := rfl
@[simp] theorem State.updCaravan_cvDests (s : State) (i : Nat) (f : Caravan → Caravan) : (s.updCaravan i f).cvDests = s.cvDests := rfl
@[simp] theorem State.updCaravan_decisions (s : State) (i : Nat) (f : Caravan → Caravan) : (s.updCaravan i f).decisions = s.decisions := rfl
@[simp] theorem State.updCaravan_hostLines (s : State) (i : Nat) (f : Caravan → Caravan) : (s.updCaravan i f).hostLines = s.hostLines := rfl
@[simp] theorem State.updCaravan_mesi (s : State) (i : Nat) (f : Caravan → Caravan) : (s.updCaravan i f).mesi = s.mesi := rfl
@[simp] theorem State.updCaravan_hosts (s : State) (i : Nat) (f : Caravan → Caravan) : (s.updCaravan i f).hosts = s.hosts := rfl
@[simp] theorem State.updCaravan_fabric (s : State) (i : Nat) (f : Caravan → Caravan) : (s.updCaravan i f).fabric = s.fabric := rfl
@[simp] theorem State.updCaravan_time (s : State) (i : Nat) (f : Caravan → Caravan) : (s.updCaravan i f).time = s.time := rfl
@[simp] theorem State.updCaravan_service (s : State) (i : Nat) (f : Caravan → Caravan) : (s.updCaravan i f).service = s.service := rfl
@[simp] theorem State.updCaravan_health (s : State) (i : Nat) (f : Caravan → Caravan) : (s.updCaravan i f).health = s.health := rfl
@[simp] theorem State.updCaravan_ckpts (s : State) (i : Nat) (f : Caravan → Caravan) : (s.updCaravan i f).ckpts = s.ckpts := rfl
@[simp] theorem State.updCaravan_set_caravans (s : State) (i : Nat) (f : Caravan → Caravan) : (s.updCaravan i f).caravans = Map.upd Caravan.reset s.caravans i f := rfl

/-! ### mapThreads -/

@[simp] theorem State.mapThreads_agenda (s : State) (f : Thread → Thread) : (s.mapThreads f).agenda = s.agenda := rfl
@[simp] theorem State.mapThreads_free (s : State) (f : Thread → Thread) : (s.mapThreads f).free = s.free := rfl
@[simp] theorem State.mapThreads_nextTid (s : State) (f : Thread → Thread) : (s.mapThreads f).nextTid = s.nextTid := rfl
@[simp] theorem State.mapThreads_doorbells (s : State) (f : Thread → Thread) : (s.mapThreads f).doorbells = s.doorbells := rfl
@[simp] theorem State.mapThreads_mem (s : State) (f : Thread → Thread) : (s.mapThreads f).mem = s.mem := rfl
@[simp] theorem State.mapThreads_farMem (s : State) (f : Thread → Thread) : (s.mapThreads f).farMem = s.farMem := rfl
@[simp] theorem State.mapThreads_poisoned (s : State) (f : Thread → Thread) : (s.mapThreads f).poisoned = s.poisoned := rfl
@[simp] theorem State.mapThreads_locks (s : State) (f : Thread → Thread) : (s.mapThreads f).locks = s.locks := rfl
@[simp] theorem State.mapThreads_position (s : State) (f : Thread → Thread) : (s.mapThreads f).position = s.position := rfl
@[simp] theorem State.mapThreads_moduleId (s : State) (f : Thread → Thread) : (s.mapThreads f).moduleId = s.moduleId := rfl
@[simp] theorem State.mapThreads_islandTicks (s : State) (f : Thread → Thread) : (s.mapThreads f).islandTicks = s.islandTicks := rfl
@[simp] theorem State.mapThreads_cores (s : State) (f : Thread → Thread) : (s.mapThreads f).cores = s.cores := rfl
@[simp] theorem State.mapThreads_cells (s : State) (f : Thread → Thread) : (s.mapThreads f).cells = s.cells := rfl
@[simp] theorem State.mapThreads_tlbs (s : State) (f : Thread → Thread) : (s.mapThreads f).tlbs = s.tlbs := rfl
@[simp] theorem State.mapThreads_keyRegs (s : State) (f : Thread → Thread) : (s.mapThreads f).keyRegs = s.keyRegs := rfl
@[simp] theorem State.mapThreads_regions (s : State) (f : Thread → Thread) : (s.mapThreads f).regions = s.regions := rfl
@[simp] theorem State.mapThreads_moons (s : State) (f : Thread → Thread) : (s.mapThreads f).moons = s.moons := rfl
@[simp] theorem State.mapThreads_farMoons (s : State) (f : Thread → Thread) : (s.mapThreads f).farMoons = s.farMoons := rfl
@[simp] theorem State.mapThreads_subs (s : State) (f : Thread → Thread) : (s.mapThreads f).subs = s.subs := rfl
@[simp] theorem State.mapThreads_subscribers (s : State) (f : Thread → Thread) : (s.mapThreads f).subscribers = s.subscribers := rfl
@[simp] theorem State.mapThreads_pages (s : State) (f : Thread → Thread) : (s.mapThreads f).pages = s.pages := rfl
@[simp] theorem State.mapThreads_released (s : State) (f : Thread → Thread) : (s.mapThreads f).released = s.released := rfl
@[simp] theorem State.mapThreads_finished (s : State) (f : Thread → Thread) : (s.mapThreads f).finished = s.finished := rfl
@[simp] theorem State.mapThreads_gangs (s : State) (f : Thread → Thread) : (s.mapThreads f).gangs = s.gangs := rfl
@[simp] theorem State.mapThreads_waiting (s : State) (f : Thread → Thread) : (s.mapThreads f).waiting = s.waiting := rfl
@[simp] theorem State.mapThreads_completed (s : State) (f : Thread → Thread) : (s.mapThreads f).completed = s.completed := rfl
@[simp] theorem State.mapThreads_tokenQueue (s : State) (f : Thread → Thread) : (s.mapThreads f).tokenQueue = s.tokenQueue := rfl
@[simp] theorem State.mapThreads_caravans (s : State) (f : Thread → Thread) : (s.mapThreads f).caravans = s.caravans := rfl
@[simp] theorem State.mapThreads_cvDests (s : State) (f : Thread → Thread) : (s.mapThreads f).cvDests = s.cvDests := rfl
@[simp] theorem State.mapThreads_decisions (s : State) (f : Thread → Thread) : (s.mapThreads f).decisions = s.decisions := rfl
@[simp] theorem State.mapThreads_hostLines (s : State) (f : Thread → Thread) : (s.mapThreads f).hostLines = s.hostLines := rfl
@[simp] theorem State.mapThreads_mesi (s : State) (f : Thread → Thread) : (s.mapThreads f).mesi = s.mesi := rfl
@[simp] theorem State.mapThreads_hosts (s : State) (f : Thread → Thread) : (s.mapThreads f).hosts = s.hosts := rfl
@[simp] theorem State.mapThreads_fabric (s : State) (f : Thread → Thread) : (s.mapThreads f).fabric = s.fabric := rfl
@[simp] theorem State.mapThreads_time (s : State) (f : Thread → Thread) : (s.mapThreads f).time = s.time := rfl
@[simp] theorem State.mapThreads_service (s : State) (f : Thread → Thread) : (s.mapThreads f).service = s.service := rfl
@[simp] theorem State.mapThreads_health (s : State) (f : Thread → Thread) : (s.mapThreads f).health = s.health := rfl
@[simp] theorem State.mapThreads_ckpts (s : State) (f : Thread → Thread) : (s.mapThreads f).ckpts = s.ckpts := rfl
@[simp] theorem State.mapThreads_set_th (s : State) (f : Thread → Thread) : (s.mapThreads f).th = f s.th := rfl
@[simp] theorem State.mapThreads_set_threads (s : State) (f : Thread → Thread) : (s.mapThreads f).threads = s.threads.map f := rfl

/-! ### updTid -/

@[simp] theorem State.updTid_agenda (s : State) (i : Nat) (f : Thread → Thread) : (s.updTid i f).agenda = s.agenda := rfl
@[simp] theorem State.updTid_free (s : State) (i : Nat) (f : Thread → Thread) : (s.updTid i f).free = s.free := rfl
@[simp] theorem State.updTid_nextTid (s : State) (i : Nat) (f : Thread → Thread) : (s.updTid i f).nextTid = s.nextTid := rfl
@[simp] theorem State.updTid_doorbells (s : State) (i : Nat) (f : Thread → Thread) : (s.updTid i f).doorbells = s.doorbells := rfl
@[simp] theorem State.updTid_mem (s : State) (i : Nat) (f : Thread → Thread) : (s.updTid i f).mem = s.mem := rfl
@[simp] theorem State.updTid_farMem (s : State) (i : Nat) (f : Thread → Thread) : (s.updTid i f).farMem = s.farMem := rfl
@[simp] theorem State.updTid_poisoned (s : State) (i : Nat) (f : Thread → Thread) : (s.updTid i f).poisoned = s.poisoned := rfl
@[simp] theorem State.updTid_locks (s : State) (i : Nat) (f : Thread → Thread) : (s.updTid i f).locks = s.locks := rfl
@[simp] theorem State.updTid_position (s : State) (i : Nat) (f : Thread → Thread) : (s.updTid i f).position = s.position := rfl
@[simp] theorem State.updTid_moduleId (s : State) (i : Nat) (f : Thread → Thread) : (s.updTid i f).moduleId = s.moduleId := rfl
@[simp] theorem State.updTid_islandTicks (s : State) (i : Nat) (f : Thread → Thread) : (s.updTid i f).islandTicks = s.islandTicks := rfl
@[simp] theorem State.updTid_cores (s : State) (i : Nat) (f : Thread → Thread) : (s.updTid i f).cores = s.cores := rfl
@[simp] theorem State.updTid_cells (s : State) (i : Nat) (f : Thread → Thread) : (s.updTid i f).cells = s.cells := rfl
@[simp] theorem State.updTid_tlbs (s : State) (i : Nat) (f : Thread → Thread) : (s.updTid i f).tlbs = s.tlbs := rfl
@[simp] theorem State.updTid_keyRegs (s : State) (i : Nat) (f : Thread → Thread) : (s.updTid i f).keyRegs = s.keyRegs := rfl
@[simp] theorem State.updTid_regions (s : State) (i : Nat) (f : Thread → Thread) : (s.updTid i f).regions = s.regions := rfl
@[simp] theorem State.updTid_moons (s : State) (i : Nat) (f : Thread → Thread) : (s.updTid i f).moons = s.moons := rfl
@[simp] theorem State.updTid_farMoons (s : State) (i : Nat) (f : Thread → Thread) : (s.updTid i f).farMoons = s.farMoons := rfl
@[simp] theorem State.updTid_subs (s : State) (i : Nat) (f : Thread → Thread) : (s.updTid i f).subs = s.subs := rfl
@[simp] theorem State.updTid_subscribers (s : State) (i : Nat) (f : Thread → Thread) : (s.updTid i f).subscribers = s.subscribers := rfl
@[simp] theorem State.updTid_pages (s : State) (i : Nat) (f : Thread → Thread) : (s.updTid i f).pages = s.pages := rfl
@[simp] theorem State.updTid_released (s : State) (i : Nat) (f : Thread → Thread) : (s.updTid i f).released = s.released := rfl
@[simp] theorem State.updTid_finished (s : State) (i : Nat) (f : Thread → Thread) : (s.updTid i f).finished = s.finished := rfl
@[simp] theorem State.updTid_gangs (s : State) (i : Nat) (f : Thread → Thread) : (s.updTid i f).gangs = s.gangs := rfl
@[simp] theorem State.updTid_waiting (s : State) (i : Nat) (f : Thread → Thread) : (s.updTid i f).waiting = s.waiting := rfl
@[simp] theorem State.updTid_completed (s : State) (i : Nat) (f : Thread → Thread) : (s.updTid i f).completed = s.completed := rfl
@[simp] theorem State.updTid_tokenQueue (s : State) (i : Nat) (f : Thread → Thread) : (s.updTid i f).tokenQueue = s.tokenQueue := rfl
@[simp] theorem State.updTid_caravans (s : State) (i : Nat) (f : Thread → Thread) : (s.updTid i f).caravans = s.caravans := rfl
@[simp] theorem State.updTid_cvDests (s : State) (i : Nat) (f : Thread → Thread) : (s.updTid i f).cvDests = s.cvDests := rfl
@[simp] theorem State.updTid_decisions (s : State) (i : Nat) (f : Thread → Thread) : (s.updTid i f).decisions = s.decisions := rfl
@[simp] theorem State.updTid_hostLines (s : State) (i : Nat) (f : Thread → Thread) : (s.updTid i f).hostLines = s.hostLines := rfl
@[simp] theorem State.updTid_mesi (s : State) (i : Nat) (f : Thread → Thread) : (s.updTid i f).mesi = s.mesi := rfl
@[simp] theorem State.updTid_hosts (s : State) (i : Nat) (f : Thread → Thread) : (s.updTid i f).hosts = s.hosts := rfl
@[simp] theorem State.updTid_fabric (s : State) (i : Nat) (f : Thread → Thread) : (s.updTid i f).fabric = s.fabric := rfl
@[simp] theorem State.updTid_time (s : State) (i : Nat) (f : Thread → Thread) : (s.updTid i f).time = s.time := rfl
@[simp] theorem State.updTid_service (s : State) (i : Nat) (f : Thread → Thread) : (s.updTid i f).service = s.service := rfl
@[simp] theorem State.updTid_health (s : State) (i : Nat) (f : Thread → Thread) : (s.updTid i f).health = s.health := rfl
@[simp] theorem State.updTid_ckpts (s : State) (i : Nat) (f : Thread → Thread) : (s.updTid i f).ckpts = s.ckpts := rfl
@[simp] theorem State.updTid_set_th (s : State) (i : Nat) (f : Thread → Thread) : (s.updTid i f).th = if s.th.tid = i then f s.th else s.th := rfl

end Sys2Proof.Machine
end

