-- ==== Sys2Proof/Laws/Regs.lean ====
section
/-! SUPPORT. Registers: read after write, and the operations of commit and of a boundary that leave every register of
the issuing context alone. -/
namespace Sys2Proof.Machine

/-! ## Read after write -/

theorem Arch.getX_zero (a : Arch) : a.getX 0 = 0 := by simp [Arch.getX]

theorem Arch.getM_zero (a : Arch) : a.getM 0 = BitVec.allOnes 64 := by simp [Arch.getM]

/-- x[q] after x[r] := v. -/
theorem Arch.getX_setX (a : Arch) (r q : Nat) (v : W64) :
    (a.setX r v).getX q = if q = r ∧ r ≠ 0 then v else a.getX q := by
  by_cases hr : r = 0
  · simp [Arch.setX, hr]
  · by_cases hlow : r < 16
    · simp only [Arch.setX, if_neg hr, if_pos hlow, Arch.getX]
      by_cases hq : q = 0
      · have : q ≠ r := by omega
        simp [hq, Ne.symm hr]
      · by_cases hq16 : q < 16
        · simp only [if_neg hq, if_pos hq16, Map.get_set 0 a.x r q v]
          by_cases hqr : q = r <;> simp [hqr, hr]
        · have : q ≠ r := by omega
          simp [hq, hq16, this]
    · simp only [Arch.setX, if_neg hr, if_neg hlow, Arch.getX]
      by_cases hq : q = 0
      · have : q ≠ r := by omega
        simp [hq, Ne.symm hr]
      · by_cases hq16 : q < 16
        · have : q ≠ r := by omega
          simp [hq, hq16, this]
        · simp only [if_neg hq, if_neg hq16, Map.get_set 0 a.win _ _ v]
          by_cases hqr : q = r
          · simp [hqr, hr]
          · have : q - 16 ≠ r - 16 := by omega
            simp [hqr, this]

/-- v[q] after v[r] := w. -/
theorem Arch.getV_setV (a : Arch) (r q : Nat) (w : V512) :
    (a.setV r w).getV q = if q = r then w else a.getV q := Map.get_set 0 a.v r q w

/-- m[q] after m[r] := w. -/
theorem Arch.getM_setM (a : Arch) (r q : Nat) (w : W64) :
    (a.setM r w).getM q = if q = r ∧ r ≠ 0 then w else a.getM q := by
  by_cases hr : r = 0
  · simp [Arch.setM, hr]
  · simp only [Arch.setM, if_neg hr, Arch.getM]
    by_cases hq : q = 0
    · simp [hq, Ne.symm hr]
    · simp only [if_neg hq, Map.get_set 0 a.m r q w]
      by_cases hqr : q = r <;> simp [hqr, hr]

theorem Arch.setX_other (a : Arch) (r : Nat) (v : W64) :
    (a.setX r v).v = a.v ∧ (a.setX r v).m = a.m ∧ (a.setX r v).depth = a.depth ∧ (a.setX r v).pc = a.pc ∧
    (a.setX r v).repcnt = a.repcnt ∧ (a.setX r v).fcsr = a.fcsr := by
  unfold Arch.setX
  split
  · exact ⟨rfl, rfl, rfl, rfl, rfl, rfl⟩
  · split <;> exact ⟨rfl, rfl, rfl, rfl, rfl, rfl⟩

/-! ## What leaves the registers alone -/

/-- The registers of a context: scalar, window, frame depth, vector, mask, FCSR, the stochastic-rounding seed and count,
the format contexts and STEP. -/
def Arch.regs (a : Arch) : Map W64 × Map W64 × Nat × Map V512 × Map W64 × W64 × W64 × W64 × Map W64 × W64 :=
  (a.x, a.win, a.depth, a.v, a.m, a.fcsr, a.srseed, a.srcount, a.fmtctx, a.step)

/-- The registers of a context. -/
def Thread.regs (t : Thread) : Map W64 × Map W64 × Nat × Map V512 × Map W64 × W64 × W64 × W64 × Map W64 × W64 := t.arch.regs

theorem regs_of_arch {t u : Thread} (h : t.arch = u.arch) : t.regs = u.regs := by rw [Thread.regs, h]; rfl

theorem Arch.getX_regs {a b : Arch} (h : a.regs = b.regs) (r : Nat) : a.getX r = b.getX r := by
  simp only [Arch.regs, Prod.mk.injEq] at h
  simp only [Arch.getX, h.1, h.2.1, h.2.2.1]

theorem Arch.getV_regs {a b : Arch} (h : a.regs = b.regs) (r : Nat) : a.getV r = b.getV r := by
  simp only [Arch.regs, Prod.mk.injEq] at h
  simp only [Arch.getV, h.2.2.2.1]

theorem Arch.getM_regs {a b : Arch} (h : a.regs = b.regs) (r : Nat) : a.getM r = b.getM r := by
  simp only [Arch.regs, Prod.mk.injEq] at h
  simp only [Arch.getM, h.2.2.2.2.1]

theorem Arch.fcsr_regs {a b : Arch} (h : a.regs = b.regs) : a.fcsr = b.fcsr := by
  simp only [Arch.regs, Prod.mk.injEq] at h
  exact h.2.2.2.2.2.1

theorem Arch.srcount_regs {a b : Arch} (h : a.regs = b.regs) : a.srseed = b.srseed ∧ a.srcount = b.srcount ∧ a.fmtctx = b.fmtctx ∧ a.step = b.step := by
  simp only [Arch.regs, Prod.mk.injEq] at h
  exact h.2.2.2.2.2.2

theorem foldl_regs {α : Type} (f : State → α → State) (h : ∀ s a, (f s a).th.regs = s.th.regs) :
    ∀ (l : List α) (s : State), (l.foldl f s).th.regs = s.th.regs := by
  intro l
  induction l with
  | nil => intro s; rfl
  | cons a l ih => intro s; rw [List.foldl_cons, ih, h]

theorem updTid_regs (s : State) (i : Nat) (f : Thread → Thread) (h : ∀ t, (f t).regs = t.regs) :
    (s.updTid i f).th.regs = s.th.regs := by
  rw [State.updTid_set_th]
  split
  · exact h _
  · rfl

theorem perf_th (s : State) (c e n : Nat) : (s.perf c e n).th = s.th := by
  unfold State.perf; split <;> rfl

theorem perfCell_th (s : State) (c e n : Nat) : (s.perfCell c e n).th = s.th := by
  rw [State.perfCell, perf_th, perf_th]

theorem traceWord_th (s : State) (c : Nat) (w : W64) : (s.traceWord c w).th = s.th := by
  unfold State.traceWord; simp only []; repeat' first | rfl | split

theorem traceRec_th (s : State) (c : Nat) (w : W64) : (s.traceRec c w).th = s.th := by
  unfold State.traceRec
  simp only [traceWord_th]
  split <;> simp only [State.updDbg_th, traceWord_th]

theorem foldl_th {α : Type} (f : State → α → State) (h : ∀ s a, (f s a).th = s.th) :
    ∀ (l : List α) (s : State), (l.foldl f s).th = s.th := by
  intro l
  induction l with
  | nil => intro s; rfl
  | cons a l ih => intro s; rw [List.foldl_cons, ih, h]

theorem traceAll_th (s : State) (c : Nat) (ws : List W64) : (s.traceAll c ws).th = s.th :=
  foldl_th _ (fun s w => traceRec_th s c w) ws s

theorem noteVector_th (s : State) (pc : W64) : (s.noteVector pc).th = s.th := by
  unfold State.noteVector; split
  · exact traceRec_th _ _ _
  · rfl

theorem putByte_th (s : State) (c : MCell) : (s.putByte c).th = s.th := by
  unfold State.putByte; simp only []; split <;> rfl

theorem putCells_th (s : State) (cs : List MCell) : (s.putCells cs).th = s.th := foldl_th _ putByte_th cs s

theorem wake_regs (s : State) (tid : Nat) (m : Bool) : (s.wake tid m).th.regs = s.th.regs := by
  unfold State.wake
  split
  · rfl
  · split
    · rfl
    · split
      · rfl
      · exact updTid_regs _ _ _ (fun _ => rfl)

theorem wakeIf_regs (s : State) (p : Thread → Bool) (m : Bool) : (s.wakeIf p m).th.regs = s.th.regs :=
  foldl_regs _ (fun _ _ => wake_regs _ _ _) _ s

theorem collapse_th (s : State) (l : Nat) : (s.collapse l).th = s.th := by
  unfold State.collapse; split <;> rfl

theorem countWrite_th (s : State) (l : Nat) : (s.countWrite l).th = s.th := by
  unfold State.countWrite
  split
  · rfl
  · exact collapse_th s l

theorem noteWrite_th (s : State) (l : Nat) : (s.noteWrite l).th = s.th := by
  unfold State.noteWrite
  split
  · rfl
  · simp only []
    split <;> exact countWrite_th s l

theorem makeVisible_regs (s : State) (cs : List MCell) : (s.makeVisible cs).th.regs = s.th.regs := by
  unfold State.makeVisible
  simp only [wakeIf_regs]
  rw [foldl_th _ noteWrite_th]
  simp only [State.dropCopies, State.unhold, State.setMesi, putCells_th]

theorem wakeTasks_regs (s : State) : s.wakeTasks.th.regs = s.th.regs := wakeIf_regs _ _ _

theorem cvEnd_regs (s : State) (i o : Nat) : (s.cvEnd i o).th.regs = s.th.regs := by
  unfold State.cvEnd
  simp only [wakeTasks_regs, wakeIf_regs]
  rfl

theorem endGang_regs (s : State) (g c gr ca : Nat) (f : BitVec 8) : (s.endGang g c gr ca f).th.regs = s.th.regs := by
  unfold State.endGang
  split
  · rfl
  · simp only [wakeIf_regs, foldl_regs _ (fun a i => cvEnd_regs a i 5), State.mapThreads]
    split <;> (try split) <;> rfl

theorem mismatch_regs (s : State) (g : Nat) : (s.mismatch g).th.regs = s.th.regs := by
  rw [State.mismatch, endGang_regs, State.updGang_th]

theorem noteCommit_regs (s : State) (n : Nat) : (s.noteCommit n).th.regs = s.th.regs := by
  unfold State.noteCommit
  split
  · rfl
  · split
    · rfl
    · split
      · split
        · exact mismatch_regs _ _
        · rfl
      · rfl

theorem noteBoundary_regs (s : State) : s.noteBoundary.th.regs = s.th.regs := by
  unfold State.noteBoundary
  split
  · rfl
  · split
    · exact mismatch_regs _ _
    · exact noteCommit_regs _ _

theorem noteChunk_th (s : State) (n : Nat) : (s.noteChunk n).th = s.th := by
  unfold State.noteChunk
  simp only []
  split
  · rw [traceRec_th, traceAll_th, perf_th, perf_th]
  · rw [perf_th, perf_th]

theorem logDirty_th (s : State) (ls : List Nat) : (s.logDirty ls).th = s.th := by
  unfold State.logDirty
  refine foldl_th _ (fun k l => ?_) ls s
  simp only []
  split <;> rfl

theorem commitStash_th (s : State) (c : Chunk) : (s.commitStash c).th = s.th := by
  unfold State.commitStash
  simp only []
  rw [foldl_th]
  · split <;> rfl
  · intro k r; rfl

theorem ownStash_th (s : State) (c : Nat) (hs : List Held) : (s.ownStash c hs).th = s.th := by
  unfold State.ownStash; split <;> rfl

theorem narrowMoons_th (s : State) (r c : Nat) : (s.narrowMoons r c).th = s.th := rfl

theorem applyHint_th (s : State) (h : Hint) : (s.applyHint h).th = s.th := by
  unfold State.applyHint
  split
  · split <;> rfl
  · extract_lets g lo hi d s1 new
    have h1 : s1.th = s.th := by
      show (if _ then _ else _ : State).th = _
      split <;> rfl
    exact h1

theorem ownCache_th (s : State) (c : Nat) (hs : List Held) : (s.ownCache c hs).th = s.th := rfl

theorem allowed_th (s : State) (i : Initiator) (cs : List MCell) : (s.allowed i cs).1.th = s.th := by
  unfold State.allowed
  exact foldl_th (fun k l => k.logAddr (64 * l)) (fun _ _ => rfl) _ s

theorem arrive_regs (s : State) (g r b p : Nat) (x : Bool) : (s.arrive g r b p x).th.regs = s.th.regs := by
  unfold State.arrive
  simp only []
  split
  · rfl
  · rw [wakeIf_regs, State.updGang_th]

theorem releaseOne_th (s : State) (i : Item) : (s.releaseOne i).th = s.th := by
  unfold State.releaseOne
  split
  · simp only []
    split <;> rfl
  · rfl

theorem commitCaravan_regs (s : State) : s.commitCaravan.th.regs = s.th.regs := by
  unfold State.commitCaravan
  simp only []
  split <;> rfl

theorem wakeSet_regs (s : State) (c : Nat) : (s.wakeSet c).th.regs = s.th.regs := by
  unfold State.wakeSet State.mapThreads
  simp only []
  split <;> rfl

/-- The commit of a chunk leaves the registers alone. -/
theorem commitChunk_regs (s : State) : s.commitChunk.th.regs = s.th.regs := by
  unfold State.commitChunk
  simp only []
  rw [show ∀ (k : State) (f : Thread → Thread), (k.updTh f).th = f k.th from fun _ _ => rfl]
  show ((State.wakeSet _ _).th.regs) = _
  rw [wakeSet_regs]
  show ((State.releaseAll _ _).th.regs) = _
  unfold State.releaseAll
  rw [foldl_th _ releaseOne_th, commitCaravan_regs]
  show ((List.foldl _ _ _ : State).th.regs) = _
  rw [foldl_regs]
  · rw [foldl_th _ applyHint_th, ownCache_th, commitStash_th, ownStash_th, logDirty_th]
    split
    · show (State.allowed _ _ _).1.th.regs = _
      rw [allowed_th, noteCommit_regs, noteChunk_th]
    · rw [makeVisible_regs, allowed_th, noteCommit_regs, noteChunk_th]
  · intro k a
    split
    · exact arrive_regs _ _ _ _ _ _
    · rfl

theorem semWake_regs : ∀ (ps : List (Nat × Nat)) (s : State) (n : Nat), (s.semWake n ps).th.regs = s.th.regs := by
  intro ps
  induction ps with
  | nil => intro s n; rfl
  | cons p ps ih =>
    intro s n
    unfold State.semWake
    simp only []
    split
    · rw [ih]
      split
      · exact wake_regs _ _ _
      · rfl
    · rfl

theorem takeTrap_regs (s : State) (c : Cause) (v : W64) : (s.takeTrap c v).th.regs = s.th.regs := by
  unfold State.takeTrap
  extract_lets s0
  have h0 : s0.th = s.th := by
    show (if _ then _ else _ : State).th = _
    split
    · unfold State.flagGang; split <;> rfl
    · rfl
  clear_value s0
  split
  · split
    · rw [endGang_regs]
      show (Thread.gone s0.th).regs = _
      rw [h0]; rfl
    · show (Thread.gone s0.th).regs = _
      rw [h0]; rfl
  · rename_i s1 s2 _
    have h1 : s1.th.regs = s.th.regs := by rw [← h0]; rfl
    clear_value s1
    rw [noteVector_th]
    show (match _ with | Wait.sem n _ => _ | _ => _ : State).th.regs = _
    split
    · unfold State.semServe
      rw [semWake_regs, h1]
    · exact h1

theorem stopHere_regs (s : State) : s.stopHere.th.regs = s.th.regs := by
  unfold State.stopHere
  extract_lets t s1 s2
  have h2 : s2.th.regs = s.th.regs := by
    show (if _ then _ else _ : State).th.regs = _
    split <;> rfl
  clear_value s2
  split
  · rw [traceRec_th, h2]
  · exact h2

theorem trapStep_regs (s : State) (c : Cause) (v : W64) : (s.trapStep c v).th.regs = s.th.regs := by
  unfold State.trapStep
  simp only []
  split
  · rw [stopHere_regs, takeTrap_regs]
  · exact takeTrap_regs _ _ _

theorem pageFault_regs (s : State) (va : W64) (r : FaultReason) (a : Access) : (s.pageFault va r a).th.regs = s.th.regs := by
  unfold State.pageFault
  simp only [State.updTh_set_th]
  show Thread.regs (State.perf _ _ _ _).th = _
  rw [perf_th]

theorem overflowItem_regs (s : State) : s.overflowItem.th.regs = s.th.regs := by
  have hg : ∀ (k : State) (f : Gang → Gang), (k.updMyGang f).th = k.th := by
    intro k f; unfold State.updMyGang; split <;> rfl
  unfold State.overflowItem
  extract_lets s0 s1 s2
  have h1 : s1.th = s.th := hg s0 _
  have h2 : s2.th.regs = s.th.regs := by
    rw [← h1]
    unfold s2
    split
    · unfold State.queueExact
      split
      · rfl
      · rw [wakeIf_regs, State.updGang_th]
    · rfl
  rw [wakeTasks_regs]
  exact h2

theorem merge1_regs (t : Thread) (m : Merge) : (t.merge1 m).regs = t.regs := by
  cases m with
  | flags f => rfl
  | copyDone n => rfl
  | copyFault op side code off addr => unfold Thread.merge1; simp only []; split <;> rfl
  | async src code addr =>
    unfold Thread.merge1 Thread.asyncRecord Thread.regs
    dsimp only
    split <;> dsimp only

theorem mergeAll_regs (t : Thread) : t.mergeAll.regs = t.regs := by
  have : ∀ (ms : List Merge) (u : Thread), (ms.foldl Thread.merge1 u).regs = u.regs := by
    intro ms
    induction ms with
    | nil => intro u; rfl
    | cons m ms ih => intro u; rw [List.foldl_cons, ih, merge1_regs]
  exact this t.merges t

/-- What a boundary leads to leaves the registers alone. -/
theorem atBoundary_regs (s : State) (a : After) : (s.atBoundary a).th.regs = s.th.regs := by
  have h1 : (s.updTh (fun t => { t.mergeAll with st := .runnable, after := .reissue, swapBarred := false })).th.regs = s.th.regs :=
    have hu : ∀ u : Thread, ({ u with st := .runnable, after := .reissue, swapBarred := false } : Thread).regs = u.regs := fun _ => rfl
    (hu _).trans (mergeAll_regs s.th)
  unfold State.atBoundary
  simp only []
  split
  · rw [State.removed, wakeTasks_regs]; exact (show (Thread.gone _).regs = _ from h1)
  · split
    · rw [trapStep_regs]; exact h1
    · split
      · exact h1
      · rw [trapStep_regs]; exact h1
      · rw [pageFault_regs]; exact h1
      · split
        · rw [stopHere_regs]; exact h1
        · exact h1
      · rw [overflowItem_regs]; exact h1
      · split
        · rw [trapStep_regs]; exact h1
        · rw [stopHere_regs]; exact h1

theorem disagree_regs (s : State) : s.disagree.th.regs = s.th.regs := by
  unfold State.disagree
  show (Thread.gone _).regs = _
  split
  · exact (show (Thread.gone _).regs = _ from mismatch_regs _ _)
  · rfl

/-- A cut leaves the registers alone. -/
theorem cut_regs (s : State) (a : After) : (s.cut a).th.regs = s.th.regs := by
  unfold State.cut
  extract_lets k
  have hk : k.th.regs = s.th.regs := rfl
  clear_value k
  split
  · rw [atBoundary_regs, hk]
  · have rest : (if k.th.chunk.isLocal && k.turnOf k.th then k.commitChunk.atBoundary a
        else k.updTh (fun t => { t with st := .requesting, after := a }) : State).th.regs = s.th.regs := by
      split
      · rw [atBoundary_regs, commitChunk_regs, hk]
      · exact hk
    split
    · rw [disagree_regs, hk]
    · exact rest

theorem advance_regs (a : Arch) (i : Bool) (p : W64) : (a.advance i p).regs = a.regs := by
  unfold Arch.advance
  split
  · simp only []
    split
    · split <;> rfl
    · rfl
  · rfl

theorem openChunk_regs (s : State) : s.openChunk.th.regs = s.th.regs := by
  unfold State.openChunk; split <;> rfl

/-- The end of an instruction leaves the registers alone, also where the chunk is cut at its limit (R37). -/
theorem retireTo_regs (s : State) (p : W64) : (s.retireTo p).th.regs = s.th.regs := by
  unfold State.retireTo
  simp only []
  split
  · rw [cut_regs]; exact advance_regs _ _ _
  · exact advance_regs _ _ _

theorem retire_regs (s : State) : s.retire.th.regs = s.th.regs := retireTo_regs _ _

end Sys2Proof.Machine
end

