-- ==== Sys2Proof/Laws/Results.lean ====
section
/-! SUPPORT. What a plain instruction with one result leaves: registers, flags, and its place in the chunk. Provers cite
these instead of unfolding a retirement. -/
namespace Sys2Proof.Machine

/-! ## Registers -/

theorem x_of_regs {s t : State} (h : t.th.regs = s.th.regs) (r : Reg) : t.x r = s.x r := Arch.getX_regs h _
theorem v_of_regs {s t : State} (h : t.th.regs = s.th.regs) (r : Reg) : t.v r = s.v r := Arch.getV_regs h _
theorem m_of_regs {s t : State} (h : t.th.regs = s.th.regs) (r : MaskReg) : t.m r = s.m r := Arch.getM_regs h _
theorem fcsr_of_regs {s t : State} (h : t.th.regs = s.th.regs) : t.th.arch.fcsr = s.th.arch.fcsr := Arch.fcsr_regs h

theorem sameRegs_of_regs {s t : State} (h : t.th.regs = s.th.regs) : s.sameRegs t :=
  ⟨x_of_regs h, v_of_regs h, m_of_regs h, by rw [State.gains, fcsr_of_regs h]; simp⟩

/-- A plain instruction's registers are those its effect gives. -/
theorem plain_regs (s : State) (f : State → State) : (s.plain f).th.regs = (f s.openChunk).th.regs := retire_regs _

theorem toNat_eq_zero {n : Nat} (r : BitVec n) : r.toNat = 0 ↔ r = 0 := by
  constructor
  · intro h; exact BitVec.eq_of_toNat_eq (by simpa using h)
  · rintro rfl; rfl

/-- A register set that changes one scalar register and raises flags. -/
theorem onlyX_of {s t : State} {d : Reg} {v : W64} {fl : Nat} (a : Arch) (ha : a.regs = s.th.regs)
    (ht : t.th.regs = ((a.setX d.toNat v).raiseFlags fl).regs) : s.onlyX t d v fl := by
  have e : ∀ r : Reg, t.x r = (a.setX d.toNat v).getX r.toNat := fun r =>
    (Arch.getX_regs (a := t.th.arch) ht r.toNat).trans rfl
  have o := Arch.setX_other a d.toNat v
  refine ⟨fun r => ?_, fun r => ?_, fun r => ?_, ?_⟩
  · rw [e, Arch.getX_setX]
    have : a.getX r.toNat = s.x r := Arch.getX_regs (a := a) (b := s.th.arch) ha r.toNat
    rw [this]
    by_cases h : r = d
    · subst h
      simp [toNat_eq_zero]
    · have : r.toNat ≠ d.toNat := fun c => h (BitVec.eq_of_toNat_eq c)
      simp [h, this]
  · have h1 : t.v r = (a.setX d.toNat v).getV r.toNat := (Arch.getV_regs (a := t.th.arch) ht r.toNat).trans rfl
    rw [h1, Arch.getV, o.1]
    exact Arch.getV_regs (a := a) (b := s.th.arch) ha r.toNat
  · have h1 : t.m r = (a.setX d.toNat v).getM r.toNat := (Arch.getM_regs (a := t.th.arch) ht r.toNat).trans rfl
    rw [h1, Arch.getM, o.2.1]
    exact Arch.getM_regs (a := a) (b := s.th.arch) ha r.toNat
  · have h1 : t.th.arch.fcsr = (a.setX d.toNat v).fcsr ||| BitVec.ofNat 64 (fl % 32) := Arch.fcsr_regs (a := t.th.arch) ht
    rw [State.gains, h1, o.2.2.2.2.2]
    rw [show a.fcsr = s.th.arch.fcsr from Arch.fcsr_regs (a := a) (b := s.th.arch) ha]

theorem raiseFlags_regs0 (a : Arch) : (a.raiseFlags 0).regs = a.regs := by
  simp [Arch.raiseFlags, Arch.regs]

/-- A scalar result: only x[d] changes. -/
theorem setResult_onlyX (s : State) (d : Reg) (v : W64) : s.onlyX (s.setResult d v) d v :=
  onlyX_of s.openChunk.th.arch (openChunk_regs s) ((plain_regs _ _).trans (raiseFlags_regs0 _).symm)

/-- A floating scalar result: only x[d] changes, and the flags enter FCSR. -/
theorem fpResult_onlyX (s : State) (d : Reg) (r : Nat × Nat) : s.onlyX (s.fpResult d r) d (BitVec.ofNat 64 r.1) r.2 :=
  onlyX_of s.openChunk.th.arch (openChunk_regs s) (plain_regs _ _)

/-- A vector result: only v[d] changes, and the flags enter FCSR. -/
theorem onlyV_of {s t : State} {d : Reg} {v : V512} {fl : Nat} (a : Arch) (ha : a.regs = s.th.regs)
    (ht : t.th.regs = ((a.setV d.toNat v).raiseFlags fl).regs) : s.onlyV t d v fl := by
  refine ⟨fun r => ?_, fun r => ?_, fun r => ?_, ?_⟩
  · have h1 : t.v r = (a.setV d.toNat v).getV r.toNat := (Arch.getV_regs (a := t.th.arch) ht r.toNat).trans rfl
    rw [h1, Arch.getV_setV, show a.getV r.toNat = s.v r from Arch.getV_regs (a := a) (b := s.th.arch) ha r.toNat]
    by_cases h : r = d
    · simp [h]
    · have : r.toNat ≠ d.toNat := fun c => h (BitVec.eq_of_toNat_eq c)
      simp [h, this]
  · exact ((Arch.getX_regs (a := t.th.arch) ht r.toNat).trans rfl).trans (Arch.getX_regs (a := a) (b := s.th.arch) ha r.toNat)
  · exact ((Arch.getM_regs (a := t.th.arch) ht r.toNat).trans rfl).trans (Arch.getM_regs (a := a) (b := s.th.arch) ha r.toNat)
  · have h1 : t.th.arch.fcsr = a.fcsr ||| BitVec.ofNat 64 (fl % 32) := Arch.fcsr_regs (a := t.th.arch) ht
    rw [State.gains, h1, show a.fcsr = s.th.arch.fcsr from Arch.fcsr_regs (a := a) (b := s.th.arch) ha]

/-- A mask result: only m[d] changes, and the flags enter FCSR. -/
theorem onlyM_of {s t : State} {d : MaskReg} {v : W64} {fl : Nat} (a : Arch) (ha : a.regs = s.th.regs)
    (ht : t.th.regs = ((a.setM d.toNat v).raiseFlags fl).regs) : s.onlyM t d v fl := by
  have o : (a.setM d.toNat v).x = a.x ∧ (a.setM d.toNat v).win = a.win ∧ (a.setM d.toNat v).depth = a.depth ∧
      (a.setM d.toNat v).v = a.v ∧ (a.setM d.toNat v).fcsr = a.fcsr := by
    unfold Arch.setM; split <;> exact ⟨rfl, rfl, rfl, rfl, rfl⟩
  refine ⟨fun r => ?_, fun r => ?_, fun r => ?_, ?_⟩
  · have h1 : t.m r = (a.setM d.toNat v).getM r.toNat := (Arch.getM_regs (a := t.th.arch) ht r.toNat).trans rfl
    rw [h1, Arch.getM_setM, show a.getM r.toNat = s.m r from Arch.getM_regs (a := a) (b := s.th.arch) ha r.toNat]
    by_cases h : r = d
    · subst h
      simp [toNat_eq_zero]
    · have : r.toNat ≠ d.toNat := fun c => h (BitVec.eq_of_toNat_eq c)
      simp [h, this]
  · have h1 : t.x r = (a.setM d.toNat v).getX r.toNat := (Arch.getX_regs (a := t.th.arch) ht r.toNat).trans rfl
    rw [h1, Arch.getX, o.1, o.2.1, o.2.2.1]
    exact Arch.getX_regs (a := a) (b := s.th.arch) ha r.toNat
  · have h1 : t.v r = (a.setM d.toNat v).getV r.toNat := (Arch.getV_regs (a := t.th.arch) ht r.toNat).trans rfl
    rw [h1, Arch.getV, o.2.2.2.1]
    exact Arch.getV_regs (a := a) (b := s.th.arch) ha r.toNat
  · have h1 : t.th.arch.fcsr = (a.setM d.toNat v).fcsr ||| BitVec.ofNat 64 (fl % 32) := Arch.fcsr_regs (a := t.th.arch) ht
    rw [State.gains, h1, o.2.2.2.2, show a.fcsr = s.th.arch.fcsr from Arch.fcsr_regs (a := a) (b := s.th.arch) ha]

theorem setV_onlyV (s : State) (d : Reg) (v : V512) : s.onlyV (s.plain (fun k => k.setV d v)) d v :=
  onlyV_of s.openChunk.th.arch (openChunk_regs s) ((plain_regs _ _).trans (raiseFlags_regs0 _).symm)

theorem setM_onlyM (s : State) (d : MaskReg) (v : W64) : s.onlyM (s.plain (fun k => k.setM d v)) d v :=
  onlyM_of s.openChunk.th.arch (openChunk_regs s) ((plain_regs _ _).trans (raiseFlags_regs0 _).symm)

/-! ## Inside the chunk -/

theorem openChunk_open (s : State) : s.openChunk.th.chunk.isOpen = true := by
  unfold State.openChunk; split
  · assumption
  · rfl

/-- What opening a chunk leaves alone. -/
theorem openChunk_plain (s : State) : s.openChunk.position = s.position ∧ s.openChunk.th.chunks = s.th.chunks ∧
    s.openChunk.th.trapcause = s.th.trapcause ∧ s.openChunk.th.trappc = s.th.trappc ∧ s.openChunk.th.st = s.th.st := by
  unfold State.openChunk; split <;> exact ⟨rfl, rfl, rfl, rfl, rfl⟩

/-- A retirement below the limit is one more instruction of the chunk, and nothing else. -/
theorem retireTo_inChunk {s k : State} (p : W64) (hr : s.roomy) (ho : k.th.chunk.isOpen = true)
    (hc : k.th.chunk.icount = s.openChunk.th.chunk.icount) (hl : k.chunkLimit = s.chunkLimit)
    (hp : k.position = s.position ∧ k.th.chunks = s.th.chunks ∧ k.th.trapcause = s.th.trapcause ∧
      k.th.trappc = s.th.trappc ∧ k.th.st = s.th.st) : s.inChunk (k.retireTo p) := by
  unfold State.retireTo
  extract_lets s1
  have h1 : s1.chunkLimit = k.chunkLimit := rfl
  have h2 : s1.th.chunk.icount = k.th.chunk.icount + 1 := rfl
  have hn : ¬ (s1.chunkLimit ≤ s1.th.chunk.icount) := by
    rw [h1, h2, hl, hc]; unfold State.roomy at hr; omega
  rw [if_neg hn]
  exact ⟨ho, h2.trans (by rw [hc]), ⟨hp.1, hp.2.1⟩, hp.2.2⟩

theorem openChunk_limit (s : State) : s.openChunk.chunkLimit = s.chunkLimit := by
  unfold State.openChunk; split <;> rfl

/-- A plain instruction that changes only the registers stays inside the chunk. -/
theorem plain_inChunk {s : State} (f : State → State)
    (h : ∀ k : State, (f k).chunkLimit = k.chunkLimit ∧ (f k).position = k.position ∧ (f k).th.chunk.isOpen = k.th.chunk.isOpen ∧
      (f k).th.chunk.icount = k.th.chunk.icount ∧ (f k).th.chunks = k.th.chunks ∧ (f k).th.trapcause = k.th.trapcause ∧
      (f k).th.trappc = k.th.trappc ∧ (f k).th.st = k.th.st)
    (hr : s.roomy) : s.inChunk (s.plain f) := by
  obtain ⟨h1, h2, h3, h4, h5, h6, h7, h8⟩ := h s.openChunk
  have o := openChunk_plain s
  refine retireTo_inChunk (k := f s.openChunk) _ hr (h3.trans (openChunk_open s)) h4 (h1.trans (openChunk_limit s)) ?_
  exact ⟨h2.trans o.1, h5.trans o.2.1, h6.trans o.2.2.1, h7.trans o.2.2.2.1, h8.trans o.2.2.2.2⟩

theorem setResult_inChunk {s : State} (d : Reg) (v : W64) (hr : s.roomy) : s.inChunk (s.setResult d v) := by
  refine plain_inChunk _ (fun k => ?_) hr
  refine ⟨rfl, rfl, ?_, ?_, rfl, rfl, rfl, rfl⟩ <;> (unfold State.setX; simp only []; split <;> rfl)

theorem fpResult_inChunk {s : State} (d : Reg) (r : Nat × Nat) (hr : s.roomy) : s.inChunk (s.fpResult d r) := by
  refine plain_inChunk _ (fun k => ?_) hr
  refine ⟨rfl, rfl, ?_, ?_, rfl, rfl, rfl, rfl⟩ <;> (unfold State.setX State.updArch; simp only []; split <;> rfl)

end Sys2Proof.Machine
end

