-- ==== Sys2Proof/Tests/Slice0.lean ====
section
/-! SUPPORT. Tests: decoding of words written out from the spec's encodings, ill-formed words that are refused, single
steps on small states, and a witness for the hypotheses of every statement. -/
set_option Elab.async false
namespace Sys2Proof.Machine

/-- A running thread of a C-core at its boundary. -/
def base : State := State.reset.withFetchWord 32 0
/-- The thread inside a REPEAT body of two words, three iterations left. -/
def inRepeat : State := { base with th.arch.repcnt := BitVec.ofNat 64 (2 ^ 63 + 2 ^ 50 + 3) }
/-- The thread at depth 1, its caller's frame resident. -/
def deep : State := { base with th.arch.depth := 1, th.arch.frames := [0, 1, 2] }
/-- The thread at depth 1, its caller's frame spilled; the spill area is the ring area. -/
def shallow : State :=
  { base with th.arch.depth := 1, th.arch.frames := [1, 2], th.seg := Map.set 0 base.th.seg 7 (mkSeg 0 4096 6 ||| 2 ^ 57), cells := Map.upd Cell.reset base.cells 1 (fun c => { c with area := 4096 }) }
/-- The thread with 28 resident frames; the spill area is the ring area. -/
def crowded : State := { shallow with th.arch.depth := 26, th.arch.frames := List.range 28 }
/-- The thread with a ring area of 4 KiB behind segment g2. -/
def ring : State :=
  { base with th.seg := Map.set 0 base.th.seg 2 (mkSeg 0 4096 6 ||| 2 ^ 57), th.arch.x := [(10, 0x4000000000000000)], cells := Map.upd Cell.reset base.cells 1 (fun c => { c with area := 4096 }) }
/-- The thread with a 2 MiB data page behind segment g2, its first line in the data cache; x10 is its address. -/
def data : State :=
  { base with
    th.seg := Map.set 0 base.th.seg 2 (mkSeg 0x200000 0x10000 6)
    th.arch.x := [(10, 0x4000000000000000)]
    mem := Memory.write64 base.mem 0x401008 (if base.service.ibnd ≤ 0x600000 then 0x6000AF else 0x60002F)
    cores := Map.upd Core.reset base.cores 3 (fun c => { c with dcache := [{ line := 0x600000 / 64, tag := vtag 1 0x200000, read := true }], dirty := [0x600000 / 64] }) }
/-- The same thread when it has waited for the line. -/
def fetched : State := { data with th.got := [0x600000 / 64] }
/-- The access resolves to an inner place for which a condition holds. -/
def innerAt (s : State) (ea : W64) (n : Nat) (acc : Access) (p : State → Nat → Via → Bool) : Bool :=
  match s.resolve ea n n acc with | (s1, .ok (.inner key _ via _)) => p s1 key via | _ => false
/-- The segment stage answers a ring-area offset. -/
def ringAt (s : State) (ea : W64) (n : Nat) (acc : Access) (off : Nat) : Bool :=
  match segCheck s.th.seg ea n n acc with | .ok (.inl o) => o == off | _ => false
/-- The thread on its C-core with E4M3 formats, rings 0 and 1 of 32 KiB entries with one entry published in each. -/
def matrix : State :=
  { base with
    th.arch.fmtctx := [(0, 0xE7)]
    cells := Map.upd Cell.reset base.cells 1 (fun c => { c with
      area := 262144, rings := [(0, { Ring.reset with word := 0x0001008000000000, t := 1 }), (1, { Ring.reset with word := 0x0001008000010000, t := 1 })] }) }
/-- The thread with 8 KiB behind segment g2: x10 its address, x11 a page, x12 less. -/
def stashed : State :=
  { base with th.seg := Map.set 0 base.th.seg 2 (mkSeg 0x200000 0x2000 6), th.arch.x := [(10, 0x4000000000000000), (11, 4096), (12, 8)] }
/-- The first page of it mapped to the stash. -/
def mapped : State :=
  { stashed with cells := Map.upd Cell.reset stashed.cells 1 (fun c => { c with smap := [{ base := 0x200000, len := 4096, run := 0, asid := 1 }] }) }
/-- The thread with a released semaphore signal that has not been performed. -/
def waiting : State := { base with released := [base.releasedBy (.semSig 1 0 1) .waiting] }
/-- The thread after its first arrival at barrier 0. -/
def arrived : State := { base with th.arch.arrivals := [(0, 1)] }
/-- The same when the phase is complete. -/
def met : State := { arrived with gangs := [{ Gang.plain with barriers := [(0, { done := 1, arrivals := [(0, 0)], poison := [] })] }] }
/-- The thread's cell with five signals on semaphore 0. -/
def signalled : State := { base with cells := Map.upd Cell.reset base.cells 1 (fun c => { c with sems := [(0, 5)] }) }
/-- The thread whose data page is another module's. -/
def farData : State := { data with mem := Memory.write64 data.mem 0x401008 0x003000000060032F }
/-- The thread with an open caravan, record 0, and a data page. -/
def opened : State :=
  { data with caravans := [(0, { Caravan.reset with st := .opened, gen := 1, owner := 1, budget := 1048576, d := 2 ^ 40 })], th.cvh := 2 ^ 63 + 2 ^ 32 + data.moduleId.toNat * 2 ^ 16 }
/-- One store of it has been staged in this module. -/
def staged : State :=
  { opened with
    caravans := [(0, { opened.caravan 0 with seq := 1, dests := [(opened.moduleId, 1)] })]
    cvDests := [{ cid := opened.cidOf 0, gen := some 1, gone := false, parts := [], expect := none, staged := 1, refused := false, bad := false, d := 2 ^ 40, confirmed := false, commit := none, locked := false, old := false, inn := [(0x600000, (0, 7))], asked := false, askedAt := 0, replies := [] }] }
/-- One store of it has been staged in another module. -/
def stagedFar : State := { opened with caravans := [(0, { opened.caravan 0 with seq := 1, dests := [(opened.moduleId + 1, 1)] })] }
/-- The thread in a guarded item of tolerance 1.0. -/
def guarded : State :=
  { base with th.item := { inItem := true, checked := false, staged := [] }, gangs := [{ Gang.plain with launch.guarded := true, launch.gtol := 0x3F800000 }] }
/-- The thread on a core whose segment table has four entries. -/
def table : State := { base with cores := Map.upd Core.reset base.cores 3 (fun c => { c with segtab := 0x0004000000600000 }) }
/-- The thread's chunk, with a store to the data page, requests its commit. -/
def asks : State :=
  { data with
    th.st := .requesting
    th.chunk := { Chunk.reset with isOpen := true, icount := 1, lines := [0x600000 / 64], wsig := Sig.enter 0 0x600000, wbuf := [(0x600000, 255, 7)], start := data.th.arch } }
/-- The same, granted. -/
def granted : State := { asks with th.st := .committing, locks := [(0x600000 / 64, 1)] }
/-- The same with a full dirty log, the chunk having dirtied another leaf. -/
def logged : State :=
  { granted with th.chunk.leaves := [leafKey 0 0x401008], cores := Map.upd Core.reset granted.cores 3 (fun c => { c with dlog := List.replicate 512 0x401010 }) }
/-- The thread waits for a line of the data page. -/
def misses : State := { data with th.st := .dataWait, th.pend := .lines [0x600000 / 64] [vtag 1 0x200000] false }
/-- A second thread waits in the core's run queue. -/
def queued : State := { base with threads := [{ base.th with tid := 2, slot := none, qpos := 1 }] }
/-- The same while the first thread is parked. -/
def parkedOne : State := { shallow with threads := queued.threads, th.st := .parked, th.wait := .time 5 }
/-- No core that has registers of its own traces; every other core stands at reset. -/
def State.untraced0 (s : State) : Bool := s.cores.all (fun p => !bit p.2.dbg.trctl 63)
/-- A copy between two records that follow one another at x10. -/
def State.aCopy (s : State) : CopyCmd :=
  { gather := false, src := s.x 10, dst := s.x 10 + 96, list := 0, target := .none, rw := 0, who := s.issuer, faulted := none, recs := [], ended := none }
/-- The data page, whose records are all zero. -/
def copying : State := data
/-- The data page with two records of one FP32 element each. -/
def copies : State :=
  let m1 := Memory.write64 (Memory.write64 (Memory.write64 data.mem 0x600000 0x4000000000001000) 0x600010 1) 0x600038 0x2B00010000000001
  { data with mem := Memory.write64 (Memory.write64 (Memory.write64 m1 0x600060 0x4000000000002000) 0x600070 1) 0x600098 0x2B00010000000001 }
/-- The thread waits for a word of module 4, one hop along W. -/
def farWaits : State :=
  { data with th.st := .dataWait, th.pend := .outer { home := some 4, pa := 64 } 8 .a, fabric.partition := 2 ^ 15, fabric.links := [(18, 1)], service.zlen := 1, service.wlen := 2 }
/-- The rings of `matrix` with two commands accepted. -/
def computing : State :=
  { matrix with cells := Map.upd Cell.reset matrix.cells 1 (fun c => { c with matq := [{ op := .mzero 0, who := matrix.issuer, faulted := none, ended := none }, { op := .mzero 1, who := matrix.issuer, faulted := some 5, ended := none }] }) }
/-- A range of one page. -/
def aRange : AddrRange := { asid := 1, base := 0x30000, len := 65536, rights := 3, backing := .demandZero, frames := 0x700000, fwmin := 0, fwmax := 4 }
/-- A module whose firewall lets hosts at its memory. -/
def hosted : State := { base with service.firewall := [(0, { lo := 0, hi := 0xFFFFFFFFFFFFFFFF })], service.cxl := [(0, 0, 2 ^ 43)] }
/-- A command ring that has been enabled. -/
def enabled : State := base.updCmd 0 0 CmdRing.enable
/-- The data page's module with its service column running and its firewall open. -/
def serves : State :=
  { data with service := { data.service with boot := 5, firewall := [(0, { lo := 0, hi := 0xFFFFFFFFFFFFFFFF })], roots := [(1, 0x0001000000200000)] } }
/-- The same with a packet at the head of command ring 0 of port 0. -/
def State.posed (s : State) (p : List W64) : State := s.updCmd 0 0 (fun c => { c with snap := [(7, p)] })
/-- A kernel header at the code page. -/
def kerneled : State :=
  { serves with mem := Memory.writeBytes serves.mem 0x500000 (wordBytes [0x00014E52454B, 0x0000018000000140, 0x140, 0, 0, 0, 65536]) }
/-- LAUNCH 2 of one C-core thread at cell (2, 0). -/
def launchPacket : List W64 := [0x401, 2, 0x10000, 0x0001000000010100, 0x40802]
/-- The same guarded, its exact gang at cell (3, 0). -/
def guardedPacket : List W64 := [0x602, 2, 0x10000, 0x0001000000010100, 0x40802] ++ List.replicate 27 0 ++ [0x10000, 0x0C040803]
/-- A launch that waits for placement. -/
def awaited (l : Launch) : Waiting := { launch := l, kernel := Kernel.plain, xkernel := none, aged := 0, since := 0, order := 0 }
/-- Launch 2 waits for cell (2, 0). -/
def awaits : State := { serves with waiting := [awaited { Launch.plain with lid := 2, ox := 2 }] }
/-- The gang of the thread's launch, placed and not released. -/
def placed : Gang := { Gang.plain with released := false }
/-- The gang with one safe point. -/
def safe : Gang := { Gang.plain with kernel := { Kernel.plain with safepts := [{ ident := 0, save := 16, restore := 32, size := 64 }] } }
/-- Cell 1 is the gang's, and its one thread is parked at its safe point; `q` is what the gang was asked. -/
def parkedAt (q : SafeReq) : State :=
  { serves with th.st := .parked, th.wait := .safept 0, gangs := [{ safe with req := q }], cells := Map.upd Cell.reset serves.cells 1 (fun c => { c with owner := some 1 }) }
/-- The gang is swapped out. -/
def swappedOut : State := { serves with gangs := [{ safe with swapped := true, placed := false }], th := Thread.reset }
/-- A request for one checkpoint of address space 1. -/
def aCkpt (running : Bool) : Ckpt :=
  { asid := 1, mode := 0, period := 0, pool := 0, rtab := 0, count := 0, slotsz := 0, port := 0, tag := 0, target := 0, running := running, nextAt := 0, startAt := 0, carav := none, areas := [], shards := [], slot := 0, crcs := [], entered := 0, stored := false }
/-- The gang of `parkedAt` is saved for a running checkpoint whose pool is the data page. -/
def gathers (c : Ckpt) : State :=
  { parkedAt (.checkpoint 1) with gangs := [{ Gang.plain with req := .checkpoint 1, savedCells := [0] }], ckpts := [{ c with running := true, pool := 0x200000, slotsz := 4096 }] }
/-- A shard of the data page. -/
def aShard (len : Nat) : Shard := { kind := 1, source := 0, va := 0x200000, len := len, ea := 0 }
/-- Caravan 1 of module 4, one store of it staged here. -/
def remote : CvDest := { CvDest.fresh 0x00040001 (some 1) 5 with parts := [4, 8], staged := 1, inn := [(0x600000, (1, 7))] }
/-- This module holds entries of a caravan. -/
def holds (e : CvDest) : State := { serves with cvDests := [e] }
/-- Caravan 0 of this module prepares, with module 4 as its destination. -/
def prepares (c : Caravan) : State := { serves with caravans := [(0, { c with st := .preparing, gen := 1, owner := 1, dests := [(4, 1)], lead := 20 })] }
/-- The far access of `farWaits` when its only port has failed and routing reconverges, for `up` units. -/
def State.cutOff (s : State) (up : Nat) : State := { s with fabric.reconverging := true, fabric.links := [], fabric.falling := [(6, 0)], time.up := up }
/-- The window's frames lie on a page of module 4, and the route to it reconverges. -/
def farFrames : State :=
  State.cutOff { farWaits with mem := Memory.write64 data.mem 0x401008 0x000040000060032F, th.seg := Map.set 0 data.th.seg 7 (mkSeg 0x200000 0x10000 6) } 0
/-- A slot to module 4, open, and a write of it that waits. -/
def slotted (len : Nat) : State :=
  { farWaits with fabric.slots := [(0, { dest := 4, valid := true, start := 0, len := BitVec.ofNat 64 len, period := 0 })], fabric.slotWrites := [(0, Slot.reset, 0)] }
/-- A released store to module 4 in a class. -/
def toFour (cls : FabClass) : Released := base.releasedBy (.farStore 4 [(64, 255, 1)] cls 0) .handed
/-- A boot image. -/
def image (ok table : Bool) : BootImage :=
  { imageValid := ok, tableValid := table, moduleId := 8, columnWidth := 1, ibndGiB := 1, cthr := 8, degMin := 0, degMax := 4, pinTimeMs := 64, indoubtS := 1, zlen := 1, wlen := 1, pps := false, gatherMs := 100,
    roles := [.front, .sched, .fault, .mgmt, .ckpt, .front, .front, .front], tbepoch := 0, ptpDomain := 0, ptpRank := 1, cxl := [], firewall := [] }
/-- The thread's core is halted, its thread stopped; `w` is DACC. -/
def stopped (w : W64) : State :=
  { base with th.st := .stopped, cores := Map.upd Core.reset base.cores 3 (fun c => { c with dbg := { c.dbg with halt := true, dacc := w } }) }

/-- The word decodes to the instruction. -/
def dec (w : W32) (i : Instr) : Bool := match decode w with | .ok j => decide (j = i) | .error _ => false
/-- A format R word (R262). -/
def wordR (op : BitVec 7) (d a b : BitVec 5) (fn : BitVec 10) : W32 := op ++ d ++ a ++ b ++ fn
/-- Format R words whose function values rise with the place in the list (R264). -/
def decR (op : BitVec 7) (f : List (BitVec 5 → BitVec 5 → BitVec 5 → Instr)) : Bool :=
  f.zipIdx.all (fun p => dec (wordR op 21 13 6 (BitVec.ofNat 10 p.2)) (p.1 21 13 6))

/-! Decoding, by words written out from R262 to R269 and from the field diagrams of 04, 07, 08 and 10. -/

theorem test_decode_op : decR 0x01 [.add, .sub, .and, .or, .xor, .sll, .srl, .sra, .ror, .slt, .sltu, .min, .max, .minu, .maxu, .mul, .mulh, .mulhu, .div, .divu, .rem, .remu] &&
  [(22, Instr.clz), (23, .ctz), (24, .popc)].all (fun p => dec (wordR 0x01 21 13 0 p.1) (p.2 21 13)) = true := by decide +kernel
theorem test_decode_opw : [(0, Instr.addw), (1, .subw), (5, .sllw), (6, .srlw), (7, .sraw), (15, .mulw)].all (fun p => dec (wordR 0x02 21 13 6 p.1) (p.2 21 13 6)) = true := by decide +kernel
theorem test_decode_imm : [(0x03#7, Instr.addi), (0x04, .andi), (0x05, .ori), (0x06, .xori), (0x07, .slti), (0x08, .sltiu), (0x0A, .addiw), (0x0E, .jalr),
    (0x18, .lb), (0x19, .lbu), (0x1A, .lh), (0x1B, .lhu), (0x1C, .lw), (0x1D, .lwu), (0x1E, .ld), (0x20, .sb), (0x21, .sh), (0x22, .sw), (0x23, .sd),
    (0x10, .beq), (0x11, .bne), (0x12, .blt), (0x13, .bge), (0x14, .bltu), (0x15, .bgeu), (0x55, .cvst)].all
    (fun p => dec (p.1 ++ 21#5 ++ 13#5 ++ 0x4ABC#15) (p.2 21 13 0x4ABC)) = true := by decide +kernel
theorem test_decode_shifts : [(0#2, Instr.slli), (1, .srli), (2, .srai)].all (fun p => dec (0x09#7 ++ 21#5 ++ 13#5 ++ p.1 ++ 0#7 ++ 37#6) (p.2 21 13 37)) = true := by decide +kernel
theorem test_decode_upper : [(0x0B#7, Instr.lui), (0x0C, .auipc), (0x0D, .jal), (0x0F, .callw)].all (fun p => dec (p.1 ++ 21#5 ++ 0xA5C3F#20) (p.2 21 0xA5C3F)) = true := by decide +kernel
theorem test_decode_flow : dec (0x16#7 ++ 0#5 ++ 13#5 ++ 0#15) (.retw 13) && dec (0x17#7 ++ 0#5 ++ 13#5 ++ 0#9 ++ 37#6) (.repeatI 13 37) &&
  dec (0x1F#7 ++ 0#5 ++ 13#5 ++ 0x4ABC#15) (.pref 13 0x4ABC) = true := by decide +kernel
theorem test_decode_fpr : [(0#5, Instr.fadd), (1, .fsub), (2, .fmul), (3, .fdiv)].all (fun p => dec (0x24#7 ++ 21#5 ++ 13#5 ++ 6#5 ++ 1#2 ++ 3#3 ++ p.1) (p.2 21 13 6 1 3)) &&
  [(5#5, Instr.fmin), (6, .fmax), (7, .feq), (8, .flt), (9, .fle), (11, .fsgnj), (12, .fsgnjn), (13, .fsgnjx)].all (fun p => dec (0x24#7 ++ 21#5 ++ 13#5 ++ 6#5 ++ 1#2 ++ 0#3 ++ p.1) (p.2 21 13 6 1)) &&
  dec (0x24#7 ++ 21#5 ++ 13#5 ++ 0#5 ++ 1#2 ++ 3#3 ++ 4#5) (.fsqrt 21 13 1 3) && dec (0x24#7 ++ 21#5 ++ 13#5 ++ 0#5 ++ 1#2 ++ 0#3 ++ 10#5) (.fclass 21 13 1) &&
  dec (0x24#7 ++ 21#5 ++ 13#5 ++ 9#5 ++ 2#2 ++ 1#3 ++ 14#5) (.fcvt 21 13 9 2 1) = true := by decide +kernel
theorem test_decode_fused : [(0x25#7, Instr.fma), (0x26, .fms), (0x27, .fnma)].all (fun p => dec (p.1 ++ 21#5 ++ 13#5 ++ 6#5 ++ 9#5 ++ 1#2 ++ 4#3) (p.2 21 13 6 9 1 4)) = true := by decide +kernel
theorem test_decode_vmem : [(0x28#7, Instr.vld), (0x29, .vst), (0x56, .cvstv)].all (fun p => dec (p.1 ++ 21#5 ++ 13#5 ++ 5#3 ++ 0xABC#12) (p.2 21 13 5 0xABC)) &&
  [(0x2A#7, Instr.vlds), (0x2B, .vsts), (0x2C, .vldx), (0x2D, .vstx)].all (fun p => dec (p.1 ++ 21#5 ++ 13#5 ++ 6#5 ++ 5#3 ++ 2#2 ++ 0#5) (p.2 21 13 6 5 2)) &&
  [(0x2E#7, Instr.vldc), (0x2F, .vstc)].all (fun p => dec (p.1 ++ 21#5 ++ 13#5 ++ 6#5 ++ 5#3 ++ 0x0A#5 ++ 2#2) (p.2 21 13 6 5 0x0A 2)) = true := by decide +kernel
theorem test_decode_vint : ([.vadd, .vsub, .vmul, .vand, .vor, .vxor, .vsll, .vsrl, .vsra, .vmin, .vmax, .vminu, .vmaxu] : List (BitVec 5 → BitVec 5 → BitVec 5 → BitVec 3 → BitVec 2 → Instr)).zipIdx.all
    (fun p => dec (0x30#7 ++ 21#5 ++ 13#5 ++ 6#5 ++ 5#3 ++ 2#2 ++ BitVec.ofNat 5 p.2) (p.1 21 13 6 5 2)) = true := by decide +kernel
theorem test_decode_vfp : ([.vfadd, .vfsub, .vfmul, .vfdiv, .vfmin, .vfmax] : List (BitVec 5 → BitVec 5 → BitVec 5 → BitVec 3 → BitVec 2 → Instr)).zipIdx.all
    (fun p => dec (0x31#7 ++ 21#5 ++ 13#5 ++ 6#5 ++ 5#3 ++ 2#2 ++ BitVec.ofNat 5 p.2) (p.1 21 13 6 5 2)) &&
  [(6#5, Instr.vfexp2), (7, .vfrcp), (8, .vfrsq)].all (fun p => dec (0x31#7 ++ 21#5 ++ 13#5 ++ 0#5 ++ 5#3 ++ 2#2 ++ p.1) (p.2 21 13 5 2)) = true := by decide +kernel
theorem test_decode_vmisc : [(0#4, Instr.vsel), (4, .vperm), (5, .vslide)].all (fun p => dec (0x32#7 ++ 21#5 ++ 13#5 ++ 6#5 ++ 5#3 ++ 2#3 ++ p.1) (p.2 21 13 6 5 2)) &&
  [(1#4, Instr.vbcast), (3, .vmvv)].all (fun p => dec (0x32#7 ++ 21#5 ++ 13#5 ++ 0#5 ++ 5#3 ++ 2#3 ++ p.1) (p.2 21 13 5 2)) &&
  dec (0x32#7 ++ 21#5 ++ 13#5 ++ 6#5 ++ 0#3 ++ 2#3 ++ 2#4) (.vmvx 21 13 6 2) &&
  [(6#4, Instr.vredsum), (7, .vredmax), (8, .vredmin)].all (fun p => dec (0x32#7 ++ 21#5 ++ 13#5 ++ 0#5 ++ 5#3 ++ 6#3 ++ p.1) (p.2 21 13 5 6)) = true := by decide +kernel
theorem test_decode_vfused : [(0x33#7, Instr.vfma), (0x37, .vfms)].all (fun p => dec (p.1 ++ 21#5 ++ 13#5 ++ 6#5 ++ 9#5 ++ 5#3 ++ 2#2) (p.2 21 13 6 9 5 2)) = true := by decide +kernel
theorem test_decode_vcompare : dec (0x34#7 ++ 3#5 ++ 13#5 ++ 6#5 ++ 5#3 ++ 2#2 ++ 4#5) (.vcmp 3 13 6 5 2 4) && dec (0x38#7 ++ 3#5 ++ 13#5 ++ 6#5 ++ 5#3 ++ 2#2 ++ 3#5) (.vfcmp 3 13 6 5 2 3) &&
  dec (0x36#7 ++ 21#5 ++ 13#5 ++ 6#5 ++ 5#3 ++ 3#7) (.vdot 21 13 6 5 3) && dec (0x39#7 ++ 21#5 ++ 13#5 ++ 0x0B#5 ++ 0x0A#5 ++ 5#3 ++ 1#1 ++ 0#1) (.vcvt 21 13 0x0B 0x0A 5 1) = true := by decide +kernel
theorem test_decode_masks : [(0, Instr.mand), (1, .mor), (2, .mxor)].all (fun p => dec (wordR 0x35 3 5 6 p.1) (p.2 3 5 6)) && dec (wordR 0x35 3 5 0 3) (.mnot 3 5) &&
  dec (wordR 0x35 21 5 0 4) (.mpopc 21 5) && dec (wordR 0x35 3 13 0 5) (.mset 3 13) && dec (wordR 0x35 21 5 0 6) (.mget 21 5) = true := by decide +kernel
theorem test_decode_matrix : dec 0x8048C280 (.mma 1 2 3 0 0 1 0 1) && dec (0x41#7 ++ 5#3 ++ 2#4 ++ 9#4 ++ 3#2 ++ 2#2 ++ 0#1 ++ 1#1 ++ 0#1 ++ 0#7) (.mmas 5 2 9 3 2 0 1 0) &&
  dec (0x42#7 ++ 5#3 ++ 0#22) (.mzero 5) && dec (0x43#7 ++ 5#3 ++ 4#3 ++ 13#5 ++ 6#5 ++ 0x0B#5 ++ 3#3 ++ 1#1) (.mdrain 5 4 13 6 0x0B 3 1) && dec (wordR 0x44 2 13 0 0) (.mfmt 2 13) = true := by decide +kernel
theorem test_decode_rings : dec (wordR 0x45 21 13 9 0) (.rcfg 21 13 9) && dec (wordR 0x45 0 0 9 1) (.radv 9) && dec (wordR 0x45 0 0 9 2) (.rpop 9) && dec (wordR 0x45 21 0 9 3) (.rstat 21 9) &&
  decR 0x46 [.smap, .sunmap, .sflush] = true := by decide +kernel
theorem test_decode_copies : dec 0x90052D20 (.cpy 0 10 11 1 2 0) && dec (0x48#7 ++ 21#5 ++ 13#5 ++ 6#5 ++ 3#2 ++ 0#4 ++ 1#2 ++ 0#2) (.cpy 21 13 6 3 0 1) &&
  dec (0x49#7 ++ 21#5 ++ 13#5 ++ 6#5 ++ 2#2 ++ 7#4 ++ 0#4) (.cpyg 21 13 6 2 7) && dec (wordR 0x4A 21 13 0 0) (.cpyst 21 13) = true := by decide +kernel
theorem test_decode_sync : dec (wordR 0x50 0 0 0 0) .cut && dec (wordR 0x50 0 0 2 1) (.fence 2) && dec (0x50#7 ++ 21#5 ++ 13#5 ++ 6#5 ++ 0#3 ++ 3#2 ++ 2#5) (.waitw 21 13 6 3) &&
  dec (wordR 0x50 0 13 0 3) (.waitt 13) && dec (wordR 0x50 21 0 5 4) (.barrive 21 5) && dec (wordR 0x50 21 13 5 5) (.barwait 21 13 5) && dec (wordR 0x50 0 13 9 6) (.semsig 13 9) &&
  dec (wordR 0x50 0 13 9 7) (.semwait 13 9) && dec (wordR 0x50 0 13 6 8) (.tsemsig 13 6) && dec (wordR 0x50 0 13 6 9) (.tsemwait 13 6) && dec (wordR 0x50 0 0 0 10) .trigger &&
  dec (wordR 0x50 21 0 0 11) (.waitdep 21) && dec (wordR 0x50 0 0 0 12) .taskget && dec (wordR 0x50 0 0 0 13) .taskend && dec (0x50#7 ++ 21#5 ++ 0#2 ++ 0xA5#8 ++ 14#10) (.safept 21 0xA5) &&
  dec (wordR 0x50 0 13 0 15) (.ckptstep 13) && dec (wordR 0x50 0 0 0 16) .yieldI = true := by decide +kernel
theorem test_decode_atomics : ([.amoadd, .amoand, .amoor, .amoxor, .amomin, .amomax, .amominu, .amomaxu, .amoswap, .amofaddO, .amofaddU] : List (BitVec 5 → BitVec 5 → BitVec 5 → BitVec 1 → Instr)).zipIdx.all
    (fun p => dec (0x51#7 ++ 21#5 ++ 13#5 ++ 6#5 ++ 0#4 ++ 1#1 ++ BitVec.ofNat 5 p.2) (p.1 21 13 6 1)) && dec (wordR 0x51 21 13 6 11) (.amokey 21 13 6) &&
  dec (0x52#7 ++ 21#5 ++ 13#5 ++ 6#5 ++ 9#5 ++ 1#5) (.amocas 21 13 6 9 1) &&
  ([.cmadd, .cmfaddO, .cmfaddU, .cmmin, .cmmax, .cmor] : List (BitVec 5 → BitVec 5 → BitVec 1 → Instr)).zipIdx.all
    (fun p => dec (0x53#7 ++ 0#5 ++ 13#5 ++ 6#5 ++ 0#4 ++ 1#1 ++ BitVec.ofNat 5 p.2) (p.1 13 6 1)) = true := by decide +kernel
theorem test_decode_caravans : dec (wordR 0x54 21 13 6 0) (.cvopen 21 13 6) && dec 0xA8700001 (.cvcommit 7) && dec (wordR 0x54 0 0 0 2) .cvabort && dec (wordR 0x54 21 13 6 3) (.cvstat 21 13 6) &&
  dec (wordR 0x54 21 13 0 4) (.gchk 21 13) && decR 0x57 [.moonhint, .moonqry] = true := by decide +kernel
theorem test_decode_system : dec (wordR 0x58 21 0 0 0) (.rdtime 21) && dec (wordR 0x58 21 0 0 1) (.rdcycle 21) && dec (wordR 0x58 21 0 7 2) (.rdid 21 7) && dec (wordR 0x60 0 0 0 0) .ecall &&
  dec (wordR 0x60 0 0 0 1) .ebreak && dec (wordR 0x60 0 0 0 2) .trapret && dec (wordR 0x60 5 13 0 3) (.segld 5 13) && dec (wordR 0x60 0 0 0 4) .halt = true := by decide +kernel
theorem test_decode_csr : [(0x61#7, Instr.csrrw), (0x63, .csrrc), (0x64, .csrrwi), (0x65, .csrrsi), (0x66, .csrrci)].all (fun p => dec (p.1 ++ 0#5 ++ 13#5 ++ 0b010#3 ++ 0x072#12) (p.2 0 13 1 0x072)) &&
  dec (0x62#7 ++ 21#5 ++ 0#5 ++ 0b001#3 ++ 0x031#12) (.csrrs 21 0 0 1 0x031) = true := by decide +kernel

/-- The words that are refused, by name: all zeros, all ones, unassigned opcodes, function values and sub-fields, and fields that must be zero (R270). -/
theorem test_decode_refused : [0x00000000#32, 0xFFFFFFFF, 0x3A#7 ++ 0#25, 0x47#7 ++ 0#25, 0x59#7 ++ 0#25, 0x67#7 ++ 0#25, wordR 0x01 1 2 3 25, wordR 0x01 1 2 3 22, wordR 0x02 1 2 3 2,
    0x09#7 ++ 1#5 ++ 2#5 ++ 3#2 ++ 0#13, 0x09#7 ++ 1#5 ++ 2#5 ++ 0#2 ++ 1#7 ++ 0#6, wordR 0x16 1 2 0 0, 0x1F#7 ++ 1#5 ++ 0#20, wordR 0x24 1 2 3 15, wordR 0x32 1 2 3 9, wordR 0x36 1 2 3 4,
    wordR 0x45 0 0 16 1, wordR 0x45 1 0 2 1, wordR 0x50 0 0 8 4, wordR 0x50 0 0 0 17, wordR 0x51 1 2 3 12, wordR 0x53 1 2 3 0, wordR 0x54 0 0 0 5, wordR 0x57 1 2 3 2, wordR 0x60 0 0 0 5, wordR 0x60 8 1 0 3].all
    (fun w => match decode w with | .ok _ => false | .error _ => true) = true := by decide +kernel

/-! One ill-formed instruction for each check of WellFormed, and a well-formed one beside it. -/

theorem test_wf_rounding : !(Instr.fadd 1 2 3 0 5).wf && !(Instr.fsqrt 1 2 0 6).wf && !(Instr.fma 1 2 3 4 0 5).wf && !(Instr.vcvt 1 2 0 1 6 0).wf && (Instr.vcvt 1 2 0 1 5 0).wf && (Instr.fadd 1 2 3 0 7).wf = true := by decide +kernel
theorem test_wf_formats : !(Instr.vldc 1 2 3 0 0x1C 0).wf && !(Instr.vstc 1 2 3 0 0x1F 0).wf && !(Instr.vcvt 1 2 0x1C 1 0 0).wf && !(Instr.vcvt 1 2 1 0x1C 0 0).wf && (Instr.vldc 1 2 3 0 0x1B 0).wf = true := by decide +kernel
theorem test_wf_conversions : !(Instr.fcvt 1 2 6 0 0).wf && !(Instr.fcvt 1 2 0 0 0).wf && !(Instr.fcvt 1 2 1 1 0).wf && !(Instr.fcvt 1 2 2 2 0).wf && !(Instr.fcvt 1 2 16 3 0).wf && (Instr.fcvt 1 2 9 2 1).wf = true := by decide +kernel
theorem test_wf_compare : !(Instr.vcmp 1 2 3 0 0 6).wf && (Instr.vcmp 1 2 3 0 0 5).wf = true := by decide +kernel
theorem test_wf_matrix : !(Instr.mma 0 1 2 0 3 1 1 0).wf && !(Instr.mmas 0 2 2 0 0 1 1 0).wf && (Instr.mma 0 1 2 0 2 1 1 0).wf = true := by decide +kernel
theorem test_wf_mdrain : !(Instr.mdrain 0 7 1 2 0x0B 0 0).wf && !(Instr.mdrain 0 1 16 2 0x0B 0 0).wf && !(Instr.mdrain 0 0 1 2 0x0B 6 0).wf && !(Instr.mdrain 0 1 1 2 0x19 0 0).wf && !(Instr.mdrain 0 0 1 2 0x0C 0 0).wf &&
  !(Instr.mdrain 0 3 1 2 0x04 0 0).wf && !(Instr.mdrain 0 0 1 2 0x1E 0 0).wf && (Instr.mdrain 0 3 1 2 0x0B 0 0).wf = true := by decide +kernel
theorem test_wf_copies : !(Instr.cpy 0 1 2 0 0 3).wf && !(Instr.cpy 0 1 2 2 8 0).wf && !(Instr.cpy 0 1 2 0 1 0).wf && !(Instr.cpy 3 1 2 1 0 0).wf && !(Instr.cpy 3 1 2 3 1 0).wf && !(Instr.cpyg 0 1 2 3 0).wf &&
  !(Instr.cpyg 0 1 2 2 8).wf && !(Instr.cpyg 0 1 2 0 1).wf && (Instr.cpy 0 10 11 1 2 0).wf && (Instr.cpyg 5 1 2 2 7).wf = true := by decide +kernel
theorem test_wf_selectors : !(Instr.fence 3).wf && !(Instr.rdid 1 8).wf && (Instr.fence 2).wf && (Instr.rdid 1 7).wf = true := by decide +kernel
theorem test_wf_csr : !(Instr.csrrw 1 2 1 0x070).wf && !(Instr.csrrc 0 2 0 0x003).wf && !(Instr.csrrs 1 2 0 1 0x031).wf && !(Instr.csrrs 0 0 1 1 0x031).wf && !(Instr.csrrwi 0 2 0 0x802).wf &&
  (Instr.csrrs 1 0 0 1 0x031).wf && (Instr.csrrw 0 2 1 0x801).wf = true := by decide +kernel

/-! The data cache and the MSI-X table. -/

/-- A set keeps the lines used last (R66). -/
theorem test_cache_replacement : (fitSet 0 2 ([0, 128, 1, 256].map (fun l => { line := l, tag := 0, read := true }))).map (·.line) = [128, 1, 256] := by decide +kernel
/-- A vector that is raised while it is masked is pending (R219). -/
theorem test_masked_vector : (HostPort.reset.raise 5).msix = [] ∧ (HostPort.reset.raise 5).mpend = [5] ∧
    (((HostPort.reset.raise 5).writeTable 11 0).msix = [5]) := by decide +kernel

/-! Values: one step each, the expected results from the tables and examples of the spec. -/

/-- The thread with x6, x7. -/
def given (a b : W64) : State := { base with th.arch.x := [(6, a), (7, b)] }
/-- What an instruction leaves in x5, and in FCSR. -/
def x5 (s : State) (i : Instr) : W64 × W64 := match exec i s with | .next t => (t.x 5, t.th.arch.fcsr) | _ => (0, 0xFFFF)
/-- The thread with v2, v3 and an old v1. -/
def vecs (a b o : V512) : State := { base with th.arch.v := [(1, o), (2, a), (3, b)] }
/-- What an instruction leaves in v1, and in FCSR. -/
def v1 (s : State) (i : Instr) : V512 × W64 := match exec i s with | .next t => (t.v 1, t.th.arch.fcsr) | _ => (0, 0xFFFF)

/-- 16: R283, wrapping and the sign extension of the W forms. -/
theorem test_add : (x5 (given 0xFFFFFFFFFFFFFFFF 2) (.add 5 6 7)).1 = 1 ∧ (x5 (given 0x7FFFFFFF 1) (.addw 5 6 7)).1 = 0xFFFFFFFF80000000 ∧ (x5 (given 5 0) (.addi 5 6 0x7FFF)).1 = 4 ∧
    (x5 (given 0x80000000 0) (.addiw 5 6 0x7FFF)).1 = 0x7FFFFFFF := by decide +kernel
/-- 17: the table of R310, and 06: R119 for the remainder. -/
theorem test_div : (x5 (given 7 (-2)) (.div 5 6 7)).1 = -3 ∧ (x5 (given (-7) 2) (.div 5 6 7)).1 = -3 ∧ (x5 (given (-7) 2) (.divu 5 6 7)).1 = 0x7FFFFFFFFFFFFFFC ∧
    (x5 (given 5 0) (.div 5 6 7)).1 = -1 ∧ (x5 (given (2 ^ 63) (-1)) (.div 5 6 7)).1 = 2 ^ 63 ∧ (x5 (given (2 ^ 63) (-1)) (.divu 5 6 7)).1 = 0 := by decide +kernel
theorem test_rem : (x5 (given (-7) 2) (.rem 5 6 7)).1 = -1 ∧ (x5 (given 5 0) (.rem 5 6 7)).1 = 5 ∧ (x5 (given (2 ^ 63) (-1)) (.rem 5 6 7)).1 = 0 ∧ (x5 (given 5 0) (.remu 5 6 7)).1 = 5 := by decide +kernel
/-- 17: R337. -/
theorem test_mul : (x5 (given (-1) (-1)) (.mulh 5 6 7)).1 = 0 ∧ (x5 (given (-1) (-1)) (.mulhu 5 6 7)).1 = 0xFFFFFFFFFFFFFFFE ∧ (x5 (given (-1) (-1)) (.mul 5 6 7)).1 = 1 := by decide +kernel
/-- 18: the table of R362, and R352. -/
theorem test_shifts : (x5 (given 0xFFFFFFFF80000000 4) (.srl 5 6 7)).1 = 0x0FFFFFFFF8000000 ∧ (x5 (given 0xFFFFFFFF80000000 4) (.sra 5 6 7)).1 = 0xFFFFFFFFF8000000 ∧
    (x5 (given 0xFFFFFFFF80000000 4) (.srlw 5 6 7)).1 = 0x08000000 ∧ (x5 (given 0xFFFFFFFF80000000 4) (.sraw 5 6 7)).1 = 0xFFFFFFFFF8000000 ∧
    (x5 (given 0x80000001 1) (.sllw 5 6 7)).1 = 2 ∧ (x5 (given 3 65) (.sll 5 6 7)).1 = 6 ∧ (x5 (given 1 1) (.ror 5 6 7)).1 = 2 ^ 63 := by decide +kernel
/-- 17: the table of FCLASS. -/
theorem test_fclass : (x5 (given 0x3F800000 0) (.fclass 5 6 0)).1 = 2 ∧ (x5 (given 0xBF400000 0) (.fclass 5 6 0)).1 = 0xFFFFFFFFFFFF000A ∧ (x5 (given 1 0) (.fclass 5 6 0)).1 = 0xFFFFFFFFFF6B0001 ∧
    (x5 (given 0x4018000000000000 0) (.fclass 5 6 1)).1 = 0x20002 ∧ (x5 (given 0x80000000 0) (.fclass 5 6 0)).1 = 8 ∧ (x5 (given 0xFFF0000000000000 0) (.fclass 5 6 1)).1 = 0xB ∧
    (x5 (given 0x7FC00000 0) (.fclass 5 6 0)).1 = 4 ∧ (x5 (given 0x7FF0000000000001 0) (.fclass 5 6 1)).1 = 5 := by decide +kernel
/-- 17: the table of FCVT (R316); NX is bit 4 of FCSR, OF bit 2, NV bit 0 (R114). -/
theorem test_fcvt : x5 (given 0x40200000 0) (.fcvt 5 6 0 2 0) = (2, 16) ∧ x5 (given 0xC0200000 0) (.fcvt 5 6 0 2 4) = (-3, 16) ∧ x5 (given 0x4F32D05E 0) (.fcvt 5 6 0 2 0) = (0x7FFFFFFF, 1) ∧
    x5 (given 0x4F32D05E 0) (.fcvt 5 6 0 3 0) = (0xB2D05E00, 0) ∧ x5 (given 0xFF800000 0) (.fcvt 5 6 0 2 0) = (0xFFFFFFFF80000000, 1) ∧ x5 (given 0x7FF8000000000000 0) (.fcvt 5 6 9 2 0) = (0, 1) := by decide +kernel
theorem test_fcvt_ranges : x5 (given 0xBF333333 0) (.fcvt 5 6 0 3 1) = (0, 16) ∧ x5 (given 0xBF333333 0) (.fcvt 5 6 0 3 0) = (0, 1) ∧ x5 (given (2 ^ 53 + 1) 0) (.fcvt 5 6 4 0 0) = (0x5A000000, 16) ∧
    x5 (given 0x48078287F49C4A1D 0) (.fcvt 5 6 1 0 0) = (0x7F800000, 20) ∧ x5 (given 0x48078287F49C4A1D 0) (.fcvt 5 6 1 0 1) = (0x7F7FFFFF, 20) := by decide +kernel
/-- 19: the example of VCVT, f32 7.0, 2.5, -0 and a quiet NaN to E2M1; the word of the example decodes to it. -/
theorem test_vcvt : dec 0x72112C80 (.vcvt 1 2 0x0B 4 0 0) ∧ v1 (vecs 0x7FC00000_80000000_40200000_40E00000 0 (-1)) (.vcvt 1 2 0x0B 4 0 0) = (0x0847, 21) := by decide +kernel
/-- 06: the conversions to E4M3 of R113, by VCVT from f32: 0.3, 1.0625, 464, 500, -inf and 2^-10 under RNE; 0.3 under RTZ, 2^-10 under RUP. -/
theorem test_e4m3 : (v1 (vecs 0x3A800000_FF800000_43FA0000_43E80000_3F880000_3E99999A 0 0) (.vcvt 1 2 0x0B 7 0 0)) = (0x00FE7E7E382A, 28) ∧
    (v1 (vecs 0x3E99999A 0 0) (.vcvt 1 2 0x0B 7 1 0)) = (0x29, 16) ∧ (v1 (vecs 0x3A800000 0 0) (.vcvt 1 2 0x0B 7 3 0)) = (0x01, 24) := by decide +kernel
/-- 19: the example of VDOT: the exact sum is rounded once. -/
theorem test_vdot : (v1 (vecs 0x00003838 0x00003838 0x4B800000) (.vdot 1 2 3 0 1)) = (0x4B800001, 0) := by decide +kernel
/-- 18: the status word after step 6 of the example of RSTAT, and the word of that RSTAT. -/
theorem test_rstat : (x5 { base with cells := Map.upd Cell.reset base.cells 1 (fun c => { c with rings := [(5, { Ring.reset with word := 0x0003000100004000, t := 5, c := 2, h := 2 })] }) } (.rstat 5 5)).1 = 0x8302000840004100 := by decide +kernel
/-- 16: R299, CPYST with a selector above 3 (08: R154), and 0 for selector 0 where nothing was recorded. -/
theorem test_cpyst : (x5 (given 4 0) (.cpyst 5 6)).1 = 0xFFFFFFFFFFFFFFFF ∧ (x5 (given 0 0) (.cpyst 5 6)).1 = 0 := by decide +kernel
/-- Extremes of the signed and unsigned comparisons (17: R331, 18: SLT). -/
theorem test_compare : (x5 (given (-1) 1) (.min 5 6 7)).1 = -1 ∧ (x5 (given (-1) 1) (.minu 5 6 7)).1 = 1 ∧ (x5 (given (-1) 1) (.max 5 6 7)).1 = 1 ∧ (x5 (given (-1) 1) (.maxu 5 6 7)).1 = -1 ∧
    (x5 (given (-1) 1) (.slt 5 6 7)).1 = 1 ∧ (x5 (given (-1) 1) (.sltu 5 6 7)).1 = 0 ∧ (x5 (given 5 0) (.sltiu 5 6 0x7FFF)).1 = 1 := by decide +kernel
/-- Scalar arithmetic: 1 + 2^-24 is a tie that RNE takes down and RUP up; 1/0; sqrt(-1); infinity - infinity (06: R116; 17: R313). -/
theorem test_fpr : x5 (given 0x3F800000 0x33800000) (.fadd 5 6 7 0 0) = (0x3F800000, 16) ∧ x5 (given 0x3F800000 0x33800000) (.fadd 5 6 7 0 3) = (0x3F800001, 16) ∧ x5 (given 0x3F800000 0) (.fdiv 5 6 7 0 0) = (0x7F800000, 2) ∧
    x5 (given 0xBFF0000000000000 0) (.fsqrt 5 6 1 0) = (0x7FF8000000000000, 1) ∧ x5 (given 0x7F800000 0x7F800000) (.fsub 5 6 7 0 0) = (0x7FC00000, 1) := by decide +kernel
/-- An aligned load of the data page and a store to it (05: the example of R87; 17: LD; 18: SD): the store is in the chunk's buffer. -/
theorem test_memory : (match exec (.sd 10 10 8) data with | .next t => (match exec (.ld 5 10 8) { t with th.arch.pc := 4 } with | .next u => u.x 5 == 0x4000000000000000 && u.byteAt 0x600008 == 0 | _ => false) | _ => false) = true := by decide +kernel
/-- 11: R208, and 15: R269: the time, and the core's number in its cell and slot number. -/
theorem test_reads : (x5 { base with time.now := 77 } (.rdtime 5)).1 = 77 ∧ (x5 base (.rdid 5 5)).1 = 0 := by decide +kernel
/-- 05: R96, R97: ECALL takes its trap: the pc goes to TRAPVEC, TRAPPC names the ECALL, TRAPCAUSE holds INH and the cause 8. -/
theorem test_ecall : (match exec .ecall { base with th.trapvec := 0x400, th.arch.pc := 64 } with | .next t => t.th.arch.pc == 0x400 && t.th.trappc == 64 && t.th.trapcause == 2 ^ 63 + 8 | _ => false) = true := by decide +kernel

theorem witness_MultiplyAndDivide : ∃ (s : State) (a b : Reg), (s.x a).toInt = -2 ^ 63 ∧ s.x b = -1 :=
  ⟨(base.setX 5 0x8000000000000000).setX 6 (-1), 5, 6, by decide +kernel, by decide +kernel⟩

theorem witness_RegisterFrame : ∃ (s t : State) (i : Instr), i.registerOnly = true ∧ i.isInteger = true ∧ s.roomy ∧ exec i s = .next t ∧
    t.th.chunk.isOpen = true ∧ t.th.chunk.icount = s.openChunk.th.chunk.icount + 1 ∧ s.th.inBody = false :=
  ⟨base, base.setResult 5 0, .add 5 6 7, by decide +kernel, by decide +kernel, by decide +kernel, rfl, by decide +kernel, by decide +kernel, by decide +kernel⟩

theorem witness_Branches_notTaken : base.th.inBody = false ∧ base.roomy ∧ decide (base.x 5 ≠ base.x 6) = false := by decide +kernel
theorem witness_Branches_taken : base.th.inBody = false ∧ decide (base.x 5 = base.x 6) = true ∧
    (base.th.arch.pc + (4#15).signExtend 64 * 4).toNat < 2 ^ 61 := by decide +kernel
theorem witness_Branches_seglimit : base.th.inBody = false ∧ decide (base.x 5 = base.x 6) = true ∧
    2 ^ 61 ≤ (base.th.arch.pc + (0x7000#15).signExtend 64 * 4).toNat := by decide +kernel
theorem witness_Branches_body : inRepeat.th.inBody = true := by decide +kernel

theorem witness_JumpsAndLinks_jal : base.th.inBody = false ∧ base.roomy ∧
    (base.th.arch.pc + (4#20).signExtend 64 * 4).toNat < 2 ^ 61 ∧ 2 ^ 61 ≤ (base.th.arch.pc + (0x80000#20).signExtend 64 * 4).toNat := by decide +kernel
theorem witness_JumpsAndLinks_jalr : (base.setX 5 64).th.inBody = false ∧ ((base.setX 5 64).x 5 + (0#15).signExtend 64).toNat % 4 = 0 ∧
    ((base.setX 5 64).x 5 + (0#15).signExtend 64).toNat < 2 ^ 61 ∧ ((base.setX 5 64).x 5 + (2#15).signExtend 64).toNat % 4 ≠ 0 ∧
    2 ^ 61 ≤ ((base.setX 5 64).x 5 + (0x7F80#15).signExtend 64).toNat := by decide +kernel

theorem witness_WindowCallAndReturn_call : base.th.inBody = false ∧ base.th.arch.frames.length < 28 ∧ base.roomy ∧
    (base.th.arch.pc + (16#20).signExtend 64 * 4).toNat < 2 ^ 61 ∧ base.th.arch.depth = 0 := by decide +kernel
theorem witness_WindowCallAndReturn_return : deep.th.inBody = false ∧ 0 < deep.th.arch.depth ∧ (deep.x 0).toNat % 4 = 0 ∧
    (deep.x 0).toNat < 2 ^ 61 ∧ deep.th.arch.depth - 1 ∈ deep.th.arch.frames := by decide +kernel
theorem witness_WindowCallAndReturn_traps : ((deep.setX 5 2).x 5).toNat % 4 ≠ 0 ∧ 2 ^ 61 ≤ ((deep.setX 5 0xC000000000000000).x 5).toNat ∧
    2 ^ 61 ≤ (deep.th.arch.pc + (0x80000#20).signExtend 64 * 4).toNat := by decide +kernel

theorem witness_WindowSpillAndFill_spill : crowded.th.inBody = false ∧ (crowded.th.arch.pc + (16#20).signExtend 64 * 4).toNat < 2 ^ 61 ∧
    28 ≤ crowded.th.arch.frames.length ∧ crowded.victim = some 0 ∧ (match (crowded.framePlace 0 .store).2 with | .ok _ => true | .error _ => false) = true := by decide +kernel
theorem witness_WindowSpillAndFill_noVictim : { crowded with th.chunk.isOpen := true, th.chunk.framesW := List.range 28 }.victim = none := by decide +kernel
theorem witness_WindowSpillAndFill_failed : (match (({ crowded with th.seg := [] } : State).framePlace 0 .store).2 with | .ok _ => true | .error _ => false) = false ∧
    ({ crowded with th.seg := [] } : State).victim = some 0 := by decide +kernel
theorem witness_WindowSpillAndFill_fill : 0 < shallow.th.arch.depth ∧ (shallow.x 0).toNat % 4 = 0 ∧ (shallow.x 0).toNat < 2 ^ 61 ∧
    shallow.th.arch.depth - 1 ∉ shallow.th.arch.frames ∧ (match (shallow.framePlace 0 .load).2 with | .ok _ => true | .error _ => false) = true := by decide +kernel

theorem witness_Repeat_start : (base.th.act || base.th.inh) = false ∧ (base.x 0).toNat = 0 ∧ 0 < ((base.setX 5 7).x 5).toNat ∧
    ((base.setX 5 7).x 5).toNat < 2 ^ 32 ∧ 2 ^ 32 ≤ ((base.setX 5 0x100000000).x 5).toNat ∧ (inRepeat.th.act || inRepeat.th.inh) = true := by decide +kernel
theorem witness_Repeat_body : ∃ t, exec (.add 5 6 7) inRepeat = .next t ∧ (Instr.add 5 6 7).isInteger = true ∧ inRepeat.roomy ∧
    inRepeat.th.act = true ∧ inRepeat.th.inh = false ∧ fld inRepeat.th.arch.repcnt 49 44 ≠ fld inRepeat.th.arch.repcnt 55 50 :=
  ⟨_, rfl, by decide +kernel, by decide +kernel, by decide +kernel, by decide +kernel, by decide +kernel⟩
theorem witness_Repeat_last : (∀ n ∈ [1, 2], let s := { inRepeat with th.arch.repcnt := BitVec.ofNat 64 (2 ^ 63 + n) }
    fld s.th.arch.repcnt 49 44 = fld s.th.arch.repcnt 55 50 ∧ fld s.th.arch.repcnt 31 0 = n ∧ s.th.act = true ∧ s.roomy) := by decide +kernel

theorem witness_ScalarFloatingResults : base.th.arch.modeOf false 0 = some .rne ∧ base.th.arch.modeOf false 5 = none ∧
    fcvtOk 0 1 = true ∧ fcvtOk 0 0 = false := by decide +kernel

theorem witness_FloatingSpecialCases : (fF32.read false 0x7F800001).isSig = true ∧ fF32.read false 0x7F800000 = .inf false ∧
    fF32.read false 0xFF800000 = .inf true ∧ (fF32.read false 0x80000000).isZero = true ∧ (fF32.read false 0x80000000).isNeg = true ∧
    (fF32.read false 0).isNeg = false ∧ (fF32.read false 0x3F800000).isFin = true ∧ (fF32.read false 0x3F800000).isZero = false ∧
    (fF32.read false 0xBF800000).isNeg = true ∧ fF32.read false 0x3F800000 = .fin false 0x800000 (-23) ∧
    fF32.read false 0xBF800000 = .fin true 0x800000 (-23) ∧ (fF32.read false 0x3F800000).isNan = false := by decide +kernel

theorem witness_ExactArithmetic_once : (fF32.read false 0x3F800000).isFin = true ∧ (fF32.read false 0x3F800000).isZero = false ∧
    (fF32.read false 0x3F800000).isNeg = false ∧ (fF64.read true 1).isFin = true ∧ 2 ≤ (3#2).toNat ∧ (2 : Nat) < 2 ^ 60 := by decide +kernel
theorem witness_ExactArithmetic : (1 : Nat) < 2 ^ fE2M1.eb ∧ (1 : Nat) < 2 ^ fE2M1.mb ∧ (fE2M1.unpack (fE2M1.pack false (1 * 2 ^ fE2M1.mb + 1))).isFin = true ∧
    (fE2M1.unpack (fE2M1.pack true 1)).isFin = true := by decide +kernel

theorem witness_RepresentableValuesConvertExactly : 0x3E < 2 ^ (1 + fE4M3.eb + fE4M3.mb) ∧ (fE4M3.unpack 0x3E).isFin = true ∧
    (fE4M3.unpack 0x7F).isNan = true ∧ fE5M2.unpack 0x7C = .inf false ∧ (0 : Nat) < 2 ^ 32 := by decide +kernel

theorem witness_RoundingModes : (5 : Nat) < 2 ^ 32 ∧ (0 : Int) ≤ 1 ∧ (-1 : Int) < 0 ∧ (3 : Nat) ≠ 0 := by decide

theorem witness_VectorFloatingArithmetic : base.th.arch.modeOf false 7 = some .rne ∧
    ({ base with th.arch.fcsr := 0x500 } : State).th.arch.modeOf false 7 = none := by decide +kernel

theorem witness_PowersReciprocalsAndRoots : (fF32.read false 0x7F800001).isNan = true ∧ fF32.read false 0x7F800000 = .inf false ∧
    fF32.read false 0xFF800000 = .inf true ∧ (fF32.read false 0).isFin = true ∧ (fF32.read false 0).isZero = true ∧
    (fF32.read false 0xBF800000).isFin = true ∧ (fF32.read false 0xBF800000).isZero = false ∧ (fF32.read false 0xBF800000).isNeg = true ∧
    (fF32.read false 0x40400000).isNeg = false := by decide +kernel
theorem witness_PowersReciprocalsAndRoots_integer : (fF32.read false 0xC0400000).isFin = true ∧ (fF32.read false 0xC0400000).rat = ((-3 : Int) : Rat) := by
  rw [show fF32.read false 0xC0400000 = .fin true 0xC00000 (-22) by decide +kernel]
  refine ⟨rfl, ?_⟩
  norm_num [FVal.rat]

theorem witness_MasksAndComparisons : 5 < (6#5).toNat ∧ (5#5).toNat ≤ 5 := by decide

theorem witness_Reductions : (3#3).toNat < 4 ∧ 4 ≤ (4#3).toNat ∧ base.th.arch.modeOf false 7 = some .rne ∧
    ({ base with th.arch.fcsr := 0x600 } : State).th.arch.modeOf false 7 = none := by decide +kernel

theorem witness_DotProductConversionAndEngineArithmetic : (1#2) ≠ 0 ∧ (0x1B#5).toNat < 0x1C ∧ 0x1C ≤ (0x1C#5).toNat ∧ base.th.arch.modeOf true 5 = some .sr ∧
    base.th.arch.modeOf true 0 = some .rne ∧ base.th.arch.modeOf true 6 = none ∧ (List.replicate 2 negZero).length = 2 ^ (0 + 1) ∧ (List.replicate 32 negZero).length = 32 ∧
    fmtScheme 0x11 = 1 ∧ fmtScheme 0x16 = 2 ∧ (FVal.fin false 3 0).isZero = false ∧ negZero.isZero = true ∧ (0x0B : Nat) ≠ 7 := by decide +kernel

theorem witness_Loads_ring : ringAt ring (ring.x 10 + (8#15).signExtend 64) 8 .load 8 = true ∧
    8 + 8 ≤ (ring.cell ring.myCell).area ∧ (match ring.load (ring.x 10) 8 8 with | .ok _ _ _ => true | .stop _ _ => false) = true := by decide +kernel
theorem witness_Loads_inner : innerAt data (data.x 10) 8 .load (fun s1 key via => !s1.locked (linesAt key 8) && !s1.locked [lineOf (mapLine s1.myCell)] && !data.th.replyBad &&
    (linesAt key 8).all (fun l => !s1.poisoned.contains l) && (s1.missing via.stash via.tag key 8).isEmpty && !data.th.chunk.isOpen) = true := by decide +kernel
theorem witness_Loads_miss : innerAt data (data.x 10 + (64#15).signExtend 64) 8 .load (fun s1 key via => !s1.locked (linesAt key 8) &&
    !s1.locked [lineOf (mapLine s1.myCell)] && !data.th.replyBad && (linesAt key 8).all (fun l => !s1.poisoned.contains l) &&
    !(s1.missing via.stash via.tag key 8).isEmpty) = true := by decide +kernel

theorem witness_LoadsAnswerTheirBytes : (match data.loadAs (data.x 10) 8 8 false with | .ok _ _ _ => true | .stop _ _ => false) = true ∧
    (match data.loadMany [(data.x 10, 8, 8), (data.x 10 + 8, 4, 4)] with | .ok _ bss _ => bss.length == 2 | .stop _ _ => false) = true := by decide +kernel

theorem witness_Stores_ring : ringAt ring (ring.x 10) 4 .store 0 = true ∧ 0 + 4 ≤ (ring.cell ring.myCell).area ∧
    ring.inItem = false ∧ ring.th.chunk.isOpen = false ∧
    (match ring.store 4 [Elt.ofBytes (ring.x 10) (leBytes 4 7)] with | .ok _ _ _ => true | .stop _ _ => false) = true := by decide +kernel
theorem witness_Stores_inner : innerAt data (data.x 10) 8 .store (fun s1 key _ => !data.inItem && !data.th.chunk.isOpen &&
    !s1.locked [lineOf (mapLine s1.myCell)] && !s1.setFull (linesAt key 8) && (linesAt key 8).all (!s1.hostHolds ·)) = true := by decide +kernel

theorem witness_SegmentChecks : (fld (1#64) 60 0 % 8 ≠ 0) ∧ (let g := Map.get 0 data.th.seg 2
      g.toNat / 2 ^ 64 % 2 ^ 61 < 0x1000000 ∧ g.getLsbD 63 = true ∧ g.getLsbD 62 = true ∧ g.getLsbD 57 = false) ∧
    (Map.get 0 base.th.seg 0).getLsbD 62 = false ∧ (Map.get 0 ring.th.seg 2).getLsbD 57 = true ∧ (ring.cell ring.myCell).area = 4096 := by decide +kernel

theorem witness_TranslationSetsAccessed : (match (data.translate 1 0x200000 0 0x210000 .load).2 with | .ok _ => true | .error _ => false) = true ∧
    data.tlb 0 = [] ∧ bit (Memory.read64 data.mem (0x200000 + 8 * (2 ^ 39 / 2 ^ 39 % 2 ^ 18))) 0 = false ∧
    bit (Memory.read64 { data with mem := Memory.write64 data.mem 0x200000 3 }.mem (0x200000 + 8 * (0 / 2 ^ 39 % 2 ^ 18))) 1 = true := by decide +kernel

theorem witness_Prefetch : (match segCheck data.th.seg (data.x 10) 1 1 .load with
    | .ok (.inr va) => (match data.openChunk.mapVa (segOf data.th.seg (data.x 10)) va 1 .load with
      | (s1, .ok (.inner key _ _ _)) => !s1.locked [lineOf key] && !s1.poisoned.contains (lineOf key) &&
          (isHostKey key || s1.permits (s1.coreInit s1.th.core) key false) && decide (s1.setCount s1.th.core (setOf (lineOf key)) < 8)
      | _ => false)
    | _ => false) = true ∧ data.th.got = [] ∧ data.roomy := by decide +kernel

theorem witness_VectorLoadsAndStores : (match data.loadMany [(data.x 10, 64, 64)] with | .ok _ [bs] _ => bs.length == 64 | _ => false) = true ∧
    (match data.loadMany ((List.range 8).map (fun i => (data.x 10 + BitVec.ofNat 64 i * 8, 8, 8))) with | .ok _ bss _ => bss.length == 8 | .stop _ _ => false) = true ∧
    (match data.store 8 ((List.range 8).map (fun i => Elt.ofBytes (data.x 10 + BitVec.ofNat 64 i * 8) (leBytes 8 i))) with | .ok _ _ _ => true | .stop _ _ => false) = true ∧
    (match data.store 64 [{ ea := data.x 10, n := 64, cells := [(3, 0xFF, 7)] }] with | .ok _ _ _ => true | .stop _ _ => false) = true := by decide +kernel

theorem witness_TypedLoadsAndStores : base.th.arch.modeOf false 7 = some .rne ∧ base.th.arch.modeOf true 7 = some .rne ∧ (0xA#5).toNat < 0x1C ∧
    (data.x 10).toNat % typedAlign 32 = 0 ∧ ((data.x 10 + 1).toNat % typedAlign 32 ≠ 0) ∧
    (match data.loadMany [(data.x 10, 32, 1)] with | .ok _ _ _ => true | .stop _ _ => false) = true ∧
    (match data.store 1 [{ ea := data.x 10, n := 4, cells := [(0, 0xFF, 7)] }] with | .ok _ _ _ => true | .stop _ _ => false) = true := by decide +kernel

theorem witness_MatrixIssue : matrix.th.core % 2 = 1 ∧ base.th.core % 2 = 1 ∧ { base with th.core := 2 }.th.core % 2 = 0 ∧
    (match (fmtCtx (Map.get 0 matrix.th.arch.fmtctx 0)).combo 64 with
     | some (k, _) => decide (aEntry (fmtCtx 0xE7) 64 k ≤ (matrix.ringOf matrix.myCell 0).entryBytes) && decide (bEntry (fmtCtx 0xE7) k ≤ (matrix.ringOf matrix.myCell 1).entryBytes)
     | none => false) = true ∧
    (matrix.ringOf matrix.myCell 0).word ≠ 0 ∧ (matrix.ringOf matrix.myCell 1).word ≠ 0 ∧ matrix.hasEntry 0 = true ∧ matrix.hasEntry 1 = true ∧
    matrix.hasEntry 2 = false ∧ matrix.th.chunk.isOpen = false ∧ ((fmtCtx 0x1F).combo 64).isNone = true ∧
    mdrainOk 0 0 0xB 0 = true ∧ matrix.th.arch.modeOf true 0 = some .rne ∧ mdrainOk 1 2 0xB 0 = true ∧ (matrix.ringOf matrix.myCell 2).word = 0 := by decide +kernel
theorem witness_MatrixIssue_room : matrix.sigRoom [ringLine matrix.myCell 0] [] :=
  ⟨by decide +kernel, fun h => absurd h (by decide +kernel)⟩

theorem witness_RingsAndStash_rings : (base.x 0 = 0) ∧ ((base.setX 5 1).x 5 ≠ 0) ∧ fld ((base.setX 5 1).x 5) 53 48 = 0 ∧
    (base.ringOf base.myCell 0).word = 0 ∧ (matrix.ringOf matrix.myCell 0).word ≠ 0 ∧ matrix.hasEntry 0 = true ∧
    { matrix with th.chunk.claims := [(0, 9)] }.hasEntry 0 = false ∧ matrix.replaying = false ∧ matrix.th.chunk.isOpen = false ∧
    rcfgStatus 0x0001000100000000 512 = 0 ∧ rcfgStatus 0x0001000100000000 511 = 2 := by decide +kernel
theorem witness_RingsAndStash_stash : (match stashed.stashRange 10 11 with | .ok r => r == (0x200000, 4096) | .error _ => false) = true ∧
    (match stashed.stashRange 10 12 with | .ok r => r == (0x200000, 8) | .error _ => false) = true ∧
    (match { stashed with th.seg := [] }.stashRange 10 11 with | .ok _ => false | .error _ => true) = true ∧
    stashed.openChunk.stashMap.length < 8 ∧ (freeRun stashed.openChunk.stashMap 0 4096).isSome = true ∧
    mapped.openChunk.stashMap.any (fun e => e.base == 0x200000 && e.len == 4096) = true ∧ freeRun [] 3145728 4096 = none := by decide +kernel

theorem witness_CopyIssue : cpyOk 0 0 0 0 = true ∧ cpygOk 1 3 = true ∧ cpyOk 0 0 5 0 = false ∧ (base.memberOf 0).isSome = true ∧
    ({ base with gangs := [] }.memberOf 0) = none ∧ base.replaying = false ∧ (base.setX 5 3).x 5 = 3 ∧ 3 < ((base.setX 5 4).x 5).toNat := by decide +kernel

theorem witness_BoundaryInstructionsCutFirst : Instr.cut.atBoundary base = true ∧ { base with th.chunk.isOpen := true }.th.chunk.isOpen = true ∧
    base.th.chunk.wbuf = [] ∧ base.th.chunk.defq = [] ∧ base.th.chunk.wsig = 0 ∧ { base with th.chunk.wsig := 1 }.th.chunk.wsig ≠ 0 ∧ base.turnOf base.th = true ∧ base.replayed = none ∧
    { base with gangs := [{ Gang.plain with launch.rrm := 2 }] }.replayed = some [] ∧ rankCommit base.th.rank 0 [] = none ∧
    rankCommit 0 0 [0x2000000000000000, 7, 0x1000000010000000] = some 1 ∧ nthValue 0 0 0 [0x2000000000000000, 7, 0x1000000010000000] = some [7] := by decide +kernel

theorem witness_WaitingInstructions : base.th.chunk.isOpen = false ∧ base.inTurn = true ∧ waiting.inTurn = true ∧ base.fenceHolds base.th.tid 2 = true ∧
    waiting.fenceHolds waiting.th.tid 0 = false ∧ (match (data.resolveMem (data.x 10) 8 8 .load).2 with | .ok _ => true | .error _ => false) = true ∧
    (match data.loadAs (data.x 10) 8 8 true with | .ok _ bs _ => leNat bs == 0 | .stop _ _ => false) = true ∧ data.x 0 = 0 ∧ (data.setX 5 1).x 5 ≠ 0 ∧
    (base.x 0).toNat ≤ base.time.now.toNat ∧ base.time.now.toNat < (data.x 10).toNat ∧ (base.memberOf 0).isSome = true ∧
    ({ base with gangs := [] }.memberOf 0) = none ∧ Map.get 0 base.th.arch.arrivals 0 ≤ (base.x 0).toNat ∧
    0 < Map.get 0 arrived.th.arch.arrivals 0 ∧ (arrived.memberOf 0).map (fun g => (g.barrier 0).done) = some 0 ∧
    (met.memberOf 0).map (fun g => (g.barrier 0).done) = some 1 ∧ Map.get 0 (base.cell base.myCell).sems 0 = 0 := by decide +kernel
theorem witness_WaitingInstructions_sem : Map.get 0 (signalled.cell signalled.myCell).sems 0 = 5 ∧ (signalled.setX 5 3).th.chunk.isOpen = false ∧
    0 < ((signalled.setX 5 3).x 5).toNat ∧ ((signalled.setX 5 3).x 5).toNat ≤ 5 ∧ 5 < ((signalled.setX 5 9).x 5).toNat ∧
    65535 < ((signalled.setX 5 65536).x 5).toNat ∧ (∀ g, ({ base with gangs := [{ Gang.plain with launch.deps := [{ inst := 7, triggered := false, code := none }] }] } : State).myGang = some g →
      g.launch.deps = [{ inst := 7, triggered := false, code := none }]) ∧ Gang.plain.launch.deps = [] := by decide +kernel

theorem witness_SignalsTasksAndSteps : (match (data.placeMem (data.x 10) 8 8).2 with | .ok (.inner _ _ _ _) => true | _ => false) = true ∧
    (match (data.placeMem 1 8 8).2 with | .error _ => true | _ => false) = true ∧
    (match ({ data with mem := Memory.write64 data.mem 0x401008 0xFFF0000060032F } : State).placeMem (data.x 10) 8 8 with
      | (_, .ok (.far _ _ _)) => true | _ => false) = true ∧
    (base.memberOf 0).isSome = true ∧ base.myGang = some Gang.plain ∧ base.th.packet = none ∧ Gang.plain.exact = false ∧
    Gang.plain.launch.guarded = false ∧ Gang.plain.nextItem < Gang.plain.items ∧ ((base.asking base.th.tid).packetOf Gang.plain 0).2 = some [0, 0, 0, 0, 0, 0, 0, 0] ∧
    base.inItem = false ∧ base.inTurn = true ∧ { base with th.packet := some [] }.th.packet = some [] ∧ base.th.chunk.isOpen = false ∧
    base.th.arch.step.toNat < (data.x 10).toNat ∧ (base.x 0).toNat ≤ base.th.arch.step.toNat := by decide +kernel
theorem witness_SignalsTasksAndSteps_safe : ({ Gang.plain with nextItem := 1 } : Gang).items ≤ ({ Gang.plain with nextItem := 1 } : Gang).nextItem ∧
    base.safeApplies Gang.plain = false ∧ base.safeApplies { Gang.plain with req := .preempt } = true ∧
    ({ Gang.plain.kernel with safepts := [{ ident := 3, save := 0, restore := 0, size := 0 }] } : Kernel).safepts.any (fun p => p.ident == 3) = true ∧
    base.th.safeResult = none ∧ base.th.inh = false ∧ { base with th.safeResult := some 2 }.th.safeResult = some 2 := by decide +kernel

theorem witness_AtomicsOnInnerLines : fetched.th.chunk.isOpen = false ∧ (match fetched.atomicPlace (fetched.x 10) 8 8 .rmw true true with
      | (s1, .ok (.inner key leaf _ _)) => (s1.innerBar (fetched.x 10) key 8 [leaf]).isNone &&
          (s1.keyReg (s1.here { home := none, pa := key / 64 * 64 })).isNone && s1.allThreads.all (fun u => u.pend == .none) && s1.th.rank == 0
      | _ => false) = true ∧
    (match data.atomicPlace 1 8 8 .rmw true true with | (_, .error _) => true | _ => false) = true ∧ fetched.th.replyPoison = false ∧
    fetched.inTurn = true ∧ fetched.untraced0 = true := by decide +kernel
theorem witness_AtomicsOnInnerLines_full : (match fetched.atomicPlace (fetched.x 10) 8 8 .rmw true true with
      | (s1, .ok (.inner key _ _ _)) =>
        let line := s1.here { home := none, pa := key / 64 * 64 }
        let k : KeyReg := { loc := { line with pa := line.pa + 1 }, word := 0, buffered := [] }
        decide (Config.keyLimit ≤ State.keyRegsAt { s1 with keyRegs := List.replicate Config.keyLimit k } line)
      | _ => false) = true := by decide +kernel

theorem witness_FarAtomicsKeysAndComets_far : (match farData.atomicPlace (farData.x 10) 8 8 .rmw true true with
      | (_, .ok (.far _ _ _)) => true | _ => false) = true ∧ farData.th.chunk.isOpen = false ∧ farData.th.replyBad = false ∧
    farData.th.replyPoison = false ∧ farData.inTurn = true ∧ (match farData.atomicPlace (farData.x 10) 1 1 .rmw true false with
      | (_, .ok (.far _ _ _)) => true | _ => false) = true ∧
    (match farData.atomicPlace (farData.x 10) 8 8 .store false true with | (_, .ok (.far _ _ _)) => true | _ => false) = true := by decide +kernel
theorem witness_FarAtomicsKeysAndComets_key : (match fetched.atomicPlace (fetched.x 10) 1 1 .rmw true false with
      | (s1, .ok (.inner key _ _ _)) => s1.th.got.contains (lineOf key) && !s1.commitBarred [lineOf key] [] &&
        s1.allThreads.all (fun u => u.pend == .none) && (s1.keyReg { home := none, pa := key / 64 * 64 }).isNone && decide (s1.keyRegsAt { home := none, pa := key / 64 * 64 } < Config.keyLimit)
      | _ => false) = true ∧ bit (0x8000001000080001 : W64) 63 = true ∧ fld (0x8000001000080001 : W64) 60 54 = 0 ∧
    fld (0x8000001000080001 : W64) 53 36 = 1 ∧ fld (0x8000001000080001 : W64) 35 18 = 2 ∧ fld (0x8000001000080001 : W64) 17 0 = 1 ∧
    (match data.atomicPlace (data.x 10) 8 8 .store false true with | (_, .ok (.inner _ _ _ _)) => true | _ => false) = true ∧
    (match data.atomicPlace 1 8 8 .store false true with | (_, .error _) => true | _ => false) = true := by decide +kernel

theorem witness_CaravanInstructions : base.cvLive = false ∧ base.th.chunk.isOpen = false ∧ (base.freeDone base.th.tid).freeRecord = some 0 ∧
    opened.cvMine = true ∧ (opened.caravan opened.cvId).st = .opened ∧ (opened.caravan opened.cvId).ovf = false ∧ opened.replaying = false ∧
    opened.unplaced opened.cvId = false ∧ opened.time.now.toNat < (opened.caravan opened.cvId).d.toNat ∧ (opened.caravan opened.cvId).seq = 0 ∧
    (match (opened.resolveMem (opened.x 10) 8 8 .store).2 with | .ok (.inner key _ _ _) => !isHostKey key | _ => false) = true ∧
    (match (opened.resolveMem (opened.x 10) 64 64 .store).2 with | .ok (.inner key _ _ _) => !isHostKey key | _ => false) = true ∧
    (opened.resolveMem (opened.x 10) 8 8 .store).1.cvMine = true ∧ base.cvMine = false ∧
    (match (base.resolveMem (opened.x 10) 8 8 .store).2 with | .error _ => true | _ => false) = true := by decide +kernel
theorem witness_CaravanInstructions_commit : staged.cvMine = true ∧ (staged.caravan staged.cvId).seq ≠ 0 ∧ staged.unplaced staged.cvId = false ∧
    (∀ p ∈ (staged.caravan staged.cvId).dests, p.1 = staged.moduleId) ∧ (staged.cvDest (staged.cidOf staged.cvId)).isSome = true ∧
    (staged.cvDest (staged.cidOf 0)).any (fun e => !staged.cvHeld e && !staged.tokenBars 1 && !staged.cvFirst e.lines 0 (fun k => k.current (staged.cidOf 0))) = true ∧
    (staged.cvDest (staged.cidOf 0)).any (fun e => !e.inn.isEmpty && ({ staged with locks := [(0x600000 / 64, 9)] } : State).cvHeld e) = true ∧ stagedFar.cvMine = true ∧
    (∃ p ∈ (stagedFar.caravan stagedFar.cvId).dests, p.1 ≠ stagedFar.moduleId) ∧ (stagedFar.caravan stagedFar.cvId).answers = [] ∧
    (stagedFar.caravan stagedFar.cvId).undelivered = [] := by decide +kernel
theorem witness_CaravanInstructions_rest : { opened with caravans := [(0, { Caravan.reset with st := .done, gen := 1, owner := 1 })] }.cvMine = true ∧
    { opened with caravans := [(0, { Caravan.reset with st := .preparing, gen := 1, owner := 1 })] }.cvMine = true ∧
    { opened with caravans := [(0, { Caravan.reset with st := .opened, gen := 1, owner := 1, ovf := true })] }.cvMine = true ∧
    ((opened.caravan 0).budget < (opened.caravan 0).charge + 64) = false ∧ (opened.setX 5 5).liveCv ((opened.setX 5 5).x 5) = false ∧ opened.liveCv opened.th.cvh = true := by decide +kernel

theorem witness_GuardedItemsAndMoons : base.inItem = false ∧ guarded.inItem = true ∧ guarded.th.chunk.isOpen = false ∧
    guarded.released = [] ∧ fld guarded.gtol 31 0 = 0x3F800000 ∧ (fF32.unpack 0x3F800000).isFin = true ∧ (fF32.unpack 0).isFin = true ∧
    (fF32.unpack 0x7FC00000).isFin = false ∧ ({ guarded with th.item.staged := [(0x600000, 255, 7)], locks := [(0x600000 / 64, 9)] } : State).barred 1 (linesOf [0x600000]) = true ∧ linesOf [0x600000] ≠ [] ∧
    guarded.barred 1 (linesOf [0x600000]) = false ∧ guarded.cvFirst (linesOf [0x600000]) 0 (fun _ => false) = false ∧ (guarded.releasedBy (.gstage []) .waiting).tid = guarded.th.tid := by decide +kernel
theorem witness_GuardedItemsAndMoons_moon : (match (data.pageOf (data.x 10)).2 with | .ok (e, va) => !e.offHbm va && leafLoc e.leaf == 0 | _ => false) = true ∧
    (match (farData.pageOf (farData.x 10)).2 with | .ok (e, va) => !e.offHbm va && leafLoc e.leaf == 3 | _ => false) = true ∧
    (match (base.pageOf (data.x 10)).2 with | .error _ => true | _ => false) = true ∧ data.replaying = false ∧
    Region.reset.fwmin ≤ Region.reset.fwmax ∧ farData.th.replyBad = false ∧ (farData.pageOf (farData.x 10)).1.th.replies = [] := by decide +kernel

theorem witness_SpecialRegisters : base.th.gang ≠ none ∧ { base with th.gang := none }.th.gang = none ∧ base.th.chunk.isOpen = false ∧
    ({ base with th.chunk.isOpen := true } : State).th.chunk.isOpen = true ∧ base.th.inBody = false ∧ base.inTurn = true ∧ base.openChunk.th.merges = [] ∧ base.roomy := by decide +kernel

theorem witness_SystemInstructions : base.th.chunk.isOpen = false ∧ { base with th.trapvec := 64 }.Handles ∧ base.gangEnded = false ∧
    base.th.deferredDue = false ∧ base.th.stepping = false ∧ base.th.merges = [] ∧ ({ base with th.trapcause := 2 ^ 63 } : State).th.inh = true ∧
    base.th.inh = false ∧ fld (base.core base.th.core).segtab 63 48 ≤ (base.x 0).toNat ∧ table.th.chunk.isOpen = false ∧
    (table.x 0).toNat < fld (table.core table.th.core).segtab 63 48 ∧ table.poisoned = [] ∧
    table.permits (table.coreInit table.th.core) 0x600000 false = true ∧
    ({ table with service.firewall := [] } : State).permits (table.coreInit table.th.core) 0x600000 false = false ∧ leNat (table.bytesAt 0x600000 16) = 0 ∧
    leNat (({ table with mem := Memory.write64 table.mem 0x600000 1 } : State).bytesAt 0x600000 16) % 64 ≠ 0 ∧
    lineOf 0x600000 ∈ ({ table with poisoned := [0x600000 / 64] } : State).poisoned ∧ base.th.gang ≠ none ∧ { base with th.gang := none }.th.gang = none ∧
    base.th.woken = false ∧ base.replaying = false ∧ ({ base with th.trapcause := 2 ^ 63 } : State).inTurn = true := by
  refine ⟨by decide +kernel, ⟨by decide +kernel, by decide +kernel⟩, ?_⟩
  decide +kernel

theorem witness_CommitsRepliesFaultsAndWakes : asks.findTid 1 = some asks.th ∧ asks.grantable asks.th = true ∧ base.grantable base.th = false ∧
    granted.findTid 1 = some granted.th ∧ granted.th.st = .committing ∧ granted.logRoom granted.th = true ∧ base.th.tid = 1 ∧
    logged.findTid 1 = some logged.th ∧ logged.logRoom logged.th = false ∧ logged.th.st = .committing ∧ 256 ≤ (logged.core 3).dlog.length ∧
    (base.core 3).dlog.length < 256 ∧ misses.findTid 1 = some misses.th ∧ misses.th.st = .dataWait ∧ misses.locked [0x600000 / 64] = false ∧ misses.tokenBars 1 = false ∧ waiting.th.pend = .none ∧ waiting.threads = [] ∧
    misses.permits (misses.coreInit misses.th.core) 0x600000 false = true ∧ base.permits (base.coreInit 3) 0xFFFFFFFFFFFFFFFF false = false ∧
    (asks.allThreads.map (·.tid)).Nodup ∧ base.untraced0 = true := by decide +kernel
theorem witness_CommitsRepliesFaultsAndWakes_rest : { base with th.st := .spillWait, th.pend := .fill 0 }.findTid 1 = some { base with th.st := .spillWait, th.pend := .fill 0 }.th ∧
    (base.focus 1).isSome = true ∧ (firstQueued 3 queued.allThreads).bind (fun q => if queued.findTid q.tid = some q then some q.tid else none) = some 2 ∧ queued.slotTid 3 1 = none ∧ (queued.core 3).dbg.halt = false ∧
    (parkedOne.slotTid 3 0).map (·.st) = some .parked ∧ (fun k : State => !k.fabric.held && k.allThreads.all (fun r => r.tid != 1 || r.slot.isNone)) ((parkedOne.asking 1).onThread 1 State.toQueue) = true ∧
    (((base.asking 1).focus 1).map (fun k => (k.spillFrame 0).1.fabric.held || (k.fillFrame 0).1.fabric.held)) = some false ∧
    (((farFrames.asking 1).focus 1).map (fun k => (k.spillFrame 0).1.fabric.held)) = some true ∧
    ({ base with service.faults := [{ tid := 1, gang := 1, rank := 0, asid := 1, va := 0, acc := .load, reason := .notPresent, engine := none }] }.service.faults[0]?).isSome = true ∧
    base.th.merges = [] ∧ base.th.pendErr = false ∧ base.th.stepping = false ∧ (base.th.gang.bind base.findGang).map (·.ended) = some false ∧
    base.th.inh = false ∧ base.fenceHolds 1 2 = true ∧ waiting.fenceHolds 1 2 = false ∧ Gang.plain.launch.rrm ≠ 2 ∧
    relOf 1 5 0 waiting.released 0 = some 0 ∧ 1 ≠ frontTid ∧ ({ asks with th.chunk.lines := [2 ^ 64 / 64] } : State).ownsLine (2 ^ 64 / 64) = false ∧ asks.th.chunk.lines.all asks.ownsLine = true ∧ base.time.now.toNat = 0 ∧ waitHolds 0 (0 : W64) (base.readWord { home := none, pa := 0 }) = true ∧
    base.waitLost { home := none, pa := 0 } = false ∧ asks.th.uncommitted = true ∧ asks.th.softSquashes < 15 ∧ 0x600000 / 64 ∈ (data.core 3).dirty ∧ 5 ∉ (data.core 3).dirty := by decide +kernel

theorem witness_EffectsEnginesAndTargets :
    (∀ i ∈ [Item.semSig 1 0 1, .radv 1 0, .rcfg 1 0 0 none, .rpop 1 0 0 0, .ringStore 1 [], .tsemSig { home := none, pa := 0x600000 } 5 .a 0,
        .comet { home := none, pa := 0x600000 } .add 8 1 .a 0, .trigger 1 0, .comet { home := none, pa := 0x600000 } .faddO 8 1 .a 0],
      ({ data with released := [data.releasedBy i .waiting] } : State).heldBack 0 = false) ∧
    data.homeFail { home := none, pa := 0x600000 } (data.initOf 1) = none ∧ data.poisonedAt { home := none, pa := 0x600000 } 8 = false ∧
    leNat (data.homeBytes { home := none, pa := 0x600000 } 8) ≠ 2 ^ 64 - 1 ∧ data.barred 1 (linesAt 0x600000 8) = false ∧ data.findGang 1 = some Gang.plain ∧ data.barred 1 [lineOf (ringLine 1 0)] = false ∧
    data.keyReg { home := none, pa := 0x600000 } = none ∧ data.keyRegsAt { home := none, pa := 0x600000 } < Config.keyLimit ∧ data.untraced0 = true ∧
    (matrix.ringOf 1 0).on = true ∧ (matrix.ringOf 1 0).hasRoom = true ∧ (matrix.ringOf 1 5).on = false ∧ (matrix.cell 1).matq = [] ∧
    ({ (matrix.ringOf 1 0) with t := (matrix.ringOf 1 0).depth } : Ring).hasRoom = false ∧ (matrix.ringOf 1 0).freed = [] ∧ (matrix.ringOf 1 0).h = 0 := by decide +kernel
theorem witness_EffectsEnginesAndTargets_far : (farWaits.findTid 1).map (·.st) = some .dataWait ∧ farWaits.behindO 1 4 .a = false ∧
    farWaits.routeHeld 4 .a = false ∧ farWaits.farFail { home := some 4, pa := 64 } .a = none ∧ farWaits.poisonedAt { home := some 4, pa := 64 } 8 = false ∧
    farWaits.farLocked 1 4 (countFrom 64 8) = false ∧ farWaits.amoUnderWay 1 = false ∧ farWaits.maySend 4 .a = true ∧ farWaits.farMoonBytes { home := some 4, pa := 64 } 8 = none ∧
    farWaits.replaying = false ∧ (farWaits.focus 1).isSome = true ∧ farWaits.allThreads.all (fun u => u.pend != .fence 0) = true ∧
    ({ farWaits with released := [farWaits.releasedBy (.farStore 4 [(64, 255, 1)] .a 0) .handed] } : State).heldBack 0 = false ∧
    (Item.farStore 4 [(64, 255, 1)] .a 0).travelsFar = true ∧ 4 ≠ farWaits.moduleId := by decide +kernel
theorem witness_EffectsEnginesAndTargets_engines : (computing.cell 1).matq.length = 2 ∧ 0 < (computing.ringOf 1 0).t ∧ 0 < (computing.ringOf 1 1).t ∧
    ((fmtCtx 0xE7).combo 128).isSome = true ∧ mayRun none = true ∧ mayRun (some 5) = false ∧ bit (5 : W64) 63 = false ∧
    drainEntry 0x0B 1 ≤ (computing.ringOf 1 0).entryBytes ∧ (computing.ringOf 1 0).hasRoom = true ∧
    computing.targetPending 1 true = false ∧ computing.addsPending 1 true = false ∧ copying.targetPending 1 false = false ∧ copying.addsPending 1 false = false ∧
    (match copying.readRecords 1 copying.aCopy with
     | (s1, some (x, y)) => (s1.recordFail 1 0 (layoutOf x) (layoutOf y)).isSome
     | _ => false) = true := by decide +kernel
theorem witness_EffectsEnginesAndTargets_copy : (match copies.readRecords 1 copies.aCopy with
    | (s1, some (x, y)) =>
      let a := layoutOf x
      let b := layoutOf y
      let p := s1.copyAll 1 copies.aCopy a b
      (s1.recordFail 1 0 a b).isNone && !b.rng && p.2.2.isNone && p.2.1.adds.isEmpty && !(p.1.putsHeld copies.aCopy.who p.2.1.puts)
    | _ => false) = true ∧
    (match copies.drainRows copies.aCopy.who 1 none 0 (copies.x 10) 0 { fmt := 0x0B, rm := .rne, sat := false, seed := 0, count := 0 }
        (drainVals Acc.reset (fF32.unpack 0x3F800000)) 1 0 { puts := [], adds := [], flags := false } with
      | (_, o, none) => o.adds.isEmpty && !o.puts.isEmpty | _ => false) = true ∧
    (∃ f : Finished, f.target = .sem 1) ∧ data.findGang 1 = some Gang.plain := by
  refine ⟨?_, ?_, ⟨{ cell := 1, matrix := false, target := .sem 1, poison := false, who := data.aCopy.who }, rfl⟩, ?_⟩ <;> decide +kernel

theorem witness_PagesMoonsAndHosts : aRange.base % 65536 = 0 ∧ aRange.len % 65536 = 0 ∧ aRange.frames % 65536 = 0 ∧ 0 < aRange.len ∧
    aRange.base + aRange.len ≤ 2 ^ 57 ∧ (rangeTables aRange).2.2 + aRange.len ≤ Config.hbmEnd ∧ aRange.fwmin.toNat ≤ aRange.fwmax.toNat ∧ aRange.fwmax.toNat ≤ 4 ∧
    base.service.ranges = [] ∧ (∃ q ∈ ({ base with service.ranges := [aRange] } : State).service.ranges, (q.asid == 1 && q.base == 0x30000) = true) ∧
    (fun w => !bit w 10 && (leafPlace w).home.isNone && (leafPlace w).pa == 0x600000) (Memory.read64 serves.mem 0x401008) = true ∧
    serves.leaves.any (fun p => p.1 == 0x401008 && pageSize p.2 == 2097152) = true ∧ serves.tokenBars frontTid = false ∧
    ({ asks with th.prio := true, tokenQueue := [1] } : State).tokenBars frontTid = true ∧
    serves.moveBarred (leafPlace (Memory.read64 serves.mem 0x401008)) 2097152 = false ∧ serves.leaves.any (fun p => p.1 == 0) = false ∧ ({ PageRec.reset with pin := true } : PageRec).pin = true ∧ PageRec.reset.pin = false ∧
    ({ PageRec.reset with pin := true } : PageRec).pinnedAt + base.service.pinTimeMs * 1000 * 16000 ≤ 2 ^ 60 := by decide +kernel
theorem witness_PagesMoonsAndHosts_host : Map.get 0 ({ base with subs := [(5, 1)] } : State).subs 5 = 1 ∧ Map.get 0 base.subs 5 ≠ 1 ∧ Map.get 0 base.subs 5 ≠ 2 ∧
    Map.get 0 ({ base with subs := [(5, 2)] } : State).subs 5 = 2 ∧ base.windowsEnded 0 = 0 ∧ ({ base with islandTicks := [(0, 65536 * 16000)] } : State).windowsEnded 0 = 1 ∧
    0x401008 % 8 = 0 ∧
    (({ base with subs := [(0, 2)], farMoons := [(5, (3, 0))] } : State).farMoons.find? (fun q => q.1 == 5)) = some (5, (3, 0)) ∧
    base.locked [lineOf (hostKey 0 64)] = false ∧ ({ base with locks := [(lineOf (hostKey 0 64), 9)] } : State).locked [lineOf (hostKey 0 64)] = true ∧
    (0, 0, 2 ^ 43) ∈ hosted.service.cxl ∧ 0x600000 + 8 ≤ 0 + 2 ^ 43 ∧ base.service.cxl = [] ∧
    hosted.hostMay 0x600000 8 true = true ∧ ({ hosted with service.firewall := [] } : State).hostMay 0x600000 8 true = false ∧
    hosted.barred frontTid (linesAt 0x600000 8) = false ∧ (∀ cs ∈ pieces 64 (mcellsAt 0x600000 [1, 2, 3]), hosted.hostMay (cs.headD (0, 0, 0)).1 cs.length true = true) ∧
    bar0Listed 0x40000 = false ∧ ((base.cmdRing 0 0).en = false) ∧
    (fun c : CmdRing => c.en && decide (64 < c.size) && (64 + c.size - c.head) % c.size == 64 && !c.loc) (enabled.cmdRing 0 0) = true ∧
    (0 + (base.cplRing 0 0).size - (base.cplRing 0 0).head) % (base.cplRing 0 0).size ≤ ((base.cplRing 0 0).tail + (base.cplRing 0 0).size - (base.cplRing 0 0).head) % (base.cplRing 0 0).size ∧
    0 < (base.cplRing 0 0).size ∧ (base.cplRing 0 0).en = false ∧ (1 % 64 ≠ 0) ∧
    (base.mmioStore .rootMonitor 0 (leBytes 8 1)).isNone = true := by decide +kernel

theorem witness_PacketsAndScheduling :
    (∀ p ∈ [[0x100], [0x107], launchPacket, guardedPacket, [0x103, 0x600000, 5], [0x104, 0x600000, 0], [0x105, 1], [0x106, 0]],
      (serves.posed p).serving = true ∧ (serves.posed p).headPacket 0 0 = some (7, p)) ∧
    fld (0x100 : W64) 15 8 = 1 ∧ unitReserved [0x100] 1 = false ∧ 6 < fld (0x107 : W64) 7 0 ∧ serves.service.drain = .normal ∧
    (fun l => !launchBad launchPacket l && !serves.shapeBad l && !l.ids.any serves.liveIds.contains && !l.prods.any (fun p => (serves.bindProducer p).isNone) &&
      ((kerneled.posed launchPacket).kernels l).2.isSome && ((serves.posed launchPacket).kernels l).2.isNone) (launchOf 0 0 launchPacket) = true ∧
    (fun l => !launchBad guardedPacket l && !serves.shapeBad l && !l.ids.any serves.liveIds.contains &&
      ((kerneled.posed guardedPacket).kernels l).2.isSome) (launchOf 0 0 guardedPacket) = true ∧
    fld (0x401 : W64) 15 8 = 4 ∧ fld (0x602 : W64) 15 8 = 6 ∧ serves.shapeBad (launchOf 0 0 [0x401, 2, 0x10000, 0x0001000000010100, 0x40800]) = true ∧
    serves.tsemPlace 0x600000 = some { home := none, pa := 0x600000 } ∧ (serves.tsemPlace 0x0000500000600000).isSome = true ∧
    serves.tsemPlace 1 = none ∧ unitReserved [0x103, 0x600000, 5] 3 = false ∧ serves.locked [lineOf 0x600000] = false ∧ serves.service.restored = [] ∧
    serves.homeFail { home := none, pa := 0x600000 } .serviceColumn = none ∧ serves.poisonedAt { home := none, pa := 0x600000 } 8 = false ∧
    leNat (serves.homeBytes { home := none, pa := 0x600000 } 8) = 0 ∧ serves.untraced0 = true ∧
    (∀ m ∈ [0, 1, 2, 3, 4, 5], ckptBad [0x105, BitVec.ofNat 64 (1 + m * 65536)] = false) ∧ serves.ckptRuns 1 = false ∧
    ({ serves with ckpts := [aCkpt true] } : State).ckptRuns 1 = true ∧ (∀ n ∈ [0, 1, 2, 3], unitReserved [0x106, BitVec.ofNat 64 n] 2 = false ∧ fld (BitVec.ofNat 64 n) 31 2 = 0) := by decide +kernel
theorem witness_PacketsAndScheduling_pool :
    (fun r => r.2.1.isSome && !r.2.2.2.isEmpty) (kerneled.checkPool 1 0x10000 4096 1) = true ∧
    (fun r => r.2.1.isSome && r.2.2.2.isEmpty && (match (r.1.jobPut 1 0x11000 [0]).1.jobWords 1 0x11000 0 with
      | (k, some tab) => (k.loadShards 1 (slotBase 0x10000 4096 0) tab r.2.2.1).2 | _ => false)) (serves.checkPool 1 0x10400 4096 0) = true := by decide +kernel
theorem witness_PacketsAndScheduling_gangs : awaits.serving = true ∧ firstWaiting awaits.waiting = some (awaited { Launch.plain with lid := 2, ox := 2 }) ∧
    awaits.spots { Launch.plain with lid := 2, ox := 2 } = some ((2, 0), none) ∧
    ({ awaits with cells := Map.upd Cell.reset awaits.cells 2 (fun c => { c with owner := some 1 }) } : State).spots { Launch.plain with lid := 2, ox := 2 } = none ∧
    (serves.spots { launchOf 0 0 guardedPacket with guarded := true }).isSome = true ∧
    placed.placed = true ∧ placed.released = false ∧ placed.ended = false ∧ placed.launch.start.toNat ≤ serves.time.now.toNat ∧
    ({ serves with gangs := [placed] } : State).findGang 1 = some placed ∧ 0 + 100 * 16000000 * (0 + 1) ≤ ({ serves with time.up := 1600000000 } : State).time.up ∧
    (fun s : State => (s.spots { Launch.plain with prio := 1 }).isNone && (firstWaiting s.waiting).isSome && (s.findGang 1).isSome)
      ({ parkedAt .none with waiting := [awaited { Launch.plain with prio := 1 }] } : State) = true ∧ safe.kernel.safepts ≠ [] ∧ safe.released = true := by decide +kernel
theorem witness_PacketsAndScheduling_gather :
    (fun k : State => k.jobSaved 1 && (k.areaShards [(Gang.plain, 0)] == some []) && (k.jobWords 1 0 0).2.isSome && (k.jobWords 1 0x200000 8).2.isSome &&
      (k.openCkpt 1).2.isSome && !(k.openCkpt 1).1.fabric.held && (regionShards [] 0).isEmpty &&
      (fun r : State × Bool => r.2 && !r.1.fabric.held) (k.ckptLine (aCkpt true) 0 0x200000 (List.replicate 8 0)) &&
      (fun r : State × Bool => r.2 && !r.1.fabric.held) (k.ckptLine (aCkpt true) 0 0x201000 (List.replicate 8 0)) &&
      (fun r : State × Except CkptFail Nat => !r.1.fabric.held && (match r.2 with | .ok _ => true | _ => false)) (k.copyShard (aCkpt true) (aShard 64) 0x300000) &&
      (fun r : State × Except CkptFail Nat => !r.1.fabric.held && (match r.2 with | .error (.copy 5 true) => true | _ => false)) (k.copyShard (aCkpt true) (aShard 64) 0x302000000))
      ((gathers (aCkpt true)).asking (gatherKey 1)) = true ∧
    (gathers (aCkpt true)).ckpts.filter (fun d => d.asid == 1 && d.running) = [{ aCkpt true with pool := 0x200000, slotsz := 4096 }] ∧
    ((serves.openCaravan (ckptOwner 1) 0 2097152 20 0).caravan 0).st = .opened ∧
    (fun s : State => match s.cvTurn 0 with | (_, .ended _) => true | _ => false) (serves.updCaravan 0 (fun c => { c with st := .done })) = true := by decide +kernel
theorem witness_PacketsAndScheduling_refusals :
    (fun l => !launchBad launchPacket l && (({ kerneled with service.drain := .draining } : State).posed launchPacket |>.kernels l).2.isSome) (launchOf 0 0 launchPacket) = true ∧
    serves.tsemPlace 0x0000018000000000 = none ∧ (0x0000018000000000 : W64).toNat < Config.mmioBase ∧ serves.tsemPlace 1 = none ∧ serves.barred frontTid [lineOf 0x600000] = false ∧
    asks.barred frontTid [0x600000 / 64] = false ∧ granted.barred frontTid [0x600000 / 64] = true ∧ data.th.standsAtSafept = false ∧
    (∀ t ∈ ({ parkedAt .preempt with th.st := .faultWait } : State).cellThreads safe 0, t.standsAtSafept = false) := by decide +kernel
theorem witness_PacketsAndScheduling_saves : (∀ q ∈ [SafeReq.preempt, .checkpoint 1], (fun s : State => (s.cell 1).owner == some 1 &&
      (s.findGang 1).isSome && (countFrom 0 1).find? (fun k => rectCell 1 0 1 1 false k == 1) == some 0 && s.cellParked safe 0 && s.cellQuiet 1 &&
      (lowestRank (s.cellThreads safe 0)).isSome && decide ((s.allThreads.map (·.tid)).Nodup)) (parkedAt q) = true) ∧
    ({ parkedAt .preempt with th := Thread.reset } : State).cellThreads safe 0 = [] ∧ ({ parkedAt .preempt with th := Thread.reset } : State).cellParked safe 0 = true ∧
    0 + 100 * 16000000 ≤ ({ serves with time.up := 1600000000 } : State).time.up ∧
    (fun s : State => (s.findGang 1).isSome && (s.restoreSpot { safe with swapped := true, placed := false }).isSome && (firstWaiting s.waiting).isNone) swappedOut = true ∧
    (fun s : State => !s.hasLive 1 && !s.outstanding 1 && (s.findGang 1).isSome) { serves with th := Thread.reset } = true ∧ Gang.plain.mate = none ∧
    Gang.plain.launch.tsaddr = 0 ∧ Gang.plain.launch.rrm = 0 ∧ serves.hasLive 1 = true ∧
    (fun s : State => (s.ckpts.find? (fun c => c.due 1 s.time.up)).isSome && !s.ckptRuns 1 && !(s.jobGangs 1).any Gang.beingSaved && !(s.jobGangs 1).isEmpty)
      { parkedAt .none with ckpts := [aCkpt false] } = true ∧
    ({ serves with ckpts := [aCkpt true] } : State).ckpts.filter (fun d => d.asid == 1 && d.running) = [aCkpt true] ∧
    ({ serves with ckpts := [aCkpt true] } : State).jobSaved 1 = false ∧
    ({ parkedAt (.checkpoint 1) with gangs := [{ safe with req := .checkpoint 1, savedCells := [0] }] } : State).jobSaved 1 = true := by decide +kernel

theorem witness_CaravanProtocol :
    (fun s : State => s.stageLives (s.cidOf 0) 1 && !s.stageLives (s.cidOf 0) 2 && (s.cvDest (s.cidOf 0)).isNone && s.permits (s.initOf 1) 0x600000 true &&
      !s.poisonedAt { home := none, pa := 0x600000 } 1 && decide (s.innUsed (s.homeDie 0x600000) + 64 ≤ Config.innBytes))
      { opened with service := serves.service } = true ∧
    ¬(Config.hbmEnd ≤ 0x600000) ∧ Config.hbmEnd ≤ 2 ^ 43 ∧
    Config.innBytes < ({ guarded with gangs := [{ Gang.plain with launch.gbudget := 2 ^ 40 }] } : State).innUsed (dieOf 1) + 64 ∧ base.homeDie 0 = dieOf 1 ∧
    (∃ k ∈ linesOf [0x600040], k ∉ linesOf [0x600000]) ∧ ({ staged with service := serves.service } : State).stageLives (staged.cidOf 0) 1 = true ∧
    ((staged.cvDest (staged.cidOf 0)).map (fun e => e.gone || e.expect.isSome)) = some false ∧
    farWaits.isHere { home := some 4, pa := 64 } = false ∧ farWaits.routeHeld 4 .a = false ∧
    (farWaits.cutOff 0).routeHeld 4 .a = true ∧
    farWaits.homeFail { home := some 4, pa := 64 } .wounoLink = none ∧ farWaits.homeFail { home := some 3, pa := 64 } .wounoLink = some 2 ∧
    ({ farWaits with fabric.links := [] } : State).homeFail { home := some 4, pa := 64 } .wounoLink = some 1 ∧
    (guarded.findTid 1).map (fun t => t.item.inItem && !t.item.checked) = some true ∧
    ({ guarded with released := [guarded.releasedBy (.gstage [(0x600000, 255, 7)]) .waiting] } : State).heldBack 0 = false ∧
    ({ guarded with released := [guarded.releasedBy (.gstage [(0x600000, 255, 7)]) .waiting] } : State).heldBack 1 = true ∧
    serves.cvOurs (serves.cidOf 0) = true ∧ serves.cvOurs 0x00040001 = false ∧ serves.cvDest 0x00040001 = none ∧ (holds remote).cvDest 0x00040001 = some remote ∧
    remote.gone = false ∧ remote.confirmed = false ∧ 1 ≤ remote.staged := by decide +kernel
theorem witness_CaravanProtocol_decides :
    (fun s : State => s.cvOurs (s.cidOf 0) && s.cidOf (cidRecord (s.cidOf 0)) == s.cidOf 0 && (s.caravan 0).st == .preparing &&
      ((s.caravan 0).dests.map (·.1)).contains 4 && !((s.caravan 0).answers.map (·.1)).contains 4 &&
      ({ s.caravan 0 with answers := [(4, .ok)] } : Caravan).answered && decide (s.time.now.toNat + 200 * 16000 < (s.caravan 0).d.toNat))
      (prepares { Caravan.reset with d := 2 ^ 40 }) = true ∧
    ({ (prepares Caravan.reset).caravan 0 with dests := [(4, 1), (8, 1)], answers := [(4, .ok)] } : Caravan).answered = false ∧
    ({ (prepares Caravan.reset).caravan 0 with undelivered := [4] } : Caravan).answered = true ∧ (serves.caravan 0).st ≠ .preparing ∧
    ((prepares Caravan.reset).caravan 0).d.toNat ≤ (prepares Caravan.reset).time.now.toNat + 200 * 16000 ∧
    (opened.caravan 0).st = .opened ∧ ({ opened with time.now := 2 ^ 41 } : State).time.now = 2 ^ 41 ∧ opened.time.now.toNat + 200 * 16000 < (opened.caravan 0).d.toNat ∧
    (4 : BitVec 16) ≠ serves.moduleId ∧ (({ serves with decisions := [{ cid := 7, d := 5, commit := some 3 }] } : State).decisions.find? (fun e => e.cid == 7 && e.d == 5)).isSome = true ∧
    serves.decisions = [] := by decide +kernel
theorem witness_CaravanProtocol_ends :
    (fun s : State => !s.cvHeld { remote with confirmed := true, commit := some 0 } && !s.cvBehind { remote with confirmed := true, commit := some 0 } 0 && !s.tokenBars { remote with confirmed := true, commit := some 0 }.owner && decide ((0 : W64).toNat ≤ s.time.now.toNat) && s.untraced0)
      (holds { remote with confirmed := true, commit := some 0 }) = true ∧ (remote.inn.map (·.1)).Nodup ∧
    (holds { remote with confirmed := true, asked := true }).cvAsked { remote with confirmed := true, asked := true } = [4, 8] ∧
    remote.d.toNat ≤ ({ holds remote with time.now := 2 ^ 41 } : State).time.now.toNat ∧
    (5 : W64).toNat + serves.service.indoubtS * 1000 * 16000000 ≤ 2 ^ 60 ∧ remote.askedAt + 16000000 ≤ ({ serves with time.up := 16000000 } : State).time.up ∧
    ([4, 8] : List (BitVec 16)).all (fun m => [((4 : BitVec 16), CvQueryReply.undecided), (8, .dead)].any (fun r => r.1 == m && (r.2 == .undecided || r.2 == .dead))) = true ∧
    ([4, 8] : List (BitVec 16)).all (fun m => [((4 : BitVec 16), CvQueryReply.undecided)].any (fun r => r.1 == m && (r.2 == .undecided || r.2 == .dead))) = false := by decide +kernel

theorem witness_FabricAndTime : farWaits.portUp 18 = true ∧ farWaits.portUp 22 = false ∧ farWaits.hasNeighbour 7 = true ∧
    (countFrom (3 * (18 / 3)) 3).any (fun q => q != 18 && farWaits.portUp q) = false ∧
    (countFrom (3 * (18 / 3)) 3).any (fun q => q != 18 && ({ farWaits with fabric.links := [(18, 1), (19, 1)] } : State).portUp q) = true ∧
    (farWaits.cutOff 0).fabric.reconverging = true ∧ farWaits.fabric.reconverging = false ∧ (farWaits.findTid 1).bind (·.travels) = some (4, .a) ∧
    (farWaits.cutOff 1600000).heldOut 4 .a 0 = true ∧ (farWaits.cutOff 1).heldOut 4 .a 0 = false ∧ farWaits.travels (toFour .a) = some (4, .a) ∧
    (4 : BitVec 16) ≠ farWaits.moduleId ∧ (∃ p ∈ ({ base with subs := [(4 * 2 ^ 23, 2)] } : State).subs, p.2 ≠ 0 ∧ 2097152 * p.1 / 2 ^ 44 = 4) ∧
    (Map.get Slot.reset (slotted 9).fabric.slots 0).openAt 0 = true ∧ (Map.get Slot.reset (slotted 0).fabric.slots 0).openAt 0 = false ∧
    (fun s : State => !s.heldBack 0 && s.maySend 4 .s && !s.farLocked 1 4 [64] && (s.farFail { home := some 4, pa := 64 } .s).isNone && s.time.now == 0)
      { slotted 9 with released := [toFour .s] } = true ∧
    ((slotted 0).fabric.slotWrites.find? (fun p => p.1 == 0)).isSome = true ∧ base.fabric.slotWrites = [] := by decide +kernel
theorem witness_FabricAndTime_time : ({ base with time.masters := [(3, 7, 0)] } : State).ptpValid { ptp := 1577836800 * 16000000000, domain := 0, valid := true, port := 3 } = true ∧ 7 < base.service.ptpRank ∧
    base.ptpValid { ptp := 0, domain := 0, valid := true, port := 3 } = false ∧ base.time.st = .freerun ∧
    (∀ o ∈ [(16000001 : Int), -16000001, 321, 160], -2147483648 ≤ o ∧ o < 2147483648) ∧ base.service.pps = false ∧
    ({ base with service.pps := true } : State).service.pps = true ∧ farWaits.portUp 18 = true ∧ base.master = none ∧
    ({ base with time.masters := [(3, 7, 0)] } : State).master = some (3, 7) ∧ base.service.ptpDomain = 0 ∧
    ({ base with time.st := .locked, time.up := 4000000000 } : State).time.syncAt + 4 * 1000000000 ≤ 4000000000 ∧
    ({ base with time.st := .holdover, time.up := 160000000000 } : State).time.holdAt + 160000000000 ≤ 160000000000 := by
  decide +kernel

theorem witness_ServiceAndDebug : State.reset.service.boot = 0 ∧ State.reset.service.flashBad = none ∧ (image true true).imageValid = true ∧ tableOk (image true true) = true ∧ tableOk { image true true with roles := [] } = false ∧
    State.reset.service.monitor = none ∧ (State.reset.startMonitor 1 (image true true)).service.monitor = some (image true true) ∧
    (image false true).imageValid = false ∧ tableOk (image true false) = false ∧ serves.service.boot ≠ 0 ∧
    ({ State.reset with service.flashBad := some 0 } : State).service.flashBad = some 0 ∧ 0 + 60000 * 16000000 ≤ 960000000000 ∧ ¬(0 + 60000 * 16000000 ≤ State.reset.time.up) ∧
    serves.serving = true ∧ base.serving = false ∧ ({ serves with time.up := 1600000000 } : State).service.watchdogAt + 100 * 16000000 ≤ 1600000000 ∧
    ¬(serves.service.watchdogAt + 100 * 16000000 ≤ serves.time.up) ∧ serves.inColumn (cellOf 0) = true ∧ serves.inColumn (cellOf 3) = false ∧
    3 ≤ (([1, 2] : List Nat).filter (fun t => decide (2 < t + 1000 * 16000000))).length + 1 ∧
    Map.get 1700 serves.service.islands 0 = 1700 ∧ ({ parkedOne with th.wait := .time 5 } : State).awaited (islandOf 3) = [5] ∧ base.awaited 0 = [] ∧
    Map.get 0 base.service.fullSpeed 0 ≤ base.time.now.toNat ∧ islandOf 3 < 64 ∧ base.nearTime 0 = none ∧ (base.core 3).dbg.orbitAt = 0 ∧ 0 < (100000000 - 0) / (fld (base.core 3).dbg.orbit 31 0 * 16000) ∧ base.time.now.toNat < Map.get 0 ({ base with service.fullSpeed := [(0, 9)] } : State).service.fullSpeed 0 ∧
    (base.core 3).dbg.halt = false ∧ (∀ w ∈ [0x5, 0x4000000000000005, 0x4000000000003000, 0x6000], (fun s : State => (s.core 3).dbg.halt && (s.core 3).dbg.msgs.isEmpty &&
      s.halted 3 && (s.slotTid 3 (s.core 3).dbg.sslot).map (·.st) == some .stopped && (s.slotTid 3 (fld (s.core 3).dbg.dacc 19 16)).map (·.st) == some .stopped &&
      decide ((s.allThreads.map (·.tid)).Nodup)) (stopped (BitVec.ofNat 64 w)) = true) ∧
    base.halted 3 = false ∧ (base.slotTid 3 5).isNone = true ∧ (base.slotTid 3 0).map (·.st) = some .runnable := by decide +kernel

theorem witness_TrapEntry : base.th.chunk.isOpen = false ∧ base.gangEnded = false ∧ base.th.deferredDue = false ∧ base.th.merges = [] ∧
    base.th.stepping = false ∧ base.th.trapvec = 0 ∧ base.th.gang = some 1 ∧ base.findGang 1 = some Gang.plain ∧
    asks.th.chunk.isOpen = true ∧ asks.th.chunk.wbuf ≠ [] ∧ asks.replayed = none ∧ ({ Gang.plain with mate := some 2 } : Gang).mate = some 2 ∧
    ({ base with gangs := [{ Gang.plain with mate := some 2 }, { Gang.plain with ident := 2 }] } : State).findGang 2 = some { Gang.plain with ident := 2 } := by
  decide +kernel
theorem witness_TrapEntry_handler : ({ base with th.trapvec := 64 } : State).Handles := ⟨by decide +kernel, by decide +kernel⟩

theorem witness_StepRuns : (fun s : State => s.mayIssue s.th && s.before.isNone && s.bpHits.isEmpty && (match s.fetch with
    | (_, .ok w) => w == 0#32 | _ => false)) { base with agenda := [] } = true := by decide +kernel
theorem witness_StepRuns_agenda : base.agenda = [.select base.th.tid] ∧ base.th.yielded = false ∧
    (({ queued with agenda := [] } : State).focus 2).isSome = true := by decide +kernel
theorem witness_StepRuns_free : (({ base with agenda := [] } : State).firstDue ({ base with agenda := [] } : State).candidates).isNone = true := by
  decide +kernel

theorem witness_EncodeDecode : encode (.add 5 6 7) = some 0x02531C00#32 ∧ decode 0x02531C00#32 = .ok (.add 5 6 7) := ⟨by decide +kernel, by rfl⟩

theorem witness_StepKeepsMemory : State.reset.MemoryOk := ⟨by decide +kernel, by decide +kernel, by decide +kernel⟩
theorem witness_StepKeepsMemory_step : (match step base with | .next t => t.th.arch.pc == 0 && t.agenda.isEmpty | _ => false) = true := by decide +kernel

theorem witness_StepKeepsThreads : State.reset.TidsOk ∧ base.TidsOk :=
  ⟨⟨by decide +kernel, by decide +kernel⟩, ⟨by decide +kernel, by decide +kernel⟩⟩

end Sys2Proof.Machine
end

section
/-! PROOFS. Scalar integer results (06: R119): how the executable operations on doublewords read as exact arithmetic on
numbers, and from that the products, quotients and remainders of the multiply and divide instructions. -/
namespace Sys2Proof.Machine

/-! ## One scalar result -/

/-- An instruction that does nothing but set x[d] completes plainly with that result (02: R37). -/
theorem plainly_setResult {i : Instr} {s : State} {d : Reg} {v w : W64} (he : exec i s = .next (s.setResult d v))
    (hv : v = w) : Plainly i s (fun t => s.onlyX t d w) :=
  hv ▸ ⟨s.setResult d v, he, setResult_onlyX s d v, setResult_inChunk d v⟩

/-! ## Bit vectors as numbers -/

theorem ofNat_toNat_mul {n : Nat} (x y : BitVec n) : BitVec.ofNat n (x.toNat * y.toNat) = x * y := by
  rw [BitVec.ofNat_mul, BitVec.ofNat_toNat, BitVec.ofNat_toNat, BitVec.setWidth_eq, BitVec.setWidth_eq]

theorem ofInt_toInt_sub {n : Nat} (x y : BitVec n) : BitVec.ofInt n (x.toInt - y.toInt) = x - y :=
  BitVec.eq_of_toInt_eq (by rw [BitVec.toInt_ofInt, BitVec.toInt_sub])

/-- A left shift of the low `m` bits keeps the low `m` bits of the product with the power of two. -/
theorem ofNat_toNat_mul_two_pow {n : Nat} (m : Nat) (x : BitVec n) (k : Nat) :
    BitVec.ofNat m (x.toNat * 2 ^ k) = x.setWidth m <<< k :=
  BitVec.eq_of_toNat_eq (by simp [Nat.shiftLeft_eq])

/-! ## Low words -/

theorem low32s_ofNat (n : Nat) : low32s (BitVec.ofNat 64 n) = (BitVec.ofNat 32 n).signExtend 64 := by
  rw [low32s, BitVec.setWidth_ofNat_of_le (by decide)]

theorem low32s_ofInt (n : Int) : low32s (BitVec.ofInt 64 n) = (BitVec.ofInt 32 n).signExtend 64 := by
  have hlow : BitVec.ofInt 32 (BitVec.ofInt 64 n).toInt = BitVec.ofInt 32 n := by
    apply BitVec.eq_of_toInt_eq
    simp only [BitVec.toInt_ofInt]
    exact Int.bmod_bmod_of_dvd (by decide)
  rw [low32s, ← BitVec.signExtend_eq_setWidth_of_le _ (by decide)]
  exact congrArg (BitVec.signExtend 64) hlow

/-! ## Shift amounts (R362) -/

theorem sh6_eq (y : W64) : sh6 y = y.toNat % 64 := by simp [sh6, fld, nbits]

theorem sh5_eq (y : W64) : sh5 y = y.toNat % 32 := by simp [sh5, fld, nbits]

/-! ## Division (R119) -/

theorem divS_eq (x y : W64) : divS x y = if y = 0 then -1 else BitVec.ofInt 64 (x.toInt.tdiv y.toInt) := by
  rw [divS, ← BitVec.neg_one_eq_allOnes]; rfl

theorem divU_eq (x y : W64) : divU x y = if y = 0 then -1 else BitVec.ofNat 64 (x.toNat / y.toNat) := by
  rw [divU, ← BitVec.neg_one_eq_allOnes]; rfl

/-- The quotient -2^63 / -1 overflows back to the dividend. -/
theorem divS_neg_one (x : W64) (hx : x.toInt = -2 ^ 63) : divS x (-1) = x := by
  have hmin : x = BitVec.ofInt 64 (-2 ^ 63) := by rw [← hx, BitVec.ofInt_toInt]
  subst hmin
  decide

/-- Every dividend is a multiple of -1. -/
theorem remS_neg_one (x : W64) : remS x (-1) = 0 := by
  simp [remS]

/-! ## The obligation -/

/-- Settles O4: each instruction sets x[rd] to one operation on doublewords, and that operation is the exact arithmetic
of R119. MULH, MULHU, REM and REMU are modelled in those terms already. -/
theorem multiplyAndDivide : Obligations.MultiplyAndDivide := by
  unfold Obligations.MultiplyAndDivide
  intro s d a b x y
  refine ⟨?mul, ?mulh, ?mulhu, ?mulw, ?div, ?rem, ?divu, ?remu, ?overflow, ?add, ?sub, ?addw, ?subw, ?sll, ?sllw⟩
  case mul => exact plainly_setResult rfl (ofNat_toNat_mul x y).symm
  case mulh => exact plainly_setResult rfl rfl
  case mulhu => exact plainly_setResult rfl rfl
  case mulw => exact plainly_setResult rfl (by rw [← low32s_ofNat, ofNat_toNat_mul])
  case div => exact plainly_setResult rfl (divS_eq x y)
  case rem => exact plainly_setResult rfl rfl
  case divu => exact plainly_setResult rfl (divU_eq x y)
  case remu => exact plainly_setResult rfl rfl
  case overflow =>
    intro hx hy
    exact ⟨plainly_setResult rfl ((congrArg (divS x) hy).trans (divS_neg_one x hx)),
      plainly_setResult rfl ((congrArg (remS x) hy).trans (remS_neg_one x))⟩
  case add => exact plainly_setResult rfl (BitVec.add_def x y)
  case sub => exact plainly_setResult rfl (ofInt_toInt_sub x y).symm
  case addw => exact plainly_setResult rfl (by rw [← low32s_ofNat, ← BitVec.add_def])
  case subw => exact plainly_setResult rfl (by rw [← low32s_ofInt, ofInt_toInt_sub])
  case sll => exact plainly_setResult rfl (by rw [ofNat_toNat_mul_two_pow, BitVec.setWidth_eq, ← sh6_eq])
  case sllw => exact plainly_setResult rfl (by rw [ofNat_toNat_mul_two_pow, ← word32, ← sh5_eq])

end Sys2Proof.Machine
end

section
/-! PROOFS. Sums, bitwise operations, counts and upper immediates (16 to 19: R283, R289, R290, R296, R329, R339, R340, R364,
R390): what the counting operations count, and which words of the two register rows of the opcode table decode to nothing. -/
namespace Sys2Proof.Machine

/-! ## Completing plainly -/

/-- What follows from a plain instruction's postcondition holds of its next state too. -/
theorem Plainly.imp {i : Instr} {s : State} {p q : State → Prop} (h : Plainly i s p) (hpq : ∀ t, p t → q t) :
    Plainly i s q := by
  obtain ⟨t, he, hp, hc⟩ := h
  exact ⟨t, he, hpq t hp, hc⟩

/-! ## Immediates (R263) -/

/-- The immediate -1 is the doubleword of all ones, so an exclusive or with it is NOT (R390). -/
theorem xor_imm15_neg_one (x : W64) : x ^^^ imm15 0x7FFF = ~~~x := by
  have hones : imm15 0x7FFF = BitVec.allOnes 64 := by decide
  rw [hones, BitVec.xor_allOnes]

theorem imm20_eq_ofInt (i : BitVec 20) : imm20 i = BitVec.ofInt 64 (i.toInt * 4096) :=
  (BitVec.ofInt_mul i.toInt 4096).symm

/-! ## Counting bits (R296, R340) -/

theorem countFrom_eq_range' (lo n : Nat) : countFrom lo n = List.range' lo n := by
  induction n generalizing lo with
  | zero => rfl
  | succ n ih => rw [countFrom, ih, List.range'_succ]

theorem countFrom_zero_eq_range (n : Nat) : countFrom 0 n = List.range n := by
  rw [countFrom_eq_range', List.range_eq_range']

theorem popCount_eq_countP (x : W64) : popCount x = (List.range 64).countP (fun k => x.getLsbD k) := by
  rw [popCount, countFrom_zero_eq_range, List.countP_eq_length_filter]; rfl

/-- CTZ counts up to the first 1 bit in the order of bits 0 to 63. -/
theorem ctz64_eq_findIdx (x : W64) : ctz64 x = (List.range 64).findIdx (fun k => x.getLsbD k) := by
  have hle := List.findIdx_le_length (xs := List.range 64) (p := fun k => x.getLsbD k)
  simp only [ctz64, countFrom_zero_eq_range, List.takeWhile_eq_take_findIdx_not, Bool.not_not, List.length_take, bit]
  exact Nat.min_eq_left hle

theorem ctz64_le (x : W64) : ctz64 x ≤ 64 := by
  rw [ctz64_eq_findIdx]
  exact List.findIdx_le_length.trans_eq List.length_range

theorem getLsbD_of_lt_ctz64 {x : W64} {k : Nat} (hk : k < ctz64 x) : x.getLsbD k = false := by
  rw [ctz64_eq_findIdx] at hk
  simpa using List.not_of_lt_findIdx hk

theorem getLsbD_ctz64 {x : W64} (hn : ctz64 x < 64) : x.getLsbD (ctz64 x) = true := by
  have hlt : (List.range 64).findIdx (fun k => x.getLsbD k) < (List.range 64).length := by
    rwa [← ctz64_eq_findIdx, List.length_range]
  simpa [ctz64_eq_findIdx] using List.findIdx_getElem (w := hlt)

theorem clz64_zero : clz64 0 = 64 := rfl

/-- Of a doubleword that is not zero, the highest 1 bit stands at its binary logarithm. -/
theorem clz64_of_ne_zero {x : W64} (hx : x ≠ 0) : clz64 x = 63 - Nat.log2 x.toNat := if_neg hx

theorem log2_toNat_lt {x : W64} (hx : x ≠ 0) : Nat.log2 x.toNat < 64 :=
  (Nat.log2_lt (mt (toNat_eq_zero x).mp hx)).mpr x.isLt

theorem clz64_le (x : W64) : clz64 x ≤ 64 := by
  by_cases hx : x = 0
  · rw [hx, clz64_zero]
  · rw [clz64_of_ne_zero hx]; omega

theorem getLsbD_of_lt_clz64 {x : W64} {k : Nat} (hk : k < clz64 x) : x.getLsbD (63 - k) = false := by
  by_cases hx : x = 0
  · rw [hx, BitVec.ofNat_eq_ofNat, BitVec.getLsbD_zero]
  · rw [clz64_of_ne_zero hx] at hk
    have habove : Nat.log2 x.toNat < 63 - k := by omega
    exact Nat.testBit_lt_two_pow ((Nat.log2_lt (mt (toNat_eq_zero x).mp hx)).mp habove)

theorem getLsbD_clz64 {x : W64} (hn : clz64 x < 64) : x.getLsbD (63 - clz64 x) = true := by
  have hx : x ≠ 0 := by
    rintro rfl
    exact absurd hn (by decide)
  have htop : 63 - clz64 x = Nat.log2 x.toNat := by
    have := log2_toNat_lt hx
    rw [clz64_of_ne_zero hx]; omega
  rw [htop]
  exact Nat.testBit_log2 (mt (toNat_eq_zero x).mp hx)

/-- A count of zero bits that stops at the first 1 bit reaches 64 for zero alone, whichever end it starts from: `at k` is
the place of the bit that is met after `k` others. -/
theorem count_eq_64_iff {x : W64} {n : Nat} {place : Nat → Nat} (hplace : ∀ j, j < 64 → ∃ k, k < 64 ∧ place k = j)
    (hle : n ≤ 64) (hzeros : ∀ k, k < n → x.getLsbD (place k) = false) (hone : n < 64 → x.getLsbD (place n) = true) :
    n = 64 ↔ x = 0 := by
  constructor
  · rintro rfl
    apply BitVec.eq_of_getLsbD_eq
    intro j hj
    obtain ⟨k, hk, rfl⟩ := hplace j hj
    rw [hzeros k hk, BitVec.ofNat_eq_ofNat, BitVec.getLsbD_zero]
  · rintro rfl
    by_contra hne
    simpa using hone (by omega)

theorem ctz64_eq_64_iff (x : W64) : ctz64 x = 64 ↔ x = 0 :=
  count_eq_64_iff (place := id) (fun j hj => ⟨j, hj, rfl⟩) (ctz64_le x) (fun _ => getLsbD_of_lt_ctz64) getLsbD_ctz64

theorem clz64_eq_64_iff (x : W64) : clz64 x = 64 ↔ x = 0 :=
  count_eq_64_iff (place := (63 - ·)) (fun j _ => ⟨63 - j, by omega, Nat.sub_sub_self (by omega)⟩) (clz64_le x)
    (fun _ => getLsbD_of_lt_clz64) getLsbD_clz64

/-! ## Words that decode to nothing (R264, R270) -/

theorem toNat_append_eq_add {m n : Nat} (x : BitVec m) (y : BitVec n) : (x ++ y).toNat = x.toNat * 2 ^ n + y.toNat := by
  rw [BitVec.toNat_append, ← Nat.shiftLeft_add_eq_or_of_lt y.isLt, Nat.shiftLeft_eq]

/-- The number of a word in the format of two source registers and a function value (R262). -/
theorem toNat_registerWord (op : BitVec 7) (d a b : BitVec 5) (fn : BitVec 10) :
    (op ++ d ++ a ++ b ++ fn).toNat = op.toNat * 2 ^ 25 + d.toNat * 2 ^ 20 + a.toNat * 2 ^ 15 + b.toNat * 2 ^ 10 + fn.toNat := by
  simp only [toNat_append_eq_add]; ring

section
variable (op : BitVec 7) (d a b : BitVec 5) (fn : BitVec 10)

theorem bits_registerWord_op : bits (op ++ d ++ a ++ b ++ fn).toNat 25 7 = op.toNat := by
  rw [toNat_registerWord, bits]; omega

theorem bits_registerWord_fn : bits (op ++ d ++ a ++ b ++ fn).toNat 0 10 = fn.toNat := by
  rw [toNat_registerWord, bits]; omega

theorem bits_registerWord_rs2_fn : bits (op ++ d ++ a ++ b ++ fn).toNat 0 15 = b.toNat * 2 ^ 10 + fn.toNat := by
  rw [toNat_registerWord, bits]; omega

end

/-- A word that is not reserved and that no row of its major opcode takes decodes to nothing. -/
theorem decode_eq_unassigned {w : W32} {op : Nat} (hop : bits w.toNat 25 7 = op) (hreserved : op ≠ 0 ∧ op ≠ 127)
    (hrow : decodeRow w.toNat = none) : decode w = .error .unassigned := by
  have hword : ¬ (w = 0#32 ∨ w = 0xFFFFFFFF#32) := by
    rintro (rfl | rfl)
    · exact hreserved.1 hop.symm
    · exact hreserved.2 hop.symm
  rw [decode, if_neg hword, hrow]

theorem decodeRow_op01 {w : Nat} (hop : bits w 25 7 = 1) : decodeRow w = decodeOp01 w := by
  simp only [decodeRow, hop]

theorem decodeRow_op02 {w : Nat} (hop : bits w 25 7 = 2) : decodeRow w = decodeOp02 w := by
  simp only [decodeRow, hop]

/-- Function values above REMU's belong to CLZ, CTZ and POPC, whose rs2 field is zero. -/
theorem decodeOp01_eq_none {w : Nat} (hfn : 21 < bits w 0 10) (hrs2 : 24 < bits w 0 15) : decodeOp01 w = none := by
  unfold decodeOp01
  simp (disch := omega) only [if_neg]

theorem decodeOp02_eq_none {w : Nat} (hfn : bits w 0 10 ∉ [0, 1, 5, 6, 7, 15]) : decodeOp02 w = none := by
  simp only [List.mem_cons, List.not_mem_nil, or_false, not_or] at hfn
  unfold decodeOp02
  simp (disch := omega) only [if_neg]

/-- No CLZ, CTZ or POPC word has a nonzero rs2 field. -/
theorem decode_op01_rs2_ne_zero (d a b : BitVec 5) (fn : BitVec 10) (hfn : 21 < fn.toNat) (hb : b ≠ 0) :
    decode (1#7 ++ d ++ a ++ b ++ fn) = .error .unassigned := by
  have hop : bits (1#7 ++ d ++ a ++ b ++ fn).toNat 25 7 = 1 := bits_registerWord_op 1 d a b fn
  have hb0 : b.toNat ≠ 0 := mt (toNat_eq_zero b).mp hb
  refine decode_eq_unassigned hop (by decide) ((decodeRow_op01 hop).trans (decodeOp01_eq_none ?_ ?_))
  · rw [bits_registerWord_fn]; exact hfn
  · rw [bits_registerWord_rs2_fn]; omega

/-- OPW has no other function values than those of its six instructions. -/
theorem decode_op02_unassigned (d a b : BitVec 5) (fn : BitVec 10) (hfn : fn ∉ [0#10, 1#10, 5#10, 6#10, 7#10, 15#10]) :
    decode (2#7 ++ d ++ a ++ b ++ fn) = .error .unassigned := by
  have hop : bits (2#7 ++ d ++ a ++ b ++ fn).toNat 25 7 = 2 := bits_registerWord_op 2 d a b fn
  refine decode_eq_unassigned hop (by decide) ((decodeRow_op02 hop).trans (decodeOp02_eq_none ?_))
  rw [bits_registerWord_fn]
  simpa [BitVec.toNat_eq] using hfn

/-! ## The obligations -/

/-- Settles O1: each instruction sets x[rd] to the operation of its rule, an immediate sign-extended; OPW words with another
function value are taken by no row. -/
theorem addSubtractAndLogic : Obligations.AddSubtractAndLogic := by
  unfold Obligations.AddSubtractAndLogic
  refine ⟨?sums, decode_op02_unassigned, by rfl, by rfl, by rfl, by rfl, ?bitwise, by rfl, by rfl⟩
  case sums =>
    intro s d a b i
    refine ⟨?add, ?addw, ?addi, ?addiw, ?sub, ?subw⟩
    case add | addw | addi | addiw | sub | subw => exact plainly_setResult rfl rfl
  case bitwise =>
    intro s d a b i
    refine ⟨?and, ?andi, ?or, ?ori, ?xor, ?xori, ?not⟩
    case and | andi | or | ori | xor | xori => exact plainly_setResult rfl rfl
    case not => exact plainly_setResult rfl (xor_imm15_neg_one _)

/-- Settles O5: the counts of the model stop at the first 1 bit from their end, POPC counts all of them, and an upper
immediate is the product of R263; a nonzero rs2 field leaves CLZ and CTZ words to no row. -/
theorem countsAndUpperImmediates : Obligations.CountsAndUpperImmediates := by
  unfold Obligations.CountsAndUpperImmediates
  refine ⟨?results, ?reserved, by rfl, by rfl⟩
  case results =>
    intro s d a i x
    refine ⟨?clz, ?ctz, ?popc, ?lui, ?auipc⟩
    case clz =>
      exact (plainly_setResult rfl rfl).imp fun t ht =>
        ⟨clz64 x, ht, clz64_le x, clz64_eq_64_iff x, fun _ => getLsbD_of_lt_clz64, getLsbD_clz64⟩
    case ctz =>
      exact (plainly_setResult rfl rfl).imp fun t ht =>
        ⟨ctz64 x, ht, ctz64_le x, ctz64_eq_64_iff x, fun _ => getLsbD_of_lt_ctz64, getLsbD_ctz64⟩
    case popc => exact plainly_setResult rfl (congrArg (BitVec.ofNat 64) (popCount_eq_countP x))
    case lui => exact plainly_setResult rfl (imm20_eq_ofInt i)
    case auipc => exact plainly_setResult rfl (congrArg (s.th.arch.pc + ·) (imm20_eq_ofInt i))
  case reserved =>
    intro d a b hb
    exact ⟨decode_op01_rs2_ne_zero d a b 22 (by decide) hb, decode_op01_rs2_ne_zero d a b 23 (by decide) hb⟩

end Sys2Proof.Machine
end

section
/-! PROOFS. Comparison and selection (17: R331; 18: R363): a strict comparison selects as a weak one does, and its Boolean
is the doubleword 1 or 0. -/
namespace Sys2Proof.Machine

/-! ## Comparisons as doublewords (R363) -/

theorem w64_slt (x y : W64) : w64 (x.slt y) = if x.toInt < y.toInt then 1 else 0 := by
  simp [w64, BitVec.slt_iff_toInt_lt]

theorem w64_ult (x y : W64) : w64 (x.ult y) = if x.toNat < y.toNat then 1 else 0 := by
  simp [w64, BitVec.ult_iff_toNat_lt]

theorem imm15_toInt (i : BitVec 15) : (imm15 i).toInt = i.toInt := BitVec.toInt_signExtend_of_le (by decide)

/-! ## Minima and maxima (R331) -/

/-- Where equal keys make the choice immaterial, comparing strictly selects what comparing weakly does. -/
theorem ite_lt_eq_ite_le {α β : Type} [LinearOrder β] {m n : β} {u v : α} (heq : m = n → u = v) :
    (if m < n then u else v) = if m ≤ n then u else v := by
  rcases lt_trichotomy m n with hlt | hmn | hgt
  · rw [if_pos hlt, if_pos hlt.le]
  · rw [heq hmn, ite_self, ite_self]
  · rw [if_neg hgt.not_gt, if_neg hgt.not_ge]

theorem minS_eq (x y : W64) : minS x y = if x.toInt ≤ y.toInt then x else y := by
  simp only [minS, BitVec.slt_iff_toInt_lt]
  exact ite_lt_eq_ite_le BitVec.eq_of_toInt_eq

theorem maxS_eq (x y : W64) : maxS x y = if x.toInt ≤ y.toInt then y else x := by
  simp only [maxS, BitVec.slt_iff_toInt_lt]
  exact ite_lt_eq_ite_le fun hxy => (BitVec.eq_of_toInt_eq hxy).symm

theorem minU_eq (x y : W64) : minU x y = if x.toNat ≤ y.toNat then x else y :=
  ite_lt_eq_ite_le BitVec.eq_of_toNat_eq

theorem maxU_eq (x y : W64) : maxU x y = if x.toNat ≤ y.toNat then y else x :=
  ite_lt_eq_ite_le fun hxy => (BitVec.eq_of_toNat_eq hxy).symm

/-! ## The obligation -/

/-- Settles O3: each instruction sets x[rd] to a comparison read as a doubleword, or to the operand that a comparison
selects; at equal operands the selection does not matter. -/
theorem compareAndSelect : Obligations.CompareAndSelect := by
  unfold Obligations.CompareAndSelect
  refine ⟨?results, by rfl, by rfl, by rfl, by rfl⟩
  case results =>
    intro s d a b i x y z
    refine ⟨?slt, ?sltu, ?slti, ?sltiu, ?min, ?max, ?minu, ?maxu⟩
    case slt => exact plainly_setResult rfl (w64_slt x y)
    case sltu => exact plainly_setResult rfl (w64_ult x y)
    case slti => exact plainly_setResult rfl ((w64_slt x (imm15 i)).trans (by rw [imm15_toInt]))
    case sltiu => exact plainly_setResult rfl (w64_ult x z)
    case min => exact plainly_setResult rfl (minS_eq x y)
    case max => exact plainly_setResult rfl (maxS_eq x y)
    case minu => exact plainly_setResult rfl (minU_eq x y)
    case maxu => exact plainly_setResult rfl (maxU_eq x y)

end Sys2Proof.Machine
end

section
/-! PROOFS. Sign injection and classification (17: R314, R321): the fields of a binary32 or binary64 encoding, what each
kind of encoding unpacks to, and the class word made of them. -/
namespace Sys2Proof.Machine

/-! ## The two scalar formats (R312) -/

theorem fmtP_sign_place (p : BitVec 1) : (fmtP p).eb + (fmtP p).mb = if p = 0 then 31 else 63 := by
  rcases p.eq_zero_or_eq_one with rfl | rfl <;> rfl

theorem fmtP_width (p : BitVec 1) : (fmtP p).width = (fmtP p).eb + (fmtP p).mb + 1 := by
  rcases p.eq_zero_or_eq_one with rfl | rfl <;> rfl

/-- A bit of an operand's encoding is that bit of its register. -/
theorem testBit_xf (s : State) (p : BitVec 1) (r : Reg) {k : Nat} (hk : k ≤ (fmtP p).eb + (fmtP p).mb) :
    (s.xf p r).testBit k = (s.x r).getLsbD k := by
  rw [State.xf, Nat.testBit_mod_two_pow, fmtP_width, decide_eq_true (Nat.lt_succ_of_le hk), Bool.true_and]
  rfl

theorem signBit_xf (s : State) (p : BitVec 1) (r : Reg) :
    (fmtP p).signBit (s.xf p r) = (s.x r).getLsbD ((fmtP p).eb + (fmtP p).mb) :=
  testBit_xf s p r le_rfl

/-! ## Magnitude bits under a new sign (R321) -/

section
variable {f : Flt} {a k : Nat} {neg : Bool}

/-- Bit k of an encoding under a new sign, while the encoding lies in the doubleword. -/
theorem getLsbD_withSign (hk : k < 64) :
    (f.withSign a neg).getLsbD k = (a % 2 ^ (f.eb + f.mb) + if neg then 2 ^ (f.eb + f.mb) else 0).testBit k := by
  rw [Flt.withSign, BitVec.getLsbD_ofNat, decide_eq_true hk, Bool.true_and]

theorem getLsbD_withSign_of_lt (hn : f.eb + f.mb < 64) (hk : k < f.eb + f.mb) :
    (f.withSign a neg).getLsbD k = a.testBit k := by
  have hmag : (a % 2 ^ (f.eb + f.mb)).testBit k = a.testBit k := by simp [Nat.testBit_mod_two_pow, hk]
  rw [getLsbD_withSign (hk.trans hn)]
  cases neg with
  | false => exact hmag
  | true => rw [if_pos rfl, Nat.add_comm, Nat.testBit_two_pow_add_gt hk, hmag]

theorem getLsbD_withSign_sign (hn : f.eb + f.mb < 64) : (f.withSign a neg).getLsbD (f.eb + f.mb) = neg := by
  have hmag : (a % 2 ^ (f.eb + f.mb)).testBit (f.eb + f.mb) = false := by simp [Nat.testBit_mod_two_pow]
  rw [getLsbD_withSign hn]
  cases neg with
  | false => exact hmag
  | true => rw [if_pos rfl, Nat.add_comm, Nat.testBit_two_pow_add_eq, hmag, Bool.not_false]

theorem getLsbD_withSign_of_gt (hk : f.eb + f.mb < k) : (f.withSign a neg).getLsbD k = false := by
  by_cases h64 : k < 64
  · have hmag : a % 2 ^ (f.eb + f.mb) < 2 ^ (f.eb + f.mb) := Nat.mod_lt _ (Nat.two_pow_pos _)
    have hpow : 2 ^ (f.eb + f.mb + 1) ≤ 2 ^ k := Nat.pow_le_pow_right two_pos hk
    rw [getLsbD_withSign h64]
    apply Nat.testBit_lt_two_pow
    split <;> omega
  · exact BitVec.getLsbD_of_ge _ _ (Nat.le_of_not_lt h64)

end

/-- A sign-injection instruction sets x[rd] to the magnitude bits of x[rs1] under its sign. -/
theorem plainly_withSign {i : Instr} {s : State} {d a : Reg} {p : BitVec 1} {sign : Bool} {n : Nat}
    (hn : (fmtP p).eb + (fmtP p).mb = n) (h64 : n < 64)
    (he : exec i s = .next (s.setResult d ((fmtP p).withSign (s.xf p a) sign))) :
    Plainly i s (fun t => ∃ v : W64, s.onlyX t d v ∧ (∀ k, k < n → v.getLsbD k = (s.x a).getLsbD k) ∧
      v.getLsbD n = sign ∧ ∀ k, n < k → v.getLsbD k = false) := by
  subst hn
  refine (plainly_setResult he rfl).imp fun t ht => ⟨_, ht, ?below, getLsbD_withSign_sign h64, ?above⟩
  case below => exact fun k hk => (getLsbD_withSign_of_lt h64 hk).trans (testBit_xf s p a hk.le)
  case above => exact fun k hk => getLsbD_withSign_of_gt hk

/-- Settles O14: each instruction puts its sign above the magnitude bits of x[rs1]; the sign is a bit operation on the
two sign bits. -/
theorem signInjection : Obligations.SignInjection := by
  unfold Obligations.SignInjection
  refine ⟨?results, by rfl⟩
  case results =>
    intro s d a b p n done
    have hn : (fmtP p).eb + (fmtP p).mb = n := fmtP_sign_place p
    have h64 : n < 64 := by simp only [n]; split <;> decide
    have hsign (r : Reg) : (fmtP p).signBit (s.xf p r) = (s.x r).getLsbD n := hn ▸ signBit_xf s p r
    refine ⟨?fsgnj, ?fsgnjn, ?fsgnjx⟩
    case fsgnj => exact plainly_withSign hn h64 (by rw [← hsign b]; rfl)
    case fsgnjn => exact plainly_withSign hn h64 (by rw [← hsign b]; rfl)
    case fsgnjx => exact plainly_withSign hn h64 (by rw [← hsign a, ← hsign b]; rfl)

/-! ## The fields of an encoding (R105) -/

/-- The exponent field. -/
def Flt.expField (f : Flt) (b : Nat) : Nat := b / 2 ^ f.mb % 2 ^ f.eb

/-- The fraction field. -/
def Flt.fracField (f : Flt) (b : Nat) : Nat := b % 2 ^ f.mb

/-- The format has infinities and NaNs, no bits below its fraction, and signalling NaNs (R106). -/
structure Flt.Ieee (f : Flt) : Prop where
  special_eq : f.special = 2
  pad_eq : f.pad = 0
  three_le_mb : 3 ≤ f.mb
  one_lt_two_pow_eb : 1 < 2 ^ f.eb

theorem fF32_ieee : fF32.Ieee := ⟨rfl, rfl, by decide, by decide⟩

theorem fF64_ieee : fF64.Ieee := ⟨rfl, rfl, by decide, by decide⟩

theorem Flt.expField_lt (f : Flt) (b : Nat) : f.expField b < 2 ^ f.eb := Nat.mod_lt _ (Nat.two_pow_pos _)

theorem Flt.fracField_lt (f : Flt) (b : Nat) : f.fracField b < 2 ^ f.mb := Nat.mod_lt _ (Nat.two_pow_pos _)

/-- What an encoding of a format with infinities and NaNs unpacks to, by its fields (R105, R106). -/
theorem Flt.Ieee.unpack_eq {f : Flt} {b : Nat} (hf : f.Ieee) (hb : b < 2 ^ f.width) :
    f.unpack b =
      if f.expField b = 2 ^ f.eb - 1 then
        if f.fracField b = 0 then .inf (decide (2 ^ (f.eb + f.mb) ≤ b))
        else .nan (decide (f.fracField b < 2 ^ (f.mb - 1)))
      else if f.expField b = 0 then .fin (decide (2 ^ (f.eb + f.mb) ≤ b)) (f.fracField b) (1 - (f.bias : Int) - f.mb)
      else .fin (decide (2 ^ (f.eb + f.mb) ≤ b)) (2 ^ f.mb + f.fracField b) ((f.expField b : Int) - f.bias - f.mb) := by
  have hcont : b / 2 ^ f.pad % 2 ^ (1 + f.eb + f.mb) = b := by
    rw [Flt.width, hf.pad_eq, Nat.add_zero] at hb
    rw [hf.pad_eq, pow_zero, Nat.div_one, Nat.mod_eq_of_lt hb]
  have hexp : b % 2 ^ (f.eb + f.mb) / 2 ^ f.mb = f.expField b := by
    rw [Nat.add_comm, Nat.pow_add, Nat.mod_mul_right_div_self, Flt.expField]
  have hfrac : b % 2 ^ (f.eb + f.mb) % 2 ^ f.mb = f.fracField b := by
    rw [Nat.mod_mod_of_dvd _ (Nat.pow_dvd_pow 2 (Nat.le_add_left _ _)), Flt.fracField]
  simp [Flt.unpack, hcont, hexp, hfrac, hf.special_eq, hf.three_le_mb]

/-! ## The class word (R314) -/

/-- KIND of an encoding, by its fields. -/
def Flt.kindField (f : Flt) (b : Nat) : Nat :=
  if f.expField b = 0 then (if f.fracField b = 0 then 0 else 1)
  else if f.expField b < 2 ^ f.eb - 1 then 2
  else if f.fracField b = 0 then 3
  else if 2 ^ (f.mb - 1) ≤ f.fracField b then 4 else 5

/-- EXP of an encoding: the exponent of the leading 1 bit of a normal or subnormal value. -/
def Flt.leadExp (f : Flt) (b : Nat) : Int :=
  if f.kindField b = 2 then f.expField b - f.bias
  else if f.kindField b = 1 then (Nat.log2 (f.fracField b) : Int) - f.mb + 1 - f.bias
  else 0

/-- A field below bit 16 does not meet a multiple of 2^16. -/
theorem ofInt_mul_or_ofNat (e : Int) {k : Nat} (hk : k < 65536) :
    BitVec.ofInt 64 (e * 65536) ||| BitVec.ofNat 64 k = BitVec.ofInt 64 (e * 65536 + k) := by
  have hshift : BitVec.ofInt 64 (e * 65536) = BitVec.ofInt 64 e <<< 16 := by
    rw [BitVec.ofInt_mul, BitVec.shiftLeft_eq_mul_twoPow]; rfl
  have hdisjoint : BitVec.ofInt 64 (e * 65536) &&& BitVec.ofNat 64 k = 0 := by
    apply BitVec.eq_of_getLsbD_eq
    intro i hi
    by_cases hlow : i < 16
    · simp [hshift, hlow]
    · have hzero : k.testBit i = false :=
        Nat.testBit_lt_two_pow (hk.trans_le (Nat.pow_le_pow_right two_pos (Nat.le_of_not_lt hlow)))
      simp [BitVec.getLsbD_ofNat, hzero]
  rw [← BitVec.add_eq_or_of_and_eq_zero _ _ hdisjoint, BitVec.ofInt_add, BitVec.ofInt_natCast]

theorem log2_two_pow_add {m r : Nat} (hr : r < 2 ^ m) : Nat.log2 (2 ^ m + r) = m := by
  have hpos := Nat.two_pow_pos m
  rw [Nat.log2_eq_iff (by omega), Nat.pow_succ]
  omega

theorem Flt.kindField_lt (f : Flt) (b : Nat) : f.kindField b < 6 := by
  unfold Flt.kindField; split_ifs <;> decide

/-- The class word is EXP, NEG and KIND side by side, each as the fields of the encoding say. -/
theorem Flt.Ieee.classWord_eq {f : Flt} {b : Nat} (hf : f.Ieee) (hb : b < 2 ^ f.width) :
    f.classWord b =
      BitVec.ofInt 64 (f.leadExp b * 65536 + (if 2 ^ (f.eb + f.mb) ≤ b then 8 else 0 : Nat) + f.kindField b) := by
  have hunpack := hf.unpack_eq hb
  have hexp := hf.one_lt_two_pow_eb
  have hlow : (if 2 ^ (f.eb + f.mb) ≤ b then 8 else 0) + f.kindField b < 65536 := by
    have := f.kindField_lt b
    split <;> omega
  rw [add_assoc, ← Nat.cast_add, ← ofInt_mul_or_ofNat _ hlow, Flt.classWord, Nat.mod_eq_of_lt hb]
  by_cases hsub : f.expField b = 0
  · have htop : 0 ≠ 2 ^ f.eb - 1 := by omega
    have hlead (l : Int) : 1 - (f.bias : Int) - f.mb + l = l - f.mb + 1 - f.bias := by ring
    by_cases hz : f.fracField b = 0
    · simp [hunpack, Flt.leadExp, Flt.kindField, hsub, htop, hz]
    · simp [hunpack, Flt.leadExp, Flt.kindField, hsub, htop, hz, f.fracField_lt b, hlead]
  · by_cases htop : f.expField b = 2 ^ f.eb - 1
    · have hne : 2 ^ f.eb - 1 ≠ 0 := by omega
      by_cases hz : f.fracField b = 0
      · simp [hunpack, Flt.leadExp, Flt.kindField, htop, hne, hz]
      · by_cases hquiet : 2 ^ (f.mb - 1) ≤ f.fracField b
        · simp [hunpack, Flt.leadExp, Flt.kindField, htop, hne, hz, hquiet, hquiet.not_gt]
        · simp [hunpack, Flt.leadExp, Flt.kindField, htop, hne, hz, hquiet, Nat.lt_of_not_le hquiet]
    · have hlt : f.expField b < 2 ^ f.eb - 1 := by
        have := f.expField_lt b
        omega
      simp [hunpack, Flt.leadExp, Flt.kindField, htop, hsub, hlt, log2_two_pow_add (f.fracField_lt b)]

/-- Settles O15: both scalar formats are of the kind whose class word is read off the fields, and the operand's bits lie in
the format's width. -/
theorem classify : Obligations.Classify := by
  unfold Obligations.Classify
  intro s d a p
  obtain rfl | rfl := p.eq_zero_or_eq_one
  · exact plainly_setResult rfl (fF32_ieee.classWord_eq (Nat.mod_lt _ (by decide)))
  · exact plainly_setResult rfl (fF64_ieee.classWord_eq (Nat.mod_lt _ (by decide)))

end Sys2Proof.Machine
end

section
/-! PROOFS. Shifts and the rotation (18: R352, R362): a right shift is a floored quotient, the rotation reads its bits round
the doubleword, and the SHIFTI words whose function bits name no shift decode to nothing. -/
namespace Sys2Proof.Machine

/-! ## Right shifts as quotients (R362) -/

theorem ofNat_toNat_div_two_pow {n : Nat} (x : BitVec n) (k : Nat) : BitVec.ofNat n (x.toNat / 2 ^ k) = x >>> k := by
  rw [← Nat.shiftRight_eq_div_pow, ← BitVec.toNat_ushiftRight, BitVec.ofNat_toNat, BitVec.setWidth_eq]

theorem ofInt_toInt_div_two_pow {n : Nat} (x : BitVec n) (k : Nat) :
    BitVec.ofInt n (x.toInt / 2 ^ k) = x.sshiftRight k := by
  rw [BitVec.sshiftRight, Int.shiftRight_eq_div_pow, Nat.cast_pow, Nat.cast_ofNat]

/-! ## The rotation (R352) -/

/-- The part shifted right holds the bits that do not pass bit 63, the part shifted left those that come round. -/
theorem getLsbD_ror64 (x : W64) {k i : Nat} (hk : k < 64) (hi : i < 64) :
    (ror64 x k).getLsbD i = x.getLsbD ((i + k) % 64) := by
  rw [ror64, BitVec.getLsbD_or, BitVec.getLsbD_ushiftRight, BitVec.getLsbD_shiftLeft]
  by_cases hround : i + k < 64
  case pos =>
    rw [Nat.mod_eq_of_lt hround, Nat.add_comm k i]
    rcases Nat.eq_zero_or_pos k with rfl | hpos
    · simp [hi]
    · have hlow : i < (64 - k) % 64 := by omega
      simp [hlow]
  case neg =>
    have hplace : i - (64 - k) % 64 = (i + k) % 64 := by omega
    have hhigh : ¬ i < (64 - k) % 64 := by omega
    rw [BitVec.getLsbD_of_ge x (k + i) (by omega), hplace]
    simp [hi, hhigh]

/-! ## SHIFTI words that decode to nothing (R264, R362) -/

section
variable (op : BitVec 7) (d a : BitVec 5) (sh : BitVec 2) (z : BitVec 7) (h : BitVec 6)

/-- The number of a SHIFTI word. -/
theorem toNat_shiftWord : (op ++ d ++ a ++ sh ++ z ++ h).toNat =
    op.toNat * 2 ^ 25 + d.toNat * 2 ^ 20 + a.toNat * 2 ^ 15 + sh.toNat * 2 ^ 13 + z.toNat * 2 ^ 6 + h.toNat := by
  simp only [toNat_append_eq_add]; ring

theorem bits_shiftWord_op : bits (op ++ d ++ a ++ sh ++ z ++ h).toNat 25 7 = op.toNat := by
  rw [toNat_shiftWord, bits]; omega

theorem bits_shiftWord_fn : bits (op ++ d ++ a ++ sh ++ z ++ h).toNat 6 9 = sh.toNat * 2 ^ 7 + z.toNat := by
  rw [toNat_shiftWord, bits]; omega

end

theorem decodeRow_op09 {w : Nat} (hop : bits w 25 7 = 9) : decodeRow w = decodeOp09 w := by
  simp only [decodeRow, hop]

theorem decodeOp09_eq_none {w : Nat} (hfn : bits w 6 9 ∉ [0, 128, 256]) : decodeOp09 w = none := by
  simp only [List.mem_cons, List.not_mem_nil, or_false, not_or] at hfn
  unfold decodeOp09
  simp (disch := omega) only [if_neg]

/-- The function bits of SLLI, SRLI and SRAI are sh 0, 1 and 2 over seven zeros. -/
theorem shiftWord_fn_notMem {sh : BitVec 2} {z : BitVec 7} (hbad : sh = 3 ∨ z ≠ 0) :
    sh.toNat * 2 ^ 7 + z.toNat ∉ [0, 128, 256] := by
  simp only [List.mem_cons, List.not_mem_nil, or_false]
  rcases hbad with rfl | hz
  · have hsh : (3 : BitVec 2).toNat = 3 := rfl
    omega
  · have hz0 : z.toNat ≠ 0 := mt (toNat_eq_zero z).mp hz
    omega

theorem decode_op09_unassigned (d a : BitVec 5) (z : BitVec 7) (h : BitVec 6) (sh : BitVec 2) (hbad : sh = 3 ∨ z ≠ 0) :
    decode (9#7 ++ d ++ a ++ sh ++ z ++ h) = .error .unassigned := by
  have hop : bits (9#7 ++ d ++ a ++ sh ++ z ++ h).toNat 25 7 = 9 := bits_shiftWord_op 9 d a sh z h
  refine decode_eq_unassigned hop (by decide) ((decodeRow_op09 hop).trans (decodeOp09_eq_none ?_))
  rw [bits_shiftWord_fn]
  exact shiftWord_fn_notMem hbad

/-! ## The obligation -/

/-- Settles O2: each instruction sets x[rd] to one shift of the operand or of its low word by the amount read, which is the
product or the floored quotient of its rule; ROR is settled bit by bit. -/
theorem shifts : Obligations.Shifts := by
  unfold Obligations.Shifts
  refine ⟨?results, decode_op09_unassigned, by rfl, by rfl, by rfl, by rfl, by rfl⟩
  case results =>
    intro s d a b h x n m w
    have hn : sh6 (s.x b) = n := sh6_eq (s.x b)
    have hm : sh5 (s.x b) = m := sh5_eq (s.x b)
    refine ⟨?sll, ?srl, ?sra, ?sllw, ?srlw, ?sraw, ?slli, ?srli, ?srai, ?ror⟩
    case sll => exact plainly_setResult rfl (by rw [ofNat_toNat_mul_two_pow, BitVec.setWidth_eq, ← hn])
    case srl => exact plainly_setResult rfl (by rw [ofNat_toNat_div_two_pow, ← hn])
    case sra => exact plainly_setResult rfl (by rw [ofInt_toInt_div_two_pow, ← hn])
    case sllw => exact plainly_setResult rfl (by rw [ofNat_toNat_mul_two_pow, BitVec.setWidth_eq, ← hm]; rfl)
    case srlw => exact plainly_setResult rfl (by rw [ofNat_toNat_div_two_pow, ← hm]; rfl)
    case sraw => exact plainly_setResult rfl (by rw [ofInt_toInt_div_two_pow, ← hm]; rfl)
    case slli => exact plainly_setResult rfl (by rw [ofNat_toNat_mul_two_pow, BitVec.setWidth_eq])
    case srli => exact plainly_setResult rfl (ofNat_toNat_div_two_pow x h.toNat).symm
    case srai => exact plainly_setResult rfl (ofInt_toInt_div_two_pow x h.toNat).symm
    case ror =>
      have hn64 : n < 64 := Nat.mod_lt _ (by decide)
      exact (plainly_setResult rfl (congrArg (ror64 x) hn)).imp fun t ht => ⟨_, ht, fun i hi => getLsbD_ror64 x hn64 hi⟩

end Sys2Proof.Machine
end
